-- ==== Sys2Proof/Word.lean ====
section
/-! DEFINITION. The words of the Belmir (R8: a byte is 8 bits, a half 16, a word 32, a double 64; memory is
little-endian) and the plainest arithmetic over them. -/

namespace Sys2Proof

abbrev Byte := BitVec 8
abbrev Half := BitVec 16
abbrev Word := BitVec 32
abbrev Dword := BitVec 64
/-- A program counter, a 57-bit virtual byte address (R19). -/
abbrev Pc := BitVec 57
/-- A set of threads of one group: bit t for thread t (R185). -/
abbrev TSet := BitVec 1024

/-- The little-endian value of a list of bytes, the first at the lowest address (R8). -/
def leNat : List Byte → Nat
  | [] => 0
  | b :: bs => b.toNat + 256 * leNat bs

/-- The `n` little-endian bytes of a number (R8). -/
def leBytes : Nat → Nat → List Byte
  | 0, _ => []
  | n + 1, v => BitVec.ofNat 8 v :: leBytes n (v / 256)

/-- Bits `hi` down to `lo` of a number, as a number. -/
def bits (v hi lo : Nat) : Nat := v / 2 ^ lo % 2 ^ (hi + 1 - lo)

/-- Bit `i` of a number. -/
def bit (v i : Nat) : Bool := v / 2 ^ i % 2 == 1

/-- The double whose low and high words are given (a pair dN, dN+1: R12). -/
def pairOf (lo hi : Word) : Dword := hi ++ lo

def loWord (v : Dword) : Word := v.extractLsb' 0 32
def hiWord (v : Dword) : Word := v.extractLsb' 32 32

/-- A Bool as a number. -/
def b2n (b : Bool) : Nat := if b then 1 else 0

/-- Integer division rounding down (Floor in the spec's pseudocode) by a power of two. -/
def floorShift (x : Int) (n : Nat) : Int := Int.fdiv x (2 ^ n)

end Sys2Proof
end

