-- ==== Sys2Proof/Syntax.lean ====
section
/-! DEFINITION. The instructions a thread executes and the steps of the device, one constructor for each row of
spec/opcode_table.json, with their operands. -/

namespace Sys2Proof

/-- Length of an instruction that is not a short (R46). -/
inductive Len where
  | l64 | l96 | l128
  deriving DecidableEq, Repr

/-- Length in bytes (R46). -/
def Len.bytes : Len → Nat
  | .l64 => 8 | .l96 => 12 | .l128 => 16

/-- The fields of R50 that every instruction but a short has: GUARD, NEG, L, S, B and LEN. -/
structure Hdr where
  guard : BitVec 3
  neg : Bool
  /-- L, the lookahead (R58). -/
  look : BitVec 4
  /-- S, `.nf` (R51). -/
  nf : Bool
  /-- B, the run boundary (R34). -/
  bnd : Bool
  len : Len
  deriving DecidableEq, Repr

/-- The fields of a full-length instruction as R50 and R57 lay them out; `hi` holds bits [127:64]. -/
structure Raw where
  hdr : Hdr
  op : BitVec 8
  var : BitVec 4
  dst : BitVec 8
  srca : BitVec 8
  srcb : BitVec 8
  mod : BitVec 16
  hi : BitVec 64
  deriving DecidableEq, Repr

/-- A d register's number, as a register field holds it (R54). -/
abbrev DReg := BitVec 8
/-- A predicate's number (R54). -/
abbrev QReg := BitVec 3

/-- A source operand by kind (R55): a d register, a g register, or an immediate, held sign-extended to 64 bits (R56). -/
inductive Src where
  | d (n : DReg)
  | g (n : BitVec 6)
  | imm (v : BitVec 64)
  deriving DecidableEq, Repr

/-- The rounding selector rm of R75: VARIANT 0 to 3, or 4 for %fmode (R140). -/
inductive Rm where
  | rn | rz | rd | ru | dyn
  deriving DecidableEq, Repr

/-- CVT's VARIANT: rm, or 5 for stochastic rounding (R153). -/
inductive CvtMode where
  | rm (m : Rm) | rs
  deriving DecidableEq, Repr

/-- Conditions of ICMP (R144). -/
inductive ICc where
  | eq | ne | lt | le | gt | ge | ltu | leu | gtu | geu
  deriving DecidableEq, Repr

/-- Conditions of FCMP (R149). -/
inductive FCc where
  | eq | ne | lt | le | gt | ge | num | nan
  deriving DecidableEq, Repr

/-- Width of B in LADD, LSUB and LMUL (R145). -/
inductive Bw where
  | full | sx | zx
  deriving DecidableEq, Repr

/-- CVT's format codes (R153). -/
inductive CvtFmt where
  | i8 | i16 | i32 | f16 | b16 | f32 | e4m3 | e5m2 | n8 | n16 | n32 | i64 | n64 | f64
  deriving DecidableEq, Repr

/-- PACK's and UNPACK's formats (R157). -/
inductive PackFmt where
  | i16 | f16 | b16
  deriving DecidableEq, Repr

/-- Special registers by their code (R159). -/
inductive SReg where
  | tid | gid | nthreads | cid | core | part | fstat | fmode | cyc | stk | job | launch
  deriving DecidableEq, Repr

/-- PLOP's operations (R161). -/
inductive POp where
  | and | or | xor | not
  deriving DecidableEq, Repr

/-- CVSET's MODE (R186). -/
inductive CvMode where
  | range | word | clear
  deriving DecidableEq, Repr

/-- SHFL's variants (R191). -/
inductive ShflOp where
  | idx | up | down | xor
  deriving DecidableEq, Repr

/-- Operations of REDUX and SCAN (R192). -/
inductive FoldOp where
  | add | min | max | and | or | xor
  deriving DecidableEq, Repr

/-- Types of REDUX and SCAN (R181, field TY). -/
inductive FoldTy where
  | i32 | n32 | f32
  deriving DecidableEq, Repr

/-- Orders of a memory operation (R110, R162). -/
inductive Order where
  | plain | rlx | acq | rel | ar | sc
  deriving DecidableEq, Repr

/-- Scopes (R109, R162). -/
inductive Scope where
  | thr | grp | clu | dev | sys
  deriving DecidableEq, Repr

/-- The memory-control byte MC (R162). -/
structure Mc where
  order : Order
  scope : Scope
  w64 : Bool
  nsg : Bool
  deriving DecidableEq, Repr

/-- Widths of loads (R75, opcodes 0x80, 0x82, 0x84). -/
inductive LdW where
  | b8 | b16 | b32 | b64 | b128 | s8 | s16
  deriving DecidableEq, Repr

/-- Widths of stores (R75, opcodes 0x81, 0x83, 0x85). -/
inductive StW where
  | b8 | b16 | b32 | b64 | b128
  deriving DecidableEq, Repr

/-- Operations of ATOM and RED (R169). -/
inductive AtomOp where
  | add | min | max | and | or | xor | exch | cas | fadd | fmin | fmax
  deriving DecidableEq, Repr

/-- Kinds of FENCE (R172). -/
inductive FenceKind where
  | acq | rel | ar | sc
  deriving DecidableEq, Repr

/-- RECON's operations and types (R177). -/
inductive ReconOp where
  | sum | min | max | and | or
  deriving DecidableEq, Repr
inductive ReconTy where
  | i64 | n64 | f32 | f64
  deriving DecidableEq, Repr

/-- Formats of layout records (R84). -/
inductive LFmt where
  | i8 | i16 | i32 | f16 | b16 | f32 | e4m3 | e5m2 | dx8 | dx4 | i4 | sb16 | se4m3
  deriving DecidableEq, Repr

/-- Levels of CNT.WAIT and CANCEL (R200). -/
inductive Lvl where
  | launch | graph | phase | job
  deriving DecidableEq, Repr

/-- A thread of the device: its group's place in State and its %tid. -/
structure ThreadRef where
  grp : Nat
  tid : Nat
  deriving DecidableEq, Repr

/-- Where a group is placed: a core and the first of its accumulator rows (R251, R286). -/
structure Place where
  core : Nat
  acc : Nat
  deriving DecidableEq, Repr

/-- A write to the management window (R318): the offset in BAR0, whether it is a b64 write, and the value. -/
structure HostWrite where
  off : Nat
  b64 : Bool
  val : BitVec 64
  deriving DecidableEq, Repr

/-- A host or peer access to device memory (R214, R317, R321): an address, and the bytes written or the number of bytes read; or
an atomic operation on the word or double with index `k`, its operands as numbers (R169). -/
inductive MemAccess where
  | read (pa len : Nat)
  | write (pa : Nat) (data : List Byte)
  | atomic (op : AtomOp) (w64 nsg : Bool) (k b cmp : Nat)
  deriving DecidableEq, Repr

/-- An access of the host, through BAR2 or, with `cxl`, through CXL.mem (R316, R317). -/
structure HostAccess where
  cxl : Bool
  access : MemAccess
  deriving DecidableEq, Repr

/-- A collective payload on a Umary link (R324). -/
structure Payload where
  tag : Word
  hop : Nat
  count : Nat
  fmt : Nat
  /-- the elements, as bit patterns of the format. -/
  data : List Word
  deriving DecidableEq, Repr

/-- One constructor for each row of spec/opcode_table.json. The thread instructions carry the header of R50 first; the
steps of the device carry what the rules leave to the machine's surroundings or to its unarchitected choices. -/
inductive Instr where
  -- shorts (R63, R65, R49)
  | short (b : Bool) (idx : BitVec 8) (h0 h1 h2 : BitVec 7)
  | shortNop (b : Bool) (h0 h1 h2 : BitVec 7)
  -- integer (R141 to R145)
  | iadd (h : Hdr) (d : DReg) (a b : Src)
  | isub (h : Hdr) (d : DReg) (a b : Src)
  | imul (h : Hdr) (d : DReg) (a b : Src)
  | imulh (h : Hdr) (u : Bool) (d : DReg) (a b : Src)
  | imad (h : Hdr) (d : DReg) (a b c : Src)
  | imadw (h : Hdr) (u : Bool) (d : DReg) (a b c : Src)
  | ineg (h : Hdr) (d : DReg) (a : Src)
  | iabs (h : Hdr) (d : DReg) (a : Src)
  | imin (h : Hdr) (u : Bool) (d : DReg) (a b : Src)
  | imax (h : Hdr) (u : Bool) (d : DReg) (a b : Src)
  | ishl (h : Hdr) (d : DReg) (a b : Src)
  | ishr (h : Hdr) (d : DReg) (a b : Src)
  | ilsr (h : Hdr) (d : DReg) (a b : Src)
  | irot (h : Hdr) (d : DReg) (a b : Src)
  | iand (h : Hdr) (d : DReg) (a b : Src)
  | ior (h : Hdr) (d : DReg) (a b : Src)
  | ixor (h : Hdr) (d : DReg) (a b : Src)
  | iandn (h : Hdr) (d : DReg) (a b : Src)
  | inot (h : Hdr) (d : DReg) (a : Src)
  | ipopc (h : Hdr) (d : DReg) (a : Src)
  | iclz (h : Hdr) (d : DReg) (a : Src)
  | ibrev (h : Hdr) (d : DReg) (a : Src)
  | ibfe (h : Hdr) (u : Bool) (d : DReg) (a b : Src)
  | ibfi (h : Hdr) (d : DReg) (a b c : Src)
  | idiv (h : Hdr) (u : Bool) (d : DReg) (a b : Src)
  | irem (h : Hdr) (u : Bool) (d : DReg) (a b : Src)
  | isel (h : Hdr) (pn : Bool) (pq : QReg) (d : DReg) (a b : Src)
  | icmp (h : Hdr) (cc : ICc) (q : QReg) (a b : Src)
  | ladd (h : Hdr) (bw : Bw) (d : DReg) (a b : Src)
  | lsub (h : Hdr) (bw : Bw) (d : DReg) (a b : Src)
  | lmul (h : Hdr) (bw : Bw) (d : DReg) (a b : Src)
  | lshl (h : Hdr) (d : DReg) (a b : Src)
  | lshr (h : Hdr) (u : Bool) (d : DReg) (a b : Src)
  | aadd (h : Hdr) (u : Bool) (sh : BitVec 4) (d : DReg) (a b : Src)
  | alea (h : Hdr) (u : Bool) (d : DReg) (a b c : Src)
  -- floating point (R146 to R152)
  | fadd (h : Hdr) (rm : Rm) (d : DReg) (a b : Src)
  | fsub (h : Hdr) (rm : Rm) (d : DReg) (a b : Src)
  | fmul (h : Hdr) (rm : Rm) (d : DReg) (a b : Src)
  | ffma (h : Hdr) (rm : Rm) (d : DReg) (a b c : Src)
  | fdiv (h : Hdr) (rm : Rm) (d : DReg) (a b : Src)
  | fmin (h : Hdr) (d : DReg) (a b : Src)
  | fmax (h : Hdr) (d : DReg) (a b : Src)
  | fcmp (h : Hdr) (cc : FCc) (q : QReg) (a b : Src)
  | fsel (h : Hdr) (pn : Bool) (pq : QReg) (d : DReg) (a b : Src)
  | fclass (h : Hdr) (d : DReg) (a : Src)
  | fscale (h : Hdr) (rm : Rm) (d : DReg) (a b : Src)
  | frint (h : Hdr) (rm : Rm) (d : DReg) (a : Src)
  | ffrac (h : Hdr) (d : DReg) (a : Src)
  | frcp (h : Hdr) (d : DReg) (a : Src)
  | frsq (h : Hdr) (d : DReg) (a : Src)
  | fex2 (h : Hdr) (d : DReg) (a : Src)
  | flg2 (h : Hdr) (d : DReg) (a : Src)
  | hadd2 (h : Hdr) (rm : Rm) (bf : Bool) (d : DReg) (a b : Src)
  | hmul2 (h : Hdr) (rm : Rm) (bf : Bool) (d : DReg) (a b : Src)
  | hfma2 (h : Hdr) (rm : Rm) (bf : Bool) (d : DReg) (a b c : Src)
  -- conversion and DX (R153 to R157)
  | cvt (h : Hdr) (m : CvtMode) (df sf : CvtFmt) (d : DReg) (a b : Src)
  | dxpack (h : Hdr) (dx4 : Bool) (d : DReg) (a : Src) (c : BitVec 4)
  | dxunpack (h : Hdr) (dx4 : Bool) (d : DReg) (a b : Src)
  | pack (h : Hdr) (f : PackFmt) (d : DReg) (a b : Src)
  | unpack (h : Hdr) (f : PackFmt) (d : DReg) (a : Src)
  -- moves, special registers, predicates (R158 to R161)
  | mov (h : Hdr) (w : Bool) (d : DReg) (a : Src)
  | movi (h : Hdr) (w : Bool) (d : DReg) (v : BitVec 64)
  | sread (h : Hdr) (d : DReg) (r : SReg)
  | swrite (h : Hdr) (r : SReg) (a : Src)
  | bmix (h : Hdr) (d : DReg) (a b c : Src)
  | pset (h : Hdr) (z : Bool) (q : QReg) (a b : Src)
  | plop (h : Hdr) (op : POp) (na nb : Bool) (q qa qb : QReg)
  -- control transfer (R182 to R184)
  | bra (h : Hdr) (off : Word)
  | braU (h : Hdr) (off : Word)
  | brx (h : Hdr) (n : DReg)
  | call (h : Hdr) (off : Word)
  | callx (h : Hdr) (n : DReg)
  | ret (h : Hdr)
  | exit (h : Hdr)
  | nop (h : Hdr)
  | yield (h : Hdr)
  -- cooperation (R185 to R197)
  | cvset (h : Hdr) (m : CvMode) (c : BitVec 4) (a b : Src)
  | cvsign (h : Hdr) (c : BitVec 4)
  | shfl (h : Hdr) (op : ShflOp) (d : DReg) (a b : Src) (c : BitVec 4)
  | voteAll (h : Hdr) (na : Bool) (q p : QReg) (c : BitVec 4)
  | voteAny (h : Hdr) (na : Bool) (q p : QReg) (c : BitVec 4)
  | voteBallot (h : Hdr) (na : Bool) (d : DReg) (p : QReg) (b : Src) (c : BitVec 4)
  | redux (h : Hdr) (op : FoldOp) (ty : FoldTy) (d : DReg) (a : Src) (c : BitVec 4)
  | scan (h : Hdr) (op : FoldOp) (ty : FoldTy) (ex : Bool) (d : DReg) (a : Src) (c : BitVec 4)
  | barArrive (h : Hdr) (n : BitVec 4) (cnt : Option Src)
  | barWait (h : Hdr) (n : BitVec 4)
  | barSync (h : Hdr) (n : BitVec 4) (cnt : Option Src)
  | qcfg (h : Hdr) (n : BitVec 3) (a b : Src)
  | qpush (h : Hdr) (tr : Bool) (p : QReg) (n : BitVec 3) (b : Src)
  | qpop (h : Hdr) (tr : Bool) (p : QReg) (src : Bool) (d : DReg) (n : BitVec 3)
  -- memory (R162 to R173)
  | ld (h : Hdr) (w : LdW) (m : Mc) (d n : DReg) (off : Word)
  | st (h : Hdr) (w : StW) (m : Mc) (n : DReg) (off : Word) (s : DReg)
  | lds (h : Hdr) (w : LdW) (m : Mc) (d n : DReg) (off : Word)
  | sts (h : Hdr) (w : StW) (m : Mc) (n : DReg) (off : Word) (s : DReg)
  | ldr (h : Hdr) (w : LdW) (m : Mc) (d n : DReg) (off : Word)
  | str (h : Hdr) (w : StW) (m : Mc) (n : DReg) (off : Word) (s : DReg)
  | ldp (h : Hdr) (g : BitVec 6) (k : BitVec 4) (m : BitVec 6) (off : Word)
  | atom (h : Hdr) (op : AtomOp) (m : Mc) (d n : DReg) (off : Word) (b cmp : DReg)
  | red (h : Hdr) (op : AtomOp) (m : Mc) (n : DReg) (off : Word) (b : DReg)
  | fence (h : Hdr) (k : FenceKind) (sc : Scope)
  | cctlRange (h : Hdr) (n l : DReg)
  | cctlAll (h : Hdr)
  | pref (h : Hdr) (n : DReg) (off : Word)
  -- sibling (R174 to R179)
  | sld (h : Hdr) (v : BitVec 4) (d n : DReg)
  | sst (h : Hdr) (s n v : DReg) (tok : Option DReg)
  | sstT (h : Hdr) (s n v : DReg) (tok : Option DReg)
  | recon (h : Hdr) (op : ReconOp) (ty : ReconTy) (d n : DReg)
  | reconSet (h : Hdr) (s n v t : DReg)
  -- row functions (R219 to R225)
  | rowreg (h : Hdr) (d n : DReg)
  | rowreq (h : Hdr) (d n : DReg)
  | rowwait (h : Hdr) (d a : DReg)
  | rowqry (h : Hdr) (d n : DReg)
  | rowcancel (h : Hdr) (d a : DReg)
  -- copy engine and arrival barriers (R244 to R249)
  | cpy (h : Hdr) (f : Option LFmt) (t : Bool) (mask : BitVec 4) (d n q b : DReg)
  | cpyo (h : Hdr) (f : Option LFmt) (t : Bool) (s n q w : DReg)
  | cpyhTo (h : Hdr) (f : Option LFmt) (t : Bool) (s n q w : DReg)
  | cpyhFrom (h : Hdr) (f : Option LFmt) (t : Bool) (d n q w : DReg)
  | cpyx (h : Hdr) (mask : BitVec 4) (d n q b : DReg)
  | arvInit (h : Hdr) (rm : Bool) (a : DReg) (b : Src)
  | arvWait (h : Hdr) (rm : Bool) (d a : DReg)
  | arvTest (h : Hdr) (rm : Bool) (q : QReg) (a : DReg)
  | arvAdd (h : Hdr) (rm : Bool) (a : DReg) (b : Src)
  -- tile engine (R254 to R258)
  | mma (h : Hdr) (f : LFmt) (q b : DReg) (c : BitVec 4)
  | mmz (h : Hdr) (a b : DReg) (c : BitVec 4)
  | wbld (h : Hdr) (s n q b : DReg) (c : BitVec 4)
  | wbldSparse (h : Hdr) (s n q b : DReg) (c : BitVec 4)
  | wbrel (h : Hdr) (b : DReg) (c : BitVec 4)
  | accld (h : Hdr) (f : LFmt) (q b : DReg) (c : BitVec 4)
  | accst (h : Hdr) (f : LFmt) (q b : DReg) (c : BitVec 4)
  -- cluster reduction (R260 to R263)
  | credSmx (h : Hdr) (d s b k : DReg) (c : BitVec 4)
  | credSum (h : Hdr) (d s b k : DReg) (c : BitVec 4)
  | credMax (h : Hdr) (d s b k : DReg) (c : BitVec 4)
  -- grammar engine (R270 to R276)
  | gseg (h : Hdr) (d n : DReg) (c : BitVec 4)
  | gvec (h : Hdr) (d q : DReg) (c : BitVec 4)
  | grun (h : Hdr) (d : DReg) (c : BitVec 4)
  | gout (h : Hdr) (d : DReg) (c : BitVec 4)
  | gwait (h : Hdr) (d : DReg)
  -- dictionary (R203 to R205)
  | dictLoad (h : Hdr) (d n : DReg)
  | dictRead (h : Hdr) (d : DReg) (b : Src)
  | fenceF (h : Hdr)
  -- launch, wait, cancel, tape (R198 to R200, R290)
  | launch (h : Hdr) (d n : DReg)
  | cntWait (h : Hdr) (lvl : Lvl) (tr : Bool) (d : DReg) (a : Src)
  | cancel (h : Hdr) (lvl : Lvl) (d : DReg) (a : Src)
  | tapePush (h : Hdr) (d n : DReg)
  -- traps and system (R201, R202, R309 to R313)
  | trap (h : Hdr) (code : Half)
  | assert (h : Hdr) (n : DReg) (code : Half)
  | resumeRetry (h : Hdr)
  | resumeSkip (h : Hdr)
  | kill (h : Hdr)
  | srd (h : Hdr) (d : DReg) (b : Src)
  | swr (h : Hdr) (b : Src) (a : DReg)
  | tlbinvAll (h : Hdr)
  | tlbinvPage (h : Hdr) (n : DReg)
  | gswap (h : Hdr) (d : DReg) (c : BitVec 4)
  -- steps of the cores, the swap engine, the dispatcher and the engines
  | resultDelivery (t : ThreadRef)
  | runPick (core part : Nat)
  | quantumExpiry (grp : Nat)
  | groupSwapOut (grp : Nat)
  | groupSwapIn (grp : Nat) (places : List Place)
  | launchQueueTake (q : Nat)
  | groupStart (asid lid : Nat) (places : List Place)
  | launchCompletion (asid lid : Nat)
  | tapeReplay (serial : Nat)
  | tapePop (serial : Nat)
  | copyOperation (id : Nat)
  | tileOperation (id : Nat)
  | wbldOperation (id : Nat)
  | credResultWrite (id : Nat)
  | grunEvaluation (id : Nat)
  | goutOperation (id : Nat)
  | rowReachBank (fn bank : Nat)
  | sweepVisit (bank : Nat)
  | floorRaise (pa : Nat) (floor : Word)
  | faultBufferEntryFree (asid : Nat)
  | jreplay (asid : BitVec 12)
  | handlerGroupStart (asid core : Nat)
  | quotaTrap (asid lid core : Nat)
  | stopRecordWrite (asid : Nat)
  | preemptStage2 (asid : Nat)
  | preemptStage3 (asid : Nat)
  -- the host's writes and commands (R281, R282, R318, R319)
  | qbaseQctlWrite (w : HostWrite)
  | qwrWrite (w : HostWrite)
  | bind (arg : Word)
  | unbind (asid : BitVec 12) (arg : Word)
  | preempt (asid : BitVec 12) (arg : Word)
  | resume (asid : BitVec 12) (arg : Word)
  | canceljob (asid : BitVec 12) (arg : Word)
  | setquota (asid : BitVec 12) (arg : Word)
  | tlbinv (asid : BitVec 12) (arg : Word)
  | fencelink (arg : Word)
  | unfencelink (arg : Word)
  | freeze (arg : Word)
  | clearlog (arg : Word)
  | badop (op : BitVec 8) (asid : BitVec 12) (arg : Word)
  | errorLogFree (w : HostWrite)
  | attestationRequest (w : HostWrite)
  | attestationReport
  | plimitWrite (w : HostWrite)
  | cethreshWrite (w : HostWrite)
  | registerWrite (w : HostWrite)
  -- host, peers, links, collectives (R317, R321 to R325, R332, R333)
  | hostMemoryAccess (a : HostAccess)
  | umaryIncomingAccess (link : Nat) (a : MemAccess)
  | linkDown (link : Nat)
  | collectiveStart (grp : Nat) (va : Dword)
  | collectivePayload (link : Nat) (p : Payload)
  | collectiveCompute (id : Nat)
  -- boot, freeze, readout, temperature, power (R326 to R329, R333, R336)
  | reset
  | bootVerifyComplete (ok : Bool)
  | freezeN
  | readmem (pa : BitVec 52) (len : Word)
  | readthr (core : BitVec 8)
  | stackOver85c (stack : Nat) (hot : Bool)
  | thermtrip
  | illegalOpcode (r : Raw)
  | linkRetraining (link : Nat)
  | lossOfPower
  deriving DecidableEq, Repr

end Sys2Proof
end

