-- ==== Sys2Proof/Machine/Flags.lean ====
section
/-! DEFINITION. Number formats, rounding, flags and the arithmetic helpers of "Number formats and arithmetic"
(R78 to R102). -/

namespace Sys2Proof.Machine

/-- Flags in %fstat's bit order (R22). -/
abbrev Flags := BitVec 5
def fIO : Flags := 16
def fDZ : Flags := 8
def fOF : Flags := 4
def fUF : Flags := 2
def fIX : Flags := 1

def flagIf (c : Bool) (f : Flags) : Flags := if c then f else 0

/-! ## Exact values -/

/-- An exact signed magnitude `n / d`; a zero keeps its sign. -/
structure Q where
  neg : Bool
  n : Nat
  d : Nat
  deriving DecidableEq, Repr

/-- The magnitude `n * 2^e`. -/
def Q.mk2 (neg : Bool) (n : Nat) (e : Int) : Q :=
  if 0 ≤ e then ⟨neg, n * 2 ^ e.toNat, 1⟩ else ⟨neg, n, 2 ^ (-e).toNat⟩

def Q.ofInt (i : Int) : Q := ⟨decide (i < 0), i.natAbs, 1⟩
/-- The signed numerator. -/
def Q.num (q : Q) : Int := if q.neg then -(q.n : Int) else q.n
def Q.negate (q : Q) : Q := { q with neg := !q.neg }
def Q.mul (a b : Q) : Q := ⟨a.neg != b.neg, a.n * b.n, a.d * b.d⟩
def Q.div (a b : Q) : Q := ⟨a.neg != b.neg, a.n * b.d, a.d * b.n⟩
/-- The product with `2^e`. -/
def Q.scale (a : Q) (e : Int) : Q :=
  if 0 ≤ e then { a with n := a.n * 2 ^ e.toNat } else { a with d := a.d * 2 ^ (-e).toNat }

/-- Exact sum; a zero sum of like-signed operands keeps their sign, any other is `zneg` (R85, R170; log entry 16). -/
def Q.add (zneg : Bool) (a b : Q) : Q :=
  let s : Int := a.num * b.d + b.num * a.d
  if s = 0 then ⟨if a.neg = b.neg then a.neg else zneg, 0, 1⟩ else ⟨decide (s < 0), s.natAbs, a.d * b.d⟩

def Q.lt (a b : Q) : Bool := decide (a.num * b.d < b.num * a.d)
def Q.eq (a b : Q) : Bool := decide (a.num * b.d = b.num * a.d)
/-- Floor of the signed value. -/
def Q.floor (a : Q) : Int := Int.fdiv a.num a.d

/-- A value of a floating-point format (R78, R79). -/
inductive FVal where
  | nan (sig : Bool)
  | inf (neg : Bool)
  | fin (q : Q)
  deriving DecidableEq, Repr

def FVal.isNan : FVal → Bool | .nan _ => true | _ => false
def FVal.isSig : FVal → Bool | .nan s => s | _ => false
def FVal.isInf : FVal → Bool | .inf _ => true | _ => false
def FVal.isZero : FVal → Bool | .fin q => q.n == 0 | _ => false
def FVal.sign : FVal → Bool | .nan _ => false | .inf s => s | .fin q => q.neg
def FVal.negate : FVal → FVal | .nan s => .nan s | .inf s => .inf (!s) | .fin q => .fin q.negate

/-! ## Formats (R78) -/

inductive FFmt where
  | f64 | f32 | f16 | b16 | e4m3 | e5m2
  deriving DecidableEq, Repr

def FFmt.width : FFmt → Nat
  | .f64 => 64 | .f32 => 32 | .f16 => 16 | .b16 => 16 | .e4m3 => 8 | .e5m2 => 8
def FFmt.frac : FFmt → Nat
  | .f64 => 52 | .f32 => 23 | .f16 => 10 | .b16 => 7 | .e4m3 => 3 | .e5m2 => 2
def FFmt.bias : FFmt → Nat
  | .f64 => 1023 | .f32 => 127 | .f16 => 15 | .b16 => 127 | .e4m3 => 7 | .e5m2 => 15
/-- All-ones exponent. -/
def FFmt.emax (f : FFmt) : Nat := 2 ^ (f.width - 1 - f.frac) - 1
/-- Exponent of the smallest normal. -/
def FFmt.emin (f : FFmt) : Int := 1 - (f.bias : Int)
def FFmt.hasInf (f : FFmt) : Bool := f != .e4m3
/-- Pattern of the largest finite value. -/
def FFmt.maxBits (f : FFmt) : Nat := if f.hasInf then f.emax * 2 ^ f.frac - 1 else 0x7E
def FFmt.infBits (f : FFmt) : Nat := f.emax * 2 ^ f.frac
/-- The canonical NaN (R79). -/
def FFmt.nanBits : FFmt → Nat
  | .f64 => 0x7FF8000000000000 | .f32 => 0x7FC00000 | .f16 => 0x7E00 | .b16 => 0x7FC0 | .e4m3 => 0x7F | .e5m2 => 0x7E
def FFmt.signBit (f : FFmt) : Nat := 2 ^ (f.width - 1)
def FFmt.withSign (f : FFmt) (neg : Bool) (m : Nat) : Nat := if neg then f.signBit + m else m

/-- The value of a bit pattern (R78, R79). -/
def FFmt.read (f : FFmt) (w : Nat) : FVal :=
  let neg := bit w (f.width - 1)
  let e := bits w (f.width - 2) f.frac
  let fr := w % 2 ^ f.frac
  if e = f.emax ∧ f.hasInf then
    if fr = 0 then .inf neg else .nan (decide (fr < 2 ^ (f.frac - 1)) && f != .e5m2)
  else if e = f.emax ∧ fr = 7 then .nan false
  else if e = 0 then .fin (Q.mk2 neg fr (f.emin - f.frac))
  else .fin (Q.mk2 neg (2 ^ f.frac + fr) ((e : Int) - f.bias - f.frac))

/-- A subnormal pattern. -/
def FFmt.isSub (f : FFmt) (w : Nat) : Bool := bits w (f.width - 2) f.frac == 0 && w % 2 ^ f.frac != 0

/-- The formats that FTZ reaches (R89). -/
def FFmt.ftz : FFmt → Bool
  | .f32 => true | .f16 => true | .b16 => true | _ => false

/-- The pattern as an instruction reads it under FTZ: a subnormal as zero of its sign (R89). -/
def FFmt.flushIn (f : FFmt) (ftz : Bool) (w : Nat) : Nat :=
  if ftz && f.ftz && f.isSub w then f.withSign (bit w (f.width - 1)) 0 else w

/-! ## Rounding (R85 to R90) -/

/-- Mix of R87. -/
def mix (k i h : Word) : Word :=
  let z := (k ^^^ (h * 0x9E3779B9#32)) + i * 0x85EBCA6B#32
  let z := (z ^^^ (z >>> 16)) * 0x7FEB352D#32
  let z := (z ^^^ (z >>> 15)) * 0x846CA68B#32
  z ^^^ (z >>> 16)

inductive RMode where
  | rn | rz | rd | ru
  /-- stochastic, with key, element index and hop (R86). -/
  | rs (k i h : Word)
  deriving DecidableEq, Repr

/-- Whether the candidate away from zero is chosen: `fl` is the one toward zero in units of the grid, `rem / den` of a
unit lies beyond it (R85, R86). -/
def roundsUp (m : RMode) (neg : Bool) (fl rem den : Nat) : Bool :=
  rem != 0 && match m with
  | .rn => decide (2 * rem > den) || (2 * rem == den && fl % 2 == 1)
  | .rz => false
  | .rd => neg
  | .ru => !neg
  | .rs k i h => decide ((mix k i h).toNat < rem * 2 ^ 32 / den)

/-- A magnitude on the grid of unit `2^q`: the multiple chosen, and whether it is inexact. -/
def onGrid (m : RMode) (x : Q) (q : Int) : Nat × Bool :=
  let y := x.scale (-q)
  let fl := y.n / y.d
  let rem := y.n % y.d
  (if roundsUp m x.neg fl rem y.d then fl + 1 else fl, rem != 0)

/-- Floor of the base-2 logarithm of a nonzero magnitude. -/
def Q.ilog (x : Q) : Int :=
  let l : Int := (Nat.log2 x.n : Int) - Nat.log2 x.d
  let y := x.scale (-l)
  if y.d ≤ y.n then l else l - 1

/-- What rounding delivers: the pattern, the flags of R90 and the events of R91. -/
structure RRes where
  bits : Nat
  fl : Flags
  sat : Bool
  flush : Bool
  nan : Bool
  deriving DecidableEq, Repr

def RRes.nanOf (f : FFmt) (fl : Flags) : RRes := ⟨f.nanBits, fl, false, false, true⟩

/-- The result when the rounded magnitude exceeds the largest finite one (the table of R85). -/
def overflowRes (f : FFmt) (m : RMode) (neg : Bool) : RRes :=
  let toMax := !f.hasInf || (match m with
    | .rz => true | .rd => !neg | .ru => neg | _ => false)
  ⟨f.withSign neg (if toMax then f.maxBits else f.infBits), fOF ||| fIX, toMax, false, false⟩

/-- Round of an exact value to a floating-point format (R85, R89, R90). The exact value is nonzero for UF (log entry 15). -/
def roundQ (f : FFmt) (m : RMode) (ftz : Bool) (x : Q) : RRes :=
  if x.n = 0 then ⟨f.withSign x.neg 0, 0, false, false, false⟩ else
  let l := x.ilog
  let unb := onGrid m x (l - f.frac)
  let tiny := decide (l < f.emin) && !(decide (l = f.emin - 1) && unb.1 == 2 ^ (f.frac + 1))
  if tiny && ftz && f.ftz then ⟨f.withSign x.neg 0, fUF ||| fIX, false, true, false⟩ else
  let q := max l f.emin - f.frac
  let r := onGrid m x q
  let mag := (q - (f.emin - f.frac)).toNat * 2 ^ f.frac + r.1
  if mag > f.maxBits then overflowRes f m x.neg
  else ⟨f.withSign x.neg mag, flagIf (tiny && r.2) fUF ||| flagIf r.2 fIX, false, mag == 0, false⟩

/-- Round of a value: an infinity stays infinite, or becomes the canonical NaN with IO where the format has none (R88,
R154); a NaN becomes the canonical NaN. -/
def roundV (f : FFmt) (m : RMode) (ftz : Bool) : FVal → RRes
  | .nan _ => .nanOf f 0
  | .inf neg => if f.hasInf then ⟨f.withSign neg f.infBits, 0, false, false, false⟩ else ⟨f.nanBits, fIO, true, false, true⟩
  | .fin q => roundQ f m ftz q

/-- Round to an integer magnitude. -/
def roundInt (m : RMode) (x : Q) : Int × Bool :=
  let r := onGrid m x 0
  (if x.neg then -(r.1 : Int) else r.1, r.2)

/-- Conversion to an integer format of `w` bits (R88). An unsigned format has no -max: a negative value beyond it gives 0, its
nearest value, with IO, and is a saturation (DESIGN CHOICE, log entry 82). -/
def roundToInt (signed : Bool) (w : Nat) (m : RMode) (v : FVal) : RRes :=
  let lo : Int := if signed then -(2 ^ (w - 1)) else 0
  let hi : Int := if signed then 2 ^ (w - 1) - 1 else 2 ^ w - 1
  let pat (i : Int) : Nat := (i % (2 ^ w : Int)).toNat
  match v with
  | .nan _ => ⟨0, fIO, false, false, false⟩
  | .inf neg => ⟨pat (if neg then lo else hi), fIO, true, false, false⟩
  | .fin q =>
    let r := roundInt m q
    if r.1 < lo then ⟨pat lo, fIO, true, false, false⟩
    else if hi < r.1 then ⟨pat hi, fIO, true, false, false⟩
    else ⟨pat r.1, flagIf r.2 fIX, false, r.1 == 0 && q.n != 0, false⟩

/-- A number format that conversions know: an integer of `w` bits, or a floating-point format. -/
inductive NFmt where
  | int (signed : Bool) (w : Nat)
  | flt (f : FFmt)
  deriving DecidableEq, Repr

def NFmt.width : NFmt → Nat | .int _ w => w | .flt f => f.width

def NFmt.read (f : NFmt) (w : Nat) : FVal :=
  match f with
  | .int s n =>
    let u := w % 2 ^ n
    .fin (Q.ofInt (if s && bit u (n - 1) then (u : Int) - 2 ^ n else u))
  | .flt f => f.read w

def NFmt.round (f : NFmt) (m : RMode) (ftz : Bool) (v : FVal) : RRes :=
  match f with
  | .int s n => roundToInt s n m v
  | .flt f => roundV f m ftz v

/-- Conversion of a pattern between formats, with the flags and events of R88, R91 and R154. -/
def convert (df sf : NFmt) (m : RMode) (ftz : Bool) (w : Nat) : RRes :=
  let w' := match sf with | .flt f => f.flushIn ftz (w % 2 ^ f.width) | .int _ n => w % 2 ^ n
  let flushed := w' != w % 2 ^ sf.width
  let v := sf.read w'
  let r := df.round m ftz v
  { r with fl := r.fl ||| flagIf v.isSig fIO, flush := r.flush || flushed }

/-! ## Arithmetic (R146, R148, R149) -/

/-- What an exact operation gives before rounding. -/
inductive ExRes where
  | invalid
  | value (v : FVal)
  | divZero (neg : Bool)
  deriving DecidableEq, Repr

def RMode.isRd : RMode → Bool | .rd => true | _ => false

def exAdd (m : RMode) (a b : FVal) : ExRes :=
  match a, b with
  | .nan _, _ => .value (.nan false)
  | _, .nan _ => .value (.nan false)
  | .inf x, .inf y => if x = y then .value (.inf x) else .invalid
  | .inf x, .fin _ => .value (.inf x)
  | .fin _, .inf y => .value (.inf y)
  | .fin p, .fin q => .value (.fin (Q.add m.isRd p q))

def exMul (a b : FVal) : ExRes :=
  match a, b with
  | .nan _, _ => .value (.nan false)
  | _, .nan _ => .value (.nan false)
  | .inf x, .inf y => .value (.inf (x != y))
  | .inf x, .fin q => if q.n = 0 then .invalid else .value (.inf (x != q.neg))
  | .fin p, .inf y => if p.n = 0 then .invalid else .value (.inf (p.neg != y))
  | .fin p, .fin q => .value (.fin (p.mul q))

/-- A × B + C: 0 × infinity is invalid whatever C is (R146). -/
def exFma (m : RMode) (a b c : FVal) : ExRes :=
  match exMul a b with
  | .value v => exAdd m v c
  | r => r

def exDiv (a b : FVal) : ExRes :=
  match a, b with
  | .nan _, _ => .value (.nan false)
  | _, .nan _ => .value (.nan false)
  | .inf _, .inf _ => .invalid
  | .inf x, .fin q => .value (.inf (x != q.neg))
  | .fin p, .inf y => .value (.fin ⟨p.neg != y, 0, 1⟩)
  | .fin p, .fin q =>
    if q.n = 0 then (if p.n = 0 then .invalid else .divZero (p.neg != q.neg)) else .value (.fin (p.div q))

/-- IO of the signalling NaNs among the inputs. -/
def sigIO (ins : List FVal) : Flags := flagIf (ins.any FVal.isSig) fIO

/-- The end of the sequence of R146. -/
def finish (f : FFmt) (m : RMode) (ftz : Bool) (ins : List FVal) (e : ExRes) : RRes :=
  let s := sigIO ins
  match e with
  | .invalid => .nanOf f (s ||| fIO)
  | .divZero neg => ⟨f.withSign neg f.infBits, s ||| fDZ, false, false, false⟩
  | .value v => let r := roundV f m ftz v; { r with fl := r.fl ||| s }

/-- The operations of R146 on patterns of a format. -/
def fltAdd (f : FFmt) (m : RMode) (ftz : Bool) (a b : Nat) : RRes :=
  let x := f.read (f.flushIn ftz a); let y := f.read (f.flushIn ftz b)
  finish f m ftz [x, y] (exAdd m x y)
def fltSub (f : FFmt) (m : RMode) (ftz : Bool) (a b : Nat) : RRes :=
  let x := f.read (f.flushIn ftz a); let y := f.read (f.flushIn ftz b)
  finish f m ftz [x, y] (exAdd m x y.negate)
def fltMul (f : FFmt) (m : RMode) (ftz : Bool) (a b : Nat) : RRes :=
  let x := f.read (f.flushIn ftz a); let y := f.read (f.flushIn ftz b)
  finish f m ftz [x, y] (exMul x y)
def fltFma (f : FFmt) (m : RMode) (ftz : Bool) (a b c : Nat) : RRes :=
  let x := f.read (f.flushIn ftz a); let y := f.read (f.flushIn ftz b); let z := f.read (f.flushIn ftz c)
  finish f m ftz [x, y, z] (exFma m x y z)
def fltDiv (f : FFmt) (m : RMode) (ftz : Bool) (a b : Nat) : RRes :=
  let x := f.read (f.flushIn ftz a); let y := f.read (f.flushIn ftz b)
  finish f m ftz [x, y] (exDiv x y)

/-- Strict order with −0 below +0, on values that are not NaN (R148). -/
def FVal.below (a b : FVal) : Bool :=
  match a, b with
  | .inf x, .inf y => x && !y
  | .inf x, .fin _ => x
  | .fin _, .inf y => !y
  | .fin p, .fin q => p.lt q || (p.n == 0 && q.n == 0 && p.neg && !q.neg)
  | _, _ => false

/-- Equality of values, −0 equal to +0 (R149). -/
def FVal.same (a b : FVal) : Bool :=
  match a, b with
  | .inf x, .inf y => x == y
  | .fin p, .fin q => p.eq q
  | _, _ => false

/-- Order of R149, −0 equal to +0. -/
def FVal.less (a b : FVal) : Bool :=
  match a, b with
  | .fin p, .fin q => p.lt q
  | _, _ => a.below b

/-- FMIN and FMAX of R148 on patterns as read; the result is a pattern. -/
def fltMinMax (f : FFmt) (isMax : Bool) (a b : Nat) : Nat × Flags :=
  let x := f.read a; let y := f.read b
  let r := if x.isNan then (if y.isNan then f.nanBits else b)
    else if y.isNan then a
    else if isMax then (if x.below y then b else a) else (if y.below x then b else a)
  (r, sigIO [x, y])

/-- FMIN and FMAX of R128: any NaN gives the canonical NaN. -/
def fltMinMaxNan (f : FFmt) (isMax : Bool) (a b : Nat) : Nat × Flags :=
  if (f.read a).isNan || (f.read b).isNan then (f.nanBits, sigIO [f.read a, f.read b]) else fltMinMax f isMax a b

/-- A NaN becomes the canonical NaN, a signalling one raising IO (R128, R192, R262). -/
def canon (f : FFmt) (a : Nat) : Nat × Flags :=
  if (f.read a).isNan then (f.nanBits, sigIO [f.read a]) else (a, 0)

/-- The relation of FCMP (R149). -/
def fltCmp (cc : FCc) (x y : FVal) : Bool :=
  let nan := x.isNan || y.isNan
  match cc with
  | .eq => !nan && x.same y
  | .ne => nan || !x.same y
  | .lt => !nan && x.less y
  | .le => !nan && (x.less y || x.same y)
  | .gt => !nan && y.less x
  | .ge => !nan && (y.less x || x.same y)
  | .num => !nan
  | .nan => nan

/-! ### F32 steps, RN, without FTZ: the engines and folds -/

def add32 (a b : Nat) : RRes := fltAdd .f32 .rn false a b
def mul32 (a b : Nat) : RRes := fltMul .f32 .rn false a b
/-- The F32 pattern of a value, RN. -/
def rn32 (v : FVal) : Nat := (roundV .f32 .rn false v).bits

/-! ## Reference transcendentals (R96 to R102) -/

/-- EXT of R97: RoundRN(2^(j/32)). -/
def tabEXT : List Nat := [
  0x3F800000, 0x3F82CD87, 0x3F85AAC3, 0x3F88980F, 0x3F8B95C2, 0x3F8EA43A, 0x3F91C3D3, 0x3F94F4F0,
  0x3F9837F0, 0x3F9B8D3A, 0x3F9EF532, 0x3FA27043, 0x3FA5FED7, 0x3FA9A15B, 0x3FAD583F, 0x3FB123F6,
  0x3FB504F3, 0x3FB8FBAF, 0x3FBD08A4, 0x3FC12C4D, 0x3FC5672A, 0x3FC9B9BE, 0x3FCE248C, 0x3FD2A81E,
  0x3FD744FD, 0x3FDBFBB8, 0x3FE0CCDF, 0x3FE5B907, 0x3FEAC0C7, 0x3FEFE4BA, 0x3FF5257D, 0x3FFA83B3]

/-- RCT of R97: RoundRN(1/(1 + j/32)). -/
def tabRCT : List Nat := [
  0x3F800000, 0x3F783E10, 0x3F70F0F1, 0x3F6A0EA1, 0x3F638E39, 0x3F5D67C9, 0x3F579436, 0x3F520D21,
  0x3F4CCCCD, 0x3F47CE0C, 0x3F430C31, 0x3F3E82FA, 0x3F3A2E8C, 0x3F360B61, 0x3F321643, 0x3F2E4C41,
  0x3F2AAAAB, 0x3F272F05, 0x3F23D70A, 0x3F20A0A1, 0x3F1D89D9, 0x3F1A90E8, 0x3F17B426, 0x3F14F209,
  0x3F124925, 0x3F0FB824, 0x3F0D3DCB, 0x3F0AD8F3, 0x3F088889, 0x3F064B8A, 0x3F042108, 0x3F020821]

/-- LGT of R97: RoundRN(log2(1 + j/32)). -/
def tabLGT : List Nat := [
  0x00000000, 0x3D35D69C, 0x3DB31FB8, 0x3E0462C4, 0x3E2E00D2, 0x3E567AF1, 0x3E7DE0B6, 0x3E92203D,
  0x3EA4D3C2, 0x3EB7110E, 0x3EC8DDD4, 0x3EDA3F60, 0x3EEB3A9F, 0x3EFBD42B, 0x3F060828, 0x3F0DF989,
  0x3F15C01A, 0x3F1D5DA0, 0x3F24D3C2, 0x3F2C2411, 0x3F335004, 0x3F3A58FF, 0x3F41404F, 0x3F480731,
  0x3F4EAED0, 0x3F553848, 0x3F5BA4A4, 0x3F61F4E5, 0x3F6829FB, 0x3F6E44CD, 0x3F744636, 0x3F7A2F04]

/-- RQT of R97: RoundRN(1/sqrt c). -/
def tabRQT : List Nat := [
  0x3F800000, 0x3F785B42, 0x3F715BEF, 0x3F6AEBF5, 0x3F64F92E, 0x3F5F7483, 0x3F5A514A, 0x3F5584CD,
  0x3F5105EC, 0x3F4CCCCD, 0x3F48D2AB, 0x3F4511A3, 0x3F41848F, 0x3F3E26EB, 0x3F3AF4BA, 0x3F37EA74,
  0x3F3504F3, 0x3F2F9D53, 0x3F2AAAAB, 0x3F261D5F, 0x3F21E89B, 0x3F1E01B3, 0x3F1A5FB2, 0x3F16FB06,
  0x3F13CD3A, 0x3F10D0C3, 0x3F0E00D5, 0x3F0B5948, 0x3F08D677, 0x3F067532, 0x3F0432A5, 0x3F020C52]

/-- The exact value of an F32 constant. -/
def cst (w : Nat) : Q := match FFmt.f32.read w with | .fin q => q | _ => ⟨false, 0, 1⟩
def tabAt (t : List Nat) (j : Nat) : Q := cst (t.getD j 0)

/-- X1 to X3 and G1 to G4 of R98. -/
def cX1 : Q := cst 0x3F317218
def cX2 : Q := cst 0x3E75FDF0
def cX3 : Q := cst 0x3D635847
def cG1 : Q := cst 0x3FB8AA3B
def cG2 : Q := cst 0xBF38AA3B
def cG3 : Q := cst 0x3EF6384F
def cG4 : Q := cst 0xBEB8AA3B

/-- A step rounded to F32 RN-even with no exponent overflow: its value and whether any step so far was inexact. -/
structure Stp where
  v : Q
  ix : Bool
  deriving DecidableEq, Repr

/-- RoundRN of an exact value, after steps whose inexactness is `ix` (R96). -/
def rstep (ix : Bool) (x : Q) : Stp :=
  let r := roundQ .f32 .rn false x
  ⟨cst r.bits, ix || (r.fl &&& fIX != 0)⟩
/-- Fma of R96. -/
def fstep (ix : Bool) (a b c : Q) : Stp := rstep ix (Q.add false (a.mul b) c)

/-- Scale of R96 with the FTZ result rule, and IX of the earlier steps. -/
def scaleRes (ftz : Bool) (s : Stp) (neg : Bool) (n : Int) : RRes :=
  let r := roundQ .f32 .rn ftz ({ s.v with neg := s.v.neg != neg }.scale n)
  { r with fl := r.fl ||| flagIf s.ix fIX }

/-- Split of R96 on a nonzero value: the exponent and the significand in [1, 2). -/
def splitQ (x : Q) : Int × Q := let e := x.ilog; (e, { x with neg := false }.scale (-e))

def infRes (neg : Bool) (fl : Flags) : RRes := ⟨FFmt.f32.withSign neg 0x7F800000, fl, false, false, false⟩
def zeroRes (neg : Bool) (fl : Flags) : RRes := ⟨FFmt.f32.withSign neg 0, fl, false, false, false⟩

/-- FEX2 (R99) of a value. -/
def fex2V (ftz : Bool) (v : FVal) : RRes :=
  match v with
  | .nan s => .nanOf .f32 (flagIf s fIO)
  | .inf neg => if neg then zeroRes false 0 else infRes false 0
  | .fin x =>
    if !x.neg && !x.lt ⟨false, 128, 1⟩ then infRes false (fOF ||| fIX)
    else if x.lt ⟨true, 150, 1⟩ then zeroRes false (fUF ||| fIX)
    else
      let k := (x.scale 5).floor
      let n := Int.fdiv k 32
      let j := (k - 32 * n).toNat
      let f := rstep false (Q.add false x ((Q.ofInt (-k)).scale (-5)))
      let p := fstep f.ix cX3 f.v cX2
      let p := fstep p.ix p.v f.v cX1
      let p := rstep p.ix (p.v.mul f.v)
      let y := fstep p.ix (tabAt tabEXT j) p.v (tabAt tabEXT j)
      scaleRes ftz y false n

/-- FLG2 (R100) of a value. -/
def flg2V (ftz : Bool) (v : FVal) : RRes :=
  match v with
  | .nan s => .nanOf .f32 (flagIf s fIO)
  | .inf neg => if neg then .nanOf .f32 fIO else infRes false 0
  | .fin x =>
    if x.n = 0 then infRes true fDZ
    else if x.neg then .nanOf .f32 fIO
    else
      let em := splitQ x
      let j := (Q.add false em.2 ⟨true, 1, 1⟩ |>.scale 5).floor.toNat
      let w := rstep false ((Q.add false em.2 ⟨true, 32 + j, 32⟩).mul (tabAt tabRCT j))
      let p := fstep w.ix cG4 w.v cG3
      let p := fstep p.ix p.v w.v cG2
      let p := fstep p.ix p.v w.v cG1
      let p := rstep p.ix (p.v.mul w.v)
      let y := rstep p.ix (Q.add false (tabAt tabLGT j) p.v)
      let r := roundQ .f32 .rn ftz (Q.add false (Q.ofInt em.1) y.v)
      { r with fl := flagIf (y.ix || (r.fl &&& fIX != 0)) fIX }

/-- FRCP (R101) of a value. -/
def frcpV (ftz : Bool) (v : FVal) : RRes :=
  match v with
  | .nan s => .nanOf .f32 (flagIf s fIO)
  | .inf neg => zeroRes neg 0
  | .fin x =>
    if x.n = 0 then infRes x.neg fDZ
    else
      let em := splitQ x
      let j := (Q.add false em.2 ⟨true, 1, 1⟩ |>.scale 5).floor.toNat
      let r := tabAt tabRCT j
      let h := fstep false em.2.negate r ⟨false, 1, 1⟩
      let p := fstep h.ix h.v h.v h.v
      let p := fstep p.ix p.v h.v h.v
      let p := fstep p.ix p.v h.v h.v
      let y := fstep p.ix r p.v r
      scaleRes ftz y x.neg (-em.1)

/-- FRSQ (R102) of a value. -/
def frsqV (ftz : Bool) (v : FVal) : RRes :=
  match v with
  | .nan s => .nanOf .f32 (flagIf s fIO)
  | .inf neg => if neg then .nanOf .f32 fIO else zeroRes false 0
  | .fin x =>
    if x.n = 0 then infRes x.neg fDZ
    else if x.neg then .nanOf .f32 fIO
    else
      let em := splitQ x
      let odd := em.1 % 2 == 1
      let a := if odd then em.2.scale 1 else em.2
      let e := if odd then em.1 - 1 else em.1
      let j := if odd then 16 + ((Q.add false a ⟨true, 2, 1⟩).scale 3).floor.toNat
        else ((Q.add false a ⟨true, 1, 1⟩).scale 4).floor.toNat
      let q := tabAt tabRQT j
      let t := rstep false (a.mul q)
      let h := fstep t.ix t.v.negate q ⟨false, 1, 1⟩
      let p := fstep h.ix ⟨false, 63, 256⟩ h.v ⟨false, 35, 128⟩
      let p := fstep p.ix p.v h.v ⟨false, 5, 16⟩
      let p := fstep p.ix p.v h.v ⟨false, 3, 8⟩
      let p := fstep p.ix p.v h.v ⟨false, 1, 2⟩
      let p := rstep p.ix (p.v.mul h.v)
      let y := fstep p.ix q p.v q
      scaleRes ftz y false (-(Int.fdiv e 2))

/-- FEX2 on an F32 pattern, without FTZ, as the cluster reduction unit uses it (R261). -/
def fex2Bits (w : Nat) : Nat := (fex2V false (FFmt.f32.read w)).bits

/-! ## DX blocks (R81, R93, R94) -/

/-- The value of a DX element code under exponents A and B (R81). -/
def dxVal (dx4 : Bool) (code a b : Nat) : FVal :=
  let x := if bit code (if dx4 then 3 else 7) then b else a
  let neg := bit code (if dx4 then 2 else 6)
  if x = 255 then .nan false
  else if dx4 then .fin (Q.mk2 neg (code % 4) ((x : Int) - 128)) else .fin (Q.mk2 neg (code % 64) ((x : Int) - 132))

/-- q and mx of R93. -/
def dxQ (dx4 : Bool) : Nat := if dx4 then 1 else 5
def dxMax (dx4 : Bool) : Nat := if dx4 then 3 else 63

/-- RoundRN(|v| * 2^(127 - X + q)) of R93. -/
def dxMag (dx4 : Bool) (x : Nat) (m : Q) : Nat × Bool := onGrid .rn { m with neg := false } ((x : Int) - 127 - dxQ dx4)

/-- ExpChoice of R93. -/
def expChoice (dx4 : Bool) (m : Q) : Nat :=
  if m.n = 0 then 0 else
  let x := (max 0 (min 254 (m.ilog + 127))).toNat
  if x < 254 && (dxMag dx4 x m).1 > dxMax dx4 then x + 1 else x

def maxMag (vs : List FVal) : Q :=
  vs.foldl (fun a v => match v with
    | .fin q => if a.lt { q with neg := false } then { q with neg := false } else a | _ => a) ⟨false, 0, 1⟩

/-- A block packed by DxChoose (R93): its exponents, the element codes, the flags, and the events of R91. -/
structure DxBlock where
  a : Nat
  b : Nat
  codes : List Nat
  fl : Flags
  sats : Nat
  flushes : Nat
  nans : Nat
  deriving DecidableEq, Repr

/-- One element of DxChoose. -/
def dxElem (dx4 : Bool) (a b : Nat) (small : Q → Bool) (v : FVal) : RRes :=
  match v with
  | .fin q =>
    let sel := small q && b != 255
    let r := dxMag dx4 (if sel then b else a) q
    let sat := decide (r.1 > dxMax dx4)
    let mag := min r.1 (dxMax dx4)
    let code := (if dx4 then 8 else 128) * b2n sel + (if dx4 then 4 else 64) * b2n q.neg + mag
    ⟨code, flagIf sat (fOF ||| fIX) ||| flagIf r.2 fIX, sat, mag == 0 && q.n != 0, false⟩
  | v => ⟨if dx4 then 8 else 128, fIO, v.isInf, false, true⟩

def dxChoose (dx4 : Bool) (vs : List FVal) : DxBlock :=
  let special := vs.any (fun v => v.isNan || v.isInf)
  let a := expChoice dx4 (maxMag vs)
  let small (q : Q) : Bool := { q with neg := false }.lt (Q.mk2 false 1 ((a : Int) - 127 - (if dx4 then 1 else 3)))
  let sm := vs.filter (fun v => match v with | .fin q => small q | _ => false)
  let b := if special then 255 else if sm.isEmpty then a else expChoice dx4 (maxMag sm)
  let rs := vs.map (dxElem dx4 a b small)
  ⟨a, b, rs.map RRes.bits, rs.foldl (fun f r => f ||| r.fl) 0,
    rs.countP RRes.sat, rs.countP RRes.flush, rs.countP RRes.nan⟩

/-! ## Tile summation (R95) -/

/-- One level of the tree of R95. -/
def pairSums : List Nat → List Nat
  | a :: b :: t => (add32 a b).bits :: pairSums t
  | t => t

/-- The tree of R95 over 2^lv products. -/
def treeSum : Nat → List Nat → Nat
  | 0, l => l.headD 0
  | lv + 1, l => treeSum lv (pairSums l)

/-- RoundRN of a product of two exact elements (R95). -/
def prodRN (a b : FVal) : Nat := (finish .f32 .rn false [a, b] (exMul a b)).bits

/-- The new accumulator value, and whether the final rounding flushed. -/
def tileAcc (acc : Nat) (lv : Nat) (ps : List Nat) : RRes := add32 acc (treeSum lv ps)

/-! ## Rounding selectors -/

/-- RMODE 0 to 3 (R22). -/
def rmodeOf (n : Nat) : RMode := match n with | 1 => .rz | 2 => .rd | 3 => .ru | _ => .rn

/-- Mode() of R140, %fmode given. -/
def rmMode (m : Rm) (fmode : BitVec 4) : RMode :=
  match m with
  | .rn => .rn | .rz => .rz | .rd => .rd | .ru => .ru | .dyn => rmodeOf (bits fmode.toNat 2 0)

end Sys2Proof.Machine
end

