-- ==== Sys2Proof/Config.lean ====
section
/-! DEFINITION. What a build fixes (R1, R7, R42, R43) and the values the spec leaves open: an opaque constant here is a
free value, about which nothing can be proved. -/

namespace Sys2Proof

/-- What distinguishes one part from another: the variant of R7, the CXL.mem build option, the cores disabled at test
(R4) and the units of FEAT2[6:0] (R42; both variants have all seven, R43). -/
structure Build where
  /-- true for the Belmir S, false for the Belmir (R7). -/
  small : Bool
  /-- FEAT0.CXLM (R43: per build option). -/
  cxlm : Bool
  /-- physical numbers of the cores disabled at test (R4). -/
  disabled : List Nat
  /-- FEAT2[6:0]: DICT, COPY, SIBL, ROWF, CRED, GRAM, TILE from the highest bit down (R42). -/
  units : BitVec 7
  deriving DecidableEq, Repr

namespace Config

/-- The build the model starts from: a Belmir with every core enabled, without CXL.mem, with every unit of R43.
DESIGN CHOICE (log entry 13): no statement rests on it, since the build stands in State. -/
def build : Build := ⟨false, false, [], 0x7F#7⟩

/-- Which of its core die's 32 slices is the home of a physical address, modulo 32 (R3, R108: "Which slice it is, is not
architected"): a free value. -/
opaque homeSlice : Nat → Nat

/-- Flits that a message with so many bytes of payload takes on a link (R3: the UCIe protocol is not architected; R331): a free
value. -/
opaque flitsOf : Nat → Nat

/-- What the n-th swap-out writes of a group's state into the swap area, by offset (R293: "in a format that is not
architected"): a free value. -/
opaque swapImage : Nat → List (Nat × Byte)

/-- Byte `i` of the LMS signature over a report body made with a one-time index, where RFC 8554's encoding does not fix it (R327:
the key is the device's own): a free value. -/
opaque signatureByte : Nat → List Byte → Nat → Byte

/-- Byte `i` of the SHA-256 of the firmware image (R327): a free value. -/
opaque firmwareHashByte : Nat → Byte

/-- The handle that the device proposes for its n-th row function (R217 fixes no more than that a handle is nonzero and unused
in its job): a free value. -/
opaque rowHandle : Nat → BitVec 32

/-- Value of a weight slot by the load that retagged it and by 128*k + column, while its tag names a format other than that of
the data in it (R251: the arrangement of data inside a slot is not architected): a free value. -/
opaque staleWeight : Nat → Nat → BitVec 32

/-- What SRD reads of a thread whose trap record its handler has already ended (R311 gives no value): a free value, by the
number of such reads. -/
opaque endedRead : Nat → BitVec 32

end Config
end Sys2Proof
end

