-- ==== Sys2Proof/Machine/State.lean ====
section
/-! DEFINITION. The state of a Belmir as plain data, the reasons a step can stop, and the state after reset. -/

namespace Sys2Proof.Machine

/-! ## Faults the machine reports (R307) -/

/-- The fault codes of R307. -/
inductive FCode where
  | illegalOpcode | illegalVariant | dictUndefined | fetchAlign | lookaheadHazard | unitAbsent
  | xlateNotPresent | xlatePermission | memtype | misalign | scratchBounds | callstackSpill
  | sibFull | rowRegion | grammarOrder | ruleDepth | rvfRange | accOwner | convSet | queueCfg
  | trap | assert | engineError | quota
  deriving DecidableEq, Repr

/-- The code's number (R307). -/
def FCode.code : FCode → Nat
  | .illegalOpcode => 0x01 | .illegalVariant => 0x02 | .dictUndefined => 0x03 | .fetchAlign => 0x04
  | .lookaheadHazard => 0x05 | .unitAbsent => 0x07 | .xlateNotPresent => 0x10 | .xlatePermission => 0x11
  | .memtype => 0x12 | .misalign => 0x13 | .scratchBounds => 0x14 | .callstackSpill => 0x15
  | .sibFull => 0x20 | .rowRegion => 0x28 | .grammarOrder => 0x30 | .ruleDepth => 0x31 | .rvfRange => 0x32
  | .accOwner => 0x38 | .convSet => 0x39 | .queueCfg => 0x3A | .trap => 0x40 | .assert => 0x41
  | .engineError => 0x50 | .quota => 0x60

/-- A fault of a thread with what its trap record says of it (R303: CODE, DETAIL, DETAIL2, ADDR). -/
structure TrapInfo where
  code : FCode
  detail : Word
  detail2 : Word
  addr : Dword
  deriving DecidableEq, Repr

/-- The 64-byte trap record of R303. -/
structure TrapRec where
  seq : Word
  core : Half
  info : TrapInfo
  launch : Word
  gid : Word
  tid : Half
  /-- FLAGS: WINDOW, INSN, SHORT. -/
  window : Bool
  insnValid : Bool
  short : Bool
  shortw : Word
  insn : BitVec 128
  pc : Pc
  deriving DecidableEq, Repr

/-! ## Threads -/

/-- A register as the lookahead rules name it (R59, R303). -/
inductive RegName where
  | d (n : Nat)
  | q (n : Nat)
  | g (n : Nat)
  | fstat
  deriving DecidableEq, Repr

/-- One result of an instruction: a register's new value, or flags ORed into %fstat (R90). -/
inductive Write where
  | reg (r : RegName) (v : Word)
  | flags (f : BitVec 5)
  deriving DecidableEq, Repr

/-- What a window's result is: values not yet delivered, or the outcome of a convergence set or of a row function that is
still to come (R59, R61, R188). -/
inductive WRes where
  | vals (ws : List Write)
  | set (c : Nat)
  | row (handle : Nat)
  deriving DecidableEq, Repr

/-- An open lookahead window (R59, R62): instructions still to count, destination set, result. -/
structure Window where
  left : Nat
  dset : List RegName
  res : WRes
  deriving DecidableEq, Repr

/-- Why a thread is blocked (R33). -/
inductive Wait where
  | barrier (b : Nat)
  | set (c : Nat)
  /-- thread `tid` has signed the open use of register `c` and waits to sign the next. -/
  | again (c tid : Nat)
  | push (h : Nat) (v : Word)
  | pop (h : Nat) (src : Bool) (d : Nat)
  | counter (lvl : Lvl) (id : Nat)
  | arrival (grp off : Nat)
  | rowFn (handle d : Nat)
  | grammar (ids : List Nat)
  /-- an instruction whose guard a result still outstanding writes. -/
  | results
  /-- a fault of an instruction (none: of its fetch) and the short it was expanded from waits until every earlier
  long-latency result is delivered (R301). -/
  | fault (info : TrapInfo) (insn : Option (BitVec 128)) (shortw : Option Word)
  deriving DecidableEq, Repr

/-- A thread is ready, blocked (with the address of its next instruction), parked on an absent page, held by a trap, or has
exited (R33, R329 STATE). -/
inductive TStatus where
  | ready
  | blocked (w : Wait) (next : Pc)
  | parked
  | trapped (trap : Nat)
  | exited
  deriving DecidableEq, Repr

/-- An instruction that its thread holds while it waits or is parked: its bits, and the short they were expanded from. -/
structure Held where
  insn : BitVec 128
  shortw : Option Word
  deriving DecidableEq, Repr

/-- A thread's own state (R19, R20, R24, R59, R62). -/
structure Thread where
  pc : Pc
  /-- the target of a BRX or CALLX whose bits [63:57] differ from bit 56: the fetch at it fails (R182). -/
  badPc : Option Dword
  /-- d0 to d(n-1). -/
  d : List Word
  /-- q0 to q7; bit 7 is hard-wired to 1 by the accessors (R13). -/
  q : BitVec 8
  fstat : BitVec 5
  fmode : BitVec 4
  /-- call depth D. -/
  depth : Nat
  /-- the entries held in the core, the newest (depth D-1) first, at most four (R24). -/
  stack : List Dword
  windows : List Window
  status : TStatus
  held : Option Held
  /-- runs of its kernel on its partition since it last issued (R35). -/
  age : Nat
  deriving DecidableEq, Repr

/-! ## Groups -/

/-- One signature of an open convergence set: the thread, the instruction it signed, the operands read at signing, the
address of its next instruction (R187, R188). -/
structure Sig where
  tid : Nat
  instr : Instr
  vals : List Word
  next : Pc
  deriving DecidableEq, Repr

/-- A convergence register (R185). TAG is the signed instruction's opcode, VARIANT and tag fields as one number. -/
structure Conv where
  members : TSet
  pend : Bool
  tag : Nat
  set : TSet
  signed : TSet
  sigs : List Sig
  deriving DecidableEq, Repr

/-- A named barrier (R193). -/
structure Bar where
  arrived : Nat
  count : Nat
  phase : Nat
  waiters : TSet
  deriving DecidableEq, Repr

/-- A hand-off queue (R195): entries oldest first, each a value with its sender's %tid. A thread's allowance count is the
number of entries it sent. -/
structure HQueue where
  depth : Nat
  allow : Nat
  entries : List (Word × Nat)
  deriving DecidableEq, Repr

/-- A layout record (R234) as read from its 64 bytes. -/
structure Layout where
  base : Dword
  plane : Dword
  /-- SIZE0 to SIZE3, STRIDE0 to STRIDE3, TILE0 to TILE3. -/
  size : List Nat
  stride : List Nat
  tile : List Nat
  tid : Nat
  ndim : Nat
  fmt : Nat
  trans : Bool
  /-- a reserved field or bit of the record is nonzero. -/
  resv : Bool
  deriving DecidableEq, Repr

/-- The input binding of a grammar segment (R273). -/
structure Binding where
  off : Nat
  vstride : Nat
  len : Nat
  b16 : Bool
  nv : Nat
  deriving DecidableEq, Repr

/-- One rule of the rule-value file (R268, R269): its value per batch column, depth, and row index. -/
structure Rule where
  vals : List Word
  depth : Nat
  row : Option Nat
  deriving DecidableEq, Repr

/-- How a grammar or other engine operation ended: without error, with a reason of R240, or with a stream fault (R269). -/
inductive EngRes where
  | ok
  | err (reason : Nat)
  | stream (code : FCode) (i n : Nat)
  deriving DecidableEq, Repr

/-- An open grammar segment (R267, R268): the descriptor's fields, and what was copied at its opening. -/
structure Segment where
  stream : Dword
  cbookAddr : Dword
  outlay : Dword
  nsym : Nat
  cbook : List Half
  out : Layout
  binding : Option Binding
  rules : List Rule
  /-- NV of the most recent GRUN (R275). -/
  lastNv : Nat
  fault : Option EngRes
  deriving DecidableEq, Repr

/-- A GRUN or GOUT as GWAIT sees it (R276): its place in the order of R277 is its place in the list. -/
structure GramOp where
  id : Nat
  signers : TSet
  res : Option EngRes
  deriving DecidableEq, Repr

/-- A group is starting (which stage of R287 comes next), running, swapped out, or has completed. -/
inductive GStatus where
  | starting (stage : Nat)
  | running
  | swapped
  | done
  deriving DecidableEq, Repr

/-- A weight-buffer slot (R251): its tag (none: empty), its B values as exact F32 by k*128 + col, and the number of the load that
wrote its tag last (R256), 0 for none. -/
structure WSlot where
  tag : Option LFmt
  vals : List (Nat × Word)
  load : Nat
  deriving DecidableEq, Repr

/-- A slot as a group finds it (R251). -/
def WSlot.empty : WSlot := ⟨none, [], 0⟩

/-- A group (R28) with the shape its launch record gave it (R283, R287). -/
structure Group where
  asid : Nat
  launch : Nat
  gid : Nat
  cid : Nat
  /-- the places in State.groups of the cluster's groups, by rank (R31). -/
  cluster : List Nat
  core : Nat
  status : GStatus
  nthreads : Nat
  nregs : Nat
  /-- `.scratch` bytes, and the bytes that are not zero (R30). -/
  scratchLen : Nat
  scratch : List Host.Cell
  accBase : Nat
  accRows : Nat
  entry : Pc
  espill : Nat
  spill : Dword
  quant : Nat
  /-- g0 to g63. -/
  g : List Word
  /-- the first address past the prologue, and the addresses of its LDPs (R167). -/
  prologueEnd : Pc
  prologue : List Pc
  cvs : List Conv
  bars : List Bar
  hqs : List HQueue
  /-- the dictionary selection: a slot of the core (R70). -/
  sel : Option Nat
  /-- the selected image's address while the group is swapped out (R293). -/
  selAddr : Option Dword
  threads : List Thread
  /-- the trap it serves, for a handler group (R304). -/
  handler : Option Nat
  /-- runs received on each partition since it became resident (R40). -/
  quanta : List Nat
  swapReady : Bool
  /-- the stage at which its start waits, while it is swapped out before it has run (R287, R291). -/
  startAt : Option Nat
  /-- serial number of its last swap-out: the order of swap-ins (R40). -/
  swapSeq : Nat
  /-- accumulator words, by row and column of its own rows, and weight slots saved by swap-out (R293). -/
  savedAcc : List (Nat × Word)
  savedSlots : List WSlot
  seg : Option Segment
  gram : List GramOp
  /-- convergence registers whose GSEG, GVEC, GRUN or GOUT instances have completed and wait for their turn (R277). -/
  gramQ : List Nat
  /-- contributions made to each cluster-reduction channel (R260). -/
  credK : List Nat
  /-- the GSWAP convergence registers that wait for the swap-in (R313). -/
  gswap : List Nat
  deriving DecidableEq, Repr

/-! ## Cores -/

/-- A dictionary slot (R70): its tag, its image's bytes that are not zero, and the entries made undefined (R73). -/
structure DictSlot where
  asid : Nat
  addr : Dword
  img : List Host.Cell
  undef : BitVec 256
  deriving DecidableEq, Repr

/-- A gang issuing a run (R34, R35): its threads, those yet to execute the current instruction, the instructions done, and
whether the current one ends the run. -/
structure Gang where
  threads : List ThreadRef
  todo : List ThreadRef
  count : Nat
  ends : Bool
  /-- threads that took the branch of the current instruction, for the hint-miss count (R183). -/
  taken : Nat
  /-- scratchpad words, by group place and word number, that its lanes have addressed, for the count of passes (R107). -/
  words : List (Nat × Nat)
  deriving DecidableEq, Repr

/-- A busy run context: the kernel it runs and its gangs (R35). -/
structure RunCtx where
  asid : Nat
  launch : Nat
  primary : Gang
  secondary : Gang
  deriving DecidableEq, Repr

/-- By how many runs a kernel's run contexts on a partition fall short of its share, and its weight when it competed at the
partition's last choice at its priority, 0 when it did not (R35). -/
structure RunCredit where
  asid : Nat
  launch : Nat
  part : Nat
  credit : Rat
  weight : Nat
  deriving DecidableEq, Repr

/-- The kernel: its job and its launch. -/
def RunCredit.kernel (x : RunCredit) : Nat × Nat := (x.asid, x.launch)

/-- A core. -/
structure Core where
  cyc : Dword
  /-- L1: device physical addresses whose bytes it holds (R103, R108). -/
  l1 : List Host.Cell
  dicts : List (Option DictSlot)
  /-- four run contexts a partition, partition p at 4p to 4p+3 (R35). -/
  ctxs : List (Option RunCtx)
  credits : List RunCredit
  /-- accumulator words that are not +0, by 128*row + column (R251). -/
  acc : List (Nat × Word)
  slots : List WSlot
  deriving DecidableEq, Repr

/-! ## Engine operations -/

/-- Operands of an engine operation as recorded at its issue. -/
inductive EngKind where
  | cpy (f : Option LFmt) (t : Bool) (mask : BitVec 4) (dst : Nat) (c : List Nat) (bar : Nat)
  | cpyo (f : Option LFmt) (t : Bool) (src : Nat) (c : List Nat) (cw : Dword)
  | cpyhTo (f : Option LFmt) (t : Bool) (src : Nat) (c : List Nat) (cw : Dword)
  | cpyhFrom (f : Option LFmt) (t : Bool) (dst : Nat) (c : List Nat) (cw : Dword)
  | cpyx (mask : BitVec 4) (dst : Nat) (c : List Nat) (dbar sbar : Nat)
  | mma (f : LFmt) (aoff astride aexp tid slot ag bar : Nat)
  | mmz (first count bar : Nat)
  | wbld (sparse : Bool) (slot : Nat) (lay : Dword) (c : List Nat) (bar : Nat)
  | wbrel (bar : Nat)
  | accld (f : LFmt) (soff sstride count first tid bar : Nat)
  | accst (f : LFmt) (soff sstride count first tid bar : Nat)
  | grun (b : Binding)
  | gout
  deriving DecidableEq, Repr

/-- A forked engine operation that has not ended (R118); `layout` is a copy operation's layout record, none when the operation
ends for its record's sake, and `bad` is then the reason of R240: MALFORMED, or POISONED for a record in a poisoned row (R210,
R239); `waiting` says that it waits for an absent page (R240). -/
structure EngOp where
  id : Nat
  kind : EngKind
  grp : Nat
  asid : Nat
  launch : Nat
  layout : Option Layout
  bad : Nat
  waiting : Bool
  deriving DecidableEq, Repr

/-- The three reductions of R260. -/
inductive CredOp where
  | smx | sum | max
  deriving DecidableEq, Repr

/-- One contribution to a cluster reduction (R260, R263). -/
structure Contrib where
  rank : Nat
  grp : Nat
  op : CredOp
  part : BitVec 4
  recv : BitVec 4
  n : Nat
  dOff : Nat
  bOff : Nat
  data : List Word
  answered : Bool
  /-- it came to an instance that was complete without it. -/
  late : Bool
  deriving DecidableEq, Repr

/-- Contribution number k of one channel of a cluster, named by its rank 0 group. -/
structure CredOne where
  id : Nat
  lead : Nat
  chan : Nat
  k : Nat
  contribs : List Contrib
  mismatch : Bool
  deriving DecidableEq, Repr

/-! ## Row memory and sibling memory -/

/-- A row registration or request (R212 to R217). Rows are numbered by physical address div 1024, banks by R207's
CHAN, STACK and BANK. -/
structure RowFn where
  /-- the model's own number of the function. -/
  handle : Nat
  /-- the handle that the device assigned (R217). -/
  name : Word
  asid : Nat
  grp : Nat
  request : Bool
  words : List Word
  k0 : Word
  k1 : Word
  /-- physical address of the completion word, none for CWORD 0. -/
  cword : Option Nat
  /-- banks that have not accepted it yet. -/
  banks : List Nat
  /-- covered rows whose application is still to come. -/
  rows : List Nat
  poisoned : Nat
  flags : BitVec 5
  cancelled : Bool
  /-- the completion pair once complete (R216). -/
  done : Option Dword
  /-- later DONE registrations and requests of the job since it completed (R217). -/
  later : Nat
  deriving DecidableEq, Repr

/-- A sibling of a cell (R124): value, insertion stamp and the dot's DOMAIN; SEQ is the stamp. -/
structure Sib where
  val : Dword
  stamp : Word
  domain : Half
  deriving DecidableEq, Repr

/-- A cell that holds sibling state (R124), by physical address; siblings in ascending stamp. -/
structure SibCell where
  pa : Nat
  stamp : Word
  floor : Word
  sibs : List Sib
  deriving DecidableEq, Repr

/-! ## Jobs, launches and the hub -/

/-- The fields of a job descriptor (R279). -/
structure JobDesc where
  ptroot : Nat
  fbuf : Nat
  tape : Nat
  traps : Dword
  hrec : Dword
  swap : Nat
  swaplen : Nat
  stop : Nat
  fbcap : Nat
  tapecap : Nat
  dl1 : Nat
  dl2 : Nat
  qscr : Nat
  qreg : Nat
  qacc : Nat
  qslots : Nat
  weight : Nat
  hprio : Nat
  asid : Nat
  deriving DecidableEq, Repr

/-- The KINDs of a job stop (R308). -/
inductive StopKind where
  | assert | kill | nohandler | handler | cancel | stage3 | traparea
  deriving DecidableEq, Repr

/-- A launch record's fields (R283). -/
structure LaunchRec where
  entry : Dword
  params : Dword
  dict : Dword
  spill : Dword
  stats : Dword
  ngroups : Nat
  scratch : Nat
  quant : Nat
  graph : Nat
  phase : Nat
  dep0 : Nat
  dep1 : Nat
  nthreads : Nat
  acc : Nat
  espill : Nat
  cap : Nat
  nregs : Nat
  nparam : Nat
  prio : Nat
  csize : Nat
  lastg : Bool
  endp : Bool
  overlap : Bool
  tapem : Bool
  /-- a reserved field or bit is nonzero. -/
  resv : Bool
  deriving DecidableEq, Repr

/-- Completion statuses (R198, R288). -/
inductive CStat where
  | done | cancelled | faulted
  deriving DecidableEq, Repr

/-- Where a launch came from: slot i of a queue (with the slot's address), LAUNCH or a handler, or a pop of the tape. -/
inductive Origin where
  | queue (q idx pa : Nat)
  | instr
  | tape
  deriving DecidableEq, Repr

/-- The counts of one tensor id (R91). -/
structure Count where
  tid : Nat
  sats : Nat
  flushes : Nat
  nans : Nat
  deriving DecidableEq, Repr

/-- An accepted launch (R285). -/
structure Launch where
  asid : Nat
  id : Nat
  lr : LaunchRec
  origin : Origin
  /-- serial numbers of the graph and the phase it belongs to. -/
  graph : Option Nat
  phase : Option Nat
  /-- the popped launch whose completion makes it eligible (R290). -/
  pred : Option Nat
  /-- %gid of the next group to start. -/
  nextGid : Nat
  doneGroups : Nat
  cancelled : Bool
  rejected : Bool
  counts : List Count
  /-- the statistics area's pages were refused, or its write is done. -/
  statsDone : Bool
  status : Option CStat
  deriving DecidableEq, Repr

/-- One opening of a graph or a phase (R285). -/
structure Inst where
  serial : Nat
  asid : Nat
  isPhase : Bool
  ident : Nat
  closed : Bool
  cancelled : Bool
  tapeMode : Bool
  replay : Bool
  /-- the launch last popped and whether the next record may follow its acceptance. -/
  lastPop : Option Nat
  /-- a popped record was refused (R290: it completes FAULTED). -/
  popRefused : Bool
  status : Option CStat
  deriving DecidableEq, Repr

/-- A bound job (R279, R291, R308). -/
structure Job where
  desc : JobDesc
  /-- the handler launch record, when HREC is not 0. -/
  handler : Option LaunchRec
  /-- hub clock of a PREEMPT in progress. -/
  pre : Option Nat
  /-- the group-swap engine swaps the job's groups out (stage 2). -/
  stage2 : Bool
  suspended : Bool
  /-- the cause of a stop in progress or ended. -/
  stopping : Option (StopKind × List Byte)
  stopped : Bool
  nextId : Nat
  seq : Nat
  tapeN : Nat
  deriving DecidableEq, Repr

/-- A trap record and the thread it holds (R303 to R306). -/
structure Trap where
  id : Nat
  asid : Nat
  tr : TrapRec
  core : Nat
  /-- the slot of the core's trap area; none while all are in use. -/
  slot : Option Nat
  /-- none for QUOTA, which holds no thread. -/
  thread : Option ThreadRef
  /-- the launch and group of a QUOTA record. -/
  quotaGid : Nat
  handler : Option Nat
  ended : Bool
  deriving DecidableEq, Repr

/-- Who made an access that waits for an absent page (R302). -/
inductive Who where
  | thread (t : ThreadRef)
  | op (id : Nat)
  | start (grp : Nat)
  | stats (asid lid : Nat)
  | swapIn (grp : Nat)
  | seg (grp c : Nat)
  | coll (id : Nat)
  deriving DecidableEq, Repr

/-- An access waiting for an absent page: its page, KIND bits, and the fault-buffer entry it stands in (R302). -/
structure Parked where
  asid : Nat
  page : Nat
  kind : Nat
  core : Nat
  launch : Nat
  who : Who
  entry : Option Nat
  /-- RESP of an entry that was cleared and has been taken again before the doorbell. -/
  resp : Option Nat
  /-- the faulting address. -/
  addr : Dword
  /-- the doorbell was rung for it while its group was swapped out. -/
  rung : Bool
  deriving DecidableEq, Repr

/-- A launch queue's registers (R281), and the indices whose RESULT is written beyond QCOMP. -/
structure HubQueue where
  base : Dword
  en : Bool
  asid : BitVec 12
  log2n : Nat
  wr : Word
  rd : Word
  comp : Word
  fin : List Word
  deriving DecidableEq, Repr

/-! ## Device services -/

/-- What arrives over a Umary link: a collective payload, or an access (R321, R324). -/
inductive Incoming where
  | payload (p : Payload)
  | access (a : MemAccess)
  deriving DecidableEq, Repr

/-- A Umary link (R321, R322): fenced, down, what the peer holds back behind a payload that waits, that payload first (R324). -/
structure Link where
  fenced : Bool
  down : Bool
  inq : List Incoming
  deriving DecidableEq, Repr

/-- A collective operation (R323 to R325). -/
structure Coll where
  id : Nat
  grp : Nat
  asid : Nat
  launch : Nat
  src : Dword
  dest : Dword
  cword : Dword
  count : Nat
  tag : Word
  key : Word
  inmask : BitVec 24
  outmask : BitVec 24
  fmt : Nat
  isMax : Bool
  rs : Bool
  taken : List (Nat × Payload)
  /-- the descriptor still to be read at this address (an absent page). -/
  desc : Option Dword
  waiting : Bool
  /-- a reason of R240 that ended it, still to be written at its completion word. -/
  err : Option Nat
  deriving DecidableEq, Repr

/-- An event counter (R330) by its offset in BAR0. -/
structure Counter where
  off : Nat
  sel : Word
  val : Dword
  deriving DecidableEq, Repr

/-- An error-log entry (R332); TYPE 0 is free. -/
structure LogEntry where
  type : Nat
  addr : Dword
  deriving DecidableEq, Repr

/-- A retained translation (R300): a leaf entry with the virtual page it maps. -/
structure Tlb where
  asid : Nat
  /-- first virtual address of the page, its size, and the physical address it maps to. -/
  va : Nat
  size : Nat
  pa : Nat
  pte : Dword
  deriving DecidableEq, Repr

/-- Boot and management registers (R318, R326, R327, R334, R335). -/
structure Mgmt where
  /-- BOOTSTAT.STATE: 0 BOOTING, 1 RUN, 2 REJECTED. -/
  boot : Byte
  cmd : Dword
  carg : Dword
  cstat : Word
  jreplay : Word
  /-- ROUTE bytes that are not zero, by device number. -/
  route : List Host.Cell
  devnum : BitVec 11
  skew : Word
  awin : Word
  cethresh : Word
  plimit : Word
  temp : Word
  power : Word
  /-- the current sweep period of each stack, in microseconds. -/
  periods : List Word
  /-- bytes of the MSI-X table that are not zero, and the pending-bit array by vector (R318, R320). -/
  msixTable : List Host.Cell
  msixPend : BitVec 72
  /-- ACMD as last written. -/
  acmd : Word
  nonce : List Byte
  astat : Word
  report : List Byte
  colldb : Dword
  deriving DecidableEq, Repr

/-- A connection that is calibrated while the device runs (R333): the host port, a core die's UCIe, a Umary link. -/
inductive Port where
  | host
  | ucie (die : Nat)
  | umary (link : Nat)
  deriving DecidableEq, Repr

/-- Whose turn it is (log entry 2): a gang of a run context issues for its next thread, a step of the device happens, or
something outside the rules' reach happens: clocks of the hub or of one core pass (R5, R23, R291), host or peer agents write
their own memory (R112), the host reads a register of the management window (R318), a stored row turns bad (R210), a translation is retained or dropped (R300), an L1 byte is filled from
its home or dropped (R108), telemetry is sampled (R335), a connection is calibrated or a flit sent again (R6, R333). -/
inductive Turn where
  | issue (core ctx : Nat) (secondary : Bool)
  | event (i : Instr)
  | hubClocks (n : Nat)
  | coreClocks (core n : Nat)
  | hostWrite (addr : Nat) (v : Byte)
  | hostRead (off : Nat) (b64 : Bool)
  | peerWrite (dev addr : Nat) (v : Byte)
  | rowError (row : Nat) (hard : Bool)
  | fillTlb (asid va : Nat)
  | dropTlb (asid va : Nat)
  | fillL1 (core pa : Nat)
  | dropL1 (core pa : Nat)
  | telemetry (temp power : Word)
  | calibrate (port : Port) (flits : Nat)
  | linkRetry (link : Nat)
  deriving DecidableEq, Repr

/-- The thread that an instruction is executed for, and the short it stands at, if any (R65). -/
structure Cur where
  ref : ThreadRef
  shortw : Option Word
  deriving DecidableEq, Repr

/-- The state of the machine. -/
structure State where
  build : Build
  /-- who acts next (log entry 2). -/
  turns : List Turn
  cur : Cur
  frozen : Bool
  /-- the readout port's instruction register and the bytes it last shifted out (R329). -/
  tapIr : Byte
  tapOut : List Byte
  /-- bytes of device memory that are not zero, by physical address. -/
  mem : List Host.Cell
  /-- host memory: bytes that are not zero, and the ranges (first, length) that the host decodes (R298). -/
  hostMem : List Host.Cell
  hostRanges : List (Nat × Nat)
  /-- other devices' memory, by device number times 2^52 plus address. -/
  peerMem : List Host.Cell
  tlb : List Tlb
  cores : List Core
  groups : List Group
  ops : List EngOp
  nextOp : Nat
  creds : List CredOne
  rowFns : List RowFn
  nextHandle : Nat
  /-- pending applications (row, handle) in the order in which their functions reached the rows' banks (R133). -/
  rowApps : List (Nat × Nat)
  poisoned : List Nat
  /-- rows whose stored bits hold an uncorrectable error, and rows with a correctable one, that no restore has met. -/
  hardErrs : List Nat
  softErrs : List Nat
  /-- corrected errors seen, by row (R332). -/
  corrected : List (Nat × Nat)
  /-- sweep positions that are not 0, by bank (R209). -/
  sweep : List (Nat × Nat)
  cells : List SibCell
  jobs : List Job
  launches : List Launch
  insts : List Inst
  nextSerial : Nat
  traps : List Trap
  parked : List Parked
  queues : List HubQueue
  hubClock : Nat
  links : List Link
  /-- payloads sent, with their link. -/
  linkOut : List (Nat × Payload)
  colls : List Coll
  mgmt : Mgmt
  /-- the attestation key's next index, in non-volatile storage (R327). -/
  nvIndex : Nat
  counters : List Counter
  elog : List LogEntry
  errovf : Word
  /-- MSI-X vectors sent, the latest first (R320). -/
  msix : List Nat
  /-- THERMTRIP_N is asserted (R336). -/
  tripPin : Bool
  /-- the bytes that the last read of a host or a peer returned (R317, R321). -/
  portOut : List Byte
  deriving DecidableEq, Repr

/-! ## Stops -/

/-- Reasons a step can stop with a fault. -/
inductive Fault where
  /-- Raised by every thread instruction when State.cur names no thread of the state: safe, and no step of the machine
  makes such a state. -/
  | noThread
  deriving DecidableEq, Repr

/-- Reasons a step can be refused. -/
inductive Refusal where
  /-- Raised by exec for an instruction of the opcode table that has no meaning yet: safe. -/
  | notModelled (mnemonic : String)
  deriving DecidableEq, Repr

/-! ## Reset -/

def Core.fresh : Core where
  cyc := 0
  l1 := []
  dicts := List.replicate 8 none
  ctxs := List.replicate 32 none
  credits := []
  acc := []
  slots := List.replicate 32 WSlot.empty

def HubQueue.fresh : HubQueue := ⟨0, false, 0, 0, 0, 0, 0, []⟩

/-- Management registers at reset: BOOTSTAT is BOOTING (R326); the sweep period is the nominal 32 ms (R209); every MSI-X
vector is masked, as PCIe resets the table (PRESUMED, log entry 71); for every other register the spec states no reset value,
and the model names 0, or the nearest value the register can hold (DESIGN CHOICE, log entry 4). -/
def Mgmt.fresh (b : Build) : Mgmt where
  boot := 0
  cmd := 0
  carg := 0
  cstat := 0
  jreplay := 0
  route := []
  devnum := 0
  skew := 0
  awin := 0
  cethresh := 1
  plimit := if b.small then 1300 else 2400
  temp := 0
  power := 0
  periods := List.replicate (if b.small then 4 else 8) 32000 ++ List.replicate (if b.small then 4 else 0) 0
  msixTable := (List.range 72).map fun v => (16 * v + 12, 1)
  msixPend := 0
  acmd := 0
  nonce := List.replicate 32 0
  astat := 0
  report := []
  colldb := 0

/-- The machine of a build right after reset, with what outlives a reset given: the attestation index (R327). -/
def State.resetOf (b : Build) (nv : Nat) : State where
  build := b
  turns := []
  cur := ⟨⟨0, 0⟩, none⟩
  frozen := false
  tapIr := 0
  tapOut := []
  mem := []
  hostMem := []
  hostRanges := [(0, 2 ^ 52)]
  peerMem := []
  tlb := []
  cores := List.replicate (if b.small then 96 else 192) Core.fresh
  groups := []
  ops := []
  nextOp := 1
  creds := []
  rowFns := []
  nextHandle := 1
  rowApps := []
  poisoned := []
  hardErrs := []
  softErrs := []
  corrected := []
  sweep := []
  cells := []
  jobs := []
  launches := []
  insts := []
  nextSerial := 1
  traps := []
  parked := []
  queues := List.replicate 64 HubQueue.fresh
  hubClock := 0
  links := List.replicate (if b.small then 8 else 24) ⟨false, false, []⟩
  linkOut := []
  colls := []
  mgmt := Mgmt.fresh b
  nvIndex := nv
  counters := []
  elog := List.replicate 64 ⟨0, 0⟩
  errovf := 0
  msix := []
  tripPin := false
  portOut := []

/-- The machine right after reset: the build of Config, the attestation index 0 of a part never attested. -/
def State.reset : State := State.resetOf Config.build 0

end Sys2Proof.Machine
end

