-- ==== Sys2Proof/Machine/Fields.lean ====
section
/-! DEFINITION. The fields of every instruction: how an entry's operands stand in the format of R50, which registers they
name, and the constraints the entries put on them. -/

namespace Sys2Proof

/-! ## Codes -/

/-- The VARIANT of a rounding mode (R75). -/
def Rm.code : Rm → BitVec 4
  | .rn => 0 | .rz => 1 | .rd => 2 | .ru => 3 | .dyn => 4
def Rm.ofCode (c : BitVec 4) : Option Rm :=
  match c.toNat with
  | 0 => some .rn | 1 => some .rz | 2 => some .rd | 3 => some .ru | 4 => some .dyn
  | _ => none

/-- The VARIANT of ICMP (R75). -/
def ICc.code : ICc → BitVec 4
  | .eq => 0 | .ne => 1 | .lt => 2 | .le => 3 | .gt => 4 | .ge => 5 | .ltu => 6 | .leu => 7 | .gtu => 8
  | .geu => 9
def ICc.ofCode (c : BitVec 4) : Option ICc :=
  match c.toNat with
  | 0 => some .eq | 1 => some .ne | 2 => some .lt | 3 => some .le | 4 => some .gt | 5 => some .ge | 6 => some .ltu
  | 7 => some .leu | 8 => some .gtu | 9 => some .geu
  | _ => none

/-- The VARIANT of FCMP (R75). -/
def FCc.code : FCc → BitVec 4
  | .eq => 0 | .ne => 1 | .lt => 2 | .le => 3 | .gt => 4 | .ge => 5 | .num => 6 | .nan => 7
def FCc.ofCode (c : BitVec 4) : Option FCc :=
  match c.toNat with
  | 0 => some .eq | 1 => some .ne | 2 => some .lt | 3 => some .le | 4 => some .gt | 5 => some .ge | 6 => some .num
  | 7 => some .nan
  | _ => none

/-- The BW of R145. -/
def Bw.code : Bw → BitVec 2
  | .full => 0 | .sx => 1 | .zx => 2
def Bw.ofCode (c : BitVec 2) : Option Bw :=
  match c.toNat with
  | 0 => some .full | 1 => some .sx | 2 => some .zx
  | _ => none

/-- The codes of R153. -/
def CvtFmt.code : CvtFmt → BitVec 4
  | .i8 => 0 | .i16 => 1 | .i32 => 2 | .f16 => 3 | .b16 => 4 | .f32 => 5 | .e4m3 => 6 | .e5m2 => 7 | .n8 => 8
  | .n16 => 9 | .n32 => 10 | .i64 => 11 | .n64 => 12 | .f64 => 13
def CvtFmt.ofCode (c : BitVec 4) : Option CvtFmt :=
  match c.toNat with
  | 0 => some .i8 | 1 => some .i16 | 2 => some .i32 | 3 => some .f16 | 4 => some .b16 | 5 => some .f32
  | 6 => some .e4m3 | 7 => some .e5m2 | 8 => some .n8 | 9 => some .n16 | 10 => some .n32 | 11 => some .i64
  | 12 => some .n64 | 13 => some .f64
  | _ => none

/-- The FMT of R157. -/
def PackFmt.code : PackFmt → BitVec 4
  | .i16 => 1 | .f16 => 3 | .b16 => 4
def PackFmt.ofCode (c : BitVec 4) : Option PackFmt :=
  match c.toNat with
  | 1 => some .i16 | 3 => some .f16 | 4 => some .b16
  | _ => none

/-- The codes of R159. -/
def SReg.code : SReg → BitVec 8
  | .tid => 0 | .gid => 1 | .nthreads => 2 | .cid => 3 | .core => 4 | .part => 5 | .fstat => 6 | .fmode => 7
  | .cyc => 8 | .stk => 9 | .job => 10 | .launch => 11
def SReg.ofCode (c : BitVec 8) : Option SReg :=
  match c.toNat with
  | 0 => some .tid | 1 => some .gid | 2 => some .nthreads | 3 => some .cid | 4 => some .core | 5 => some .part
  | 6 => some .fstat | 7 => some .fmode | 8 => some .cyc | 9 => some .stk | 10 => some .job | 11 => some .launch
  | _ => none

/-- The VARIANT of PLOP (R75). -/
def POp.code : POp → BitVec 4
  | .and => 0 | .or => 1 | .xor => 2 | .not => 3
def POp.ofCode (c : BitVec 4) : Option POp :=
  match c.toNat with
  | 0 => some .and | 1 => some .or | 2 => some .xor | 3 => some .not
  | _ => none

/-- The MODE of R186. -/
def CvMode.code : CvMode → BitVec 4
  | .range => 0 | .word => 1 | .clear => 2
def CvMode.ofCode (c : BitVec 4) : Option CvMode :=
  match c.toNat with
  | 0 => some .range | 1 => some .word | 2 => some .clear
  | _ => none

/-- The VARIANT of SHFL (R75). -/
def ShflOp.code : ShflOp → BitVec 4
  | .idx => 0 | .up => 1 | .down => 2 | .xor => 3
def ShflOp.ofCode (c : BitVec 4) : Option ShflOp :=
  match c.toNat with
  | 0 => some .idx | 1 => some .up | 2 => some .down | 3 => some .xor
  | _ => none

/-- The VARIANT of REDUX and SCAN (R75). -/
def FoldOp.code : FoldOp → BitVec 4
  | .add => 0 | .min => 1 | .max => 2 | .and => 3 | .or => 4 | .xor => 5
def FoldOp.ofCode (c : BitVec 4) : Option FoldOp :=
  match c.toNat with
  | 0 => some .add | 1 => some .min | 2 => some .max | 3 => some .and | 4 => some .or | 5 => some .xor
  | _ => none

/-- The TY of R181. -/
def FoldTy.code : FoldTy → BitVec 2
  | .i32 => 0 | .n32 => 1 | .f32 => 2
def FoldTy.ofCode (c : BitVec 2) : Option FoldTy :=
  match c.toNat with
  | 0 => some .i32 | 1 => some .n32 | 2 => some .f32
  | _ => none

/-- The ORDER of R162. -/
def Order.code : Order → BitVec 3
  | .plain => 0 | .rlx => 1 | .acq => 2 | .rel => 3 | .ar => 4 | .sc => 5
def Order.ofCode (c : BitVec 3) : Option Order :=
  match c.toNat with
  | 0 => some .plain | 1 => some .rlx | 2 => some .acq | 3 => some .rel | 4 => some .ar | 5 => some .sc
  | _ => none

/-- The SCOPE of R162. -/
def Scope.code : Scope → BitVec 3
  | .thr => 0 | .grp => 1 | .clu => 2 | .dev => 3 | .sys => 4
def Scope.ofCode (c : BitVec 3) : Option Scope :=
  match c.toNat with
  | 0 => some .thr | 1 => some .grp | 2 => some .clu | 3 => some .dev | 4 => some .sys
  | _ => none

/-- The VARIANT of a load (R75). -/
def LdW.code : LdW → BitVec 4
  | .b8 => 0 | .b16 => 1 | .b32 => 2 | .b64 => 3 | .b128 => 4 | .s8 => 5 | .s16 => 6
def LdW.ofCode (c : BitVec 4) : Option LdW :=
  match c.toNat with
  | 0 => some .b8 | 1 => some .b16 | 2 => some .b32 | 3 => some .b64 | 4 => some .b128 | 5 => some .s8
  | 6 => some .s16
  | _ => none

/-- The VARIANT of a store (R75). -/
def StW.code : StW → BitVec 4
  | .b8 => 0 | .b16 => 1 | .b32 => 2 | .b64 => 3 | .b128 => 4
def StW.ofCode (c : BitVec 4) : Option StW :=
  match c.toNat with
  | 0 => some .b8 | 1 => some .b16 | 2 => some .b32 | 3 => some .b64 | 4 => some .b128
  | _ => none

/-- The VARIANT of ATOM and RED (R75). -/
def AtomOp.code : AtomOp → BitVec 4
  | .add => 0 | .min => 1 | .max => 2 | .and => 3 | .or => 4 | .xor => 5 | .exch => 6 | .cas => 7 | .fadd => 8
  | .fmin => 9 | .fmax => 10
def AtomOp.ofCode (c : BitVec 4) : Option AtomOp :=
  match c.toNat with
  | 0 => some .add | 1 => some .min | 2 => some .max | 3 => some .and | 4 => some .or | 5 => some .xor
  | 6 => some .exch | 7 => some .cas | 8 => some .fadd | 9 => some .fmin | 10 => some .fmax
  | _ => none

/-- The VARIANT of FENCE (R75). -/
def FenceKind.code : FenceKind → BitVec 4
  | .acq => 0 | .rel => 1 | .ar => 2 | .sc => 3
def FenceKind.ofCode (c : BitVec 4) : Option FenceKind :=
  match c.toNat with
  | 0 => some .acq | 1 => some .rel | 2 => some .ar | 3 => some .sc
  | _ => none

/-- The VARIANT of RECON (R75). -/
def ReconOp.code : ReconOp → BitVec 4
  | .sum => 0 | .min => 1 | .max => 2 | .and => 3 | .or => 4
def ReconOp.ofCode (c : BitVec 4) : Option ReconOp :=
  match c.toNat with
  | 0 => some .sum | 1 => some .min | 2 => some .max | 3 => some .and | 4 => some .or
  | _ => none

/-- The codes of R84. -/
def LFmt.code : LFmt → BitVec 4
  | .i8 => 0 | .i16 => 1 | .i32 => 2 | .f16 => 3 | .b16 => 4 | .f32 => 5 | .e4m3 => 6 | .e5m2 => 7 | .dx8 => 8
  | .dx4 => 9 | .i4 => 10 | .sb16 => 11 | .se4m3 => 12
def LFmt.ofCode (c : BitVec 4) : Option LFmt :=
  match c.toNat with
  | 0 => some .i8 | 1 => some .i16 | 2 => some .i32 | 3 => some .f16 | 4 => some .b16 | 5 => some .f32
  | 6 => some .e4m3 | 7 => some .e5m2 | 8 => some .dx8 | 9 => some .dx4 | 10 => some .i4 | 11 => some .sb16
  | 12 => some .se4m3
  | _ => none

/-- The LVL of R200. -/
def Lvl.code : Lvl → BitVec 4
  | .launch => 0 | .graph => 1 | .phase => 2 | .job => 3
def Lvl.ofCode (c : BitVec 4) : Option Lvl :=
  match c.toNat with
  | 0 => some .launch | 1 => some .graph | 2 => some .phase | 3 => some .job
  | _ => none

/-- VARIANT of CVT (R75). -/
def CvtMode.code : CvtMode → BitVec 4
  | .rm m => m.code | .rs => 5
def CvtMode.ofCode (c : BitVec 4) : Option CvtMode :=
  if c = 5 then some .rs else (Rm.ofCode c).map .rm

/-- TY of R177. -/
def ReconTy.code : ReconTy → BitVec 2
  | .i64 => 0 | .n64 => 1 | .f32 => 2 | .f64 => 3
def ReconTy.ofCode (c : BitVec 2) : ReconTy :=
  match c.toNat with
  | 0 => .i64 | 1 => .n64 | 2 => .f32 | _ => .f64

/-- A Bool as one bit. -/
def bv (b : Bool) : BitVec 1 := if b then 1 else 0
/-- A Bool as a VARIANT. -/
def bit4 (b : Bool) : BitVec 4 := if b then 1 else 0

/-- The memory-control byte (R162). -/
def Mc.code (m : Mc) : BitVec 8 := m.order.code ++ m.scope.code ++ bv m.w64 ++ bv m.nsg
def Mc.ofCode (c : BitVec 8) : Option Mc := do
  let o ← Order.ofCode (c.extractLsb' 5 3)
  let s ← Scope.ofCode (c.extractLsb' 2 3)
  some ⟨o, s, c.getLsbD 1, c.getLsbD 0⟩

/-- Bits [127:64] that exist in a length. -/
def Len.clip : Len → BitVec 64 → BitVec 64
  | .l64, _ => 0
  | .l96, v => 0#32 ++ v.extractLsb' 0 32
  | .l128, v => v

/-! ## Widths and kinds -/

def CvtFmt.wide (f : CvtFmt) : Bool := f == .i64 || f == .n64 || f == .f64
def SReg.wide (r : SReg) : Bool := r == .cyc || r == .stk
def FoldOp.logic (o : FoldOp) : Bool := o == .and || o == .or || o == .xor
/-- MIN and MAX: the operations that NSG applies to (R162). -/
def AtomOp.ordered (o : AtomOp) : Bool := o == .min || o == .max
/-- Bytes of an access. -/
def LdW.bytes : LdW → Nat
  | .b8 => 1 | .b16 => 2 | .b32 => 4 | .b64 => 8 | .b128 => 16 | .s8 => 1 | .s16 => 2
def StW.bytes : StW → Nat
  | .b8 => 1 | .b16 => 2 | .b32 => 4 | .b64 => 8 | .b128 => 16
/-- Registers of an access's datum. -/
def LdW.regs (w : LdW) : Nat := if w.bytes ≤ 4 then 1 else w.bytes / 4
def StW.regs (w : StW) : Nat := if w.bytes ≤ 4 then 1 else w.bytes / 4

namespace Machine

def Hdr.plain : Hdr := ⟨7, false, 0, false, false, .l64⟩

/-! ## Operand fields (R54 to R57) -/

def Src.kind : Src → BitVec 2
  | .d _ => 0 | .g _ => 1 | .imm _ => 3
/-- The 8-bit source field: an imm8 stands in it in the 64-bit length only (R56). -/
def Src.field (l : Len) : Src → BitVec 8
  | .d n => n
  | .g n => 0#2 ++ n
  | .imm v => if l = .l64 then v.extractLsb' 0 8 else 0
def Src.isImm : Src → Bool
  | .imm _ => true | _ => false
def Src.isG : Src → Bool
  | .g _ => true | _ => false
/-- The IMM32 of a source. -/
def Src.imm32 : Src → BitVec 32
  | .imm v => v.extractLsb' 0 32 | _ => 0

/-- MOD of opcodes 0x00 to 0x5F (R55). -/
def amod (ka kb : BitVec 2) (cmod : BitVec 12) : BitVec 16 := ka ++ kb ++ cmod
/-- The common MOD map (R181). -/
def cmod (ka kb : BitVec 2) (ex : BitVec 1) (ty : BitVec 2) (src x : BitVec 1) (sel : BitVec 4) : BitVec 16 :=
  ka ++ kb ++ 0#3 ++ ex ++ ty ++ src ++ x ++ sel
/-- MOD of the engine instructions (R245). -/
def emod (kb : BitVec 2) (fmt : BitVec 4) (rm t : BitVec 1) (sel : BitVec 4) : BitVec 16 :=
  0#2 ++ kb ++ fmt ++ 0#2 ++ rm ++ t ++ sel

/-- Bits [127:64] when B is the last source (R57). -/
def hiB2 (l : Len) (b : Src) : BitVec 64 := if l = .l64 then 0 else 0#32 ++ Src.imm32 b
/-- Bits [127:64] of class W2 and I (R138). -/
def hiW2 (l : Len) (b : Src) : BitVec 64 :=
  match l with
  | .l64 => 0
  | .l96 => 0#32 ++ Src.imm32 b
  | .l128 => match b with | .imm v => v | _ => 0
/-- Bits [127:64] with source C (R57). -/
def hiC3 (l : Len) (b c : Src) : BitVec 64 :=
  (if l = .l128 then Src.imm32 b ||| Src.imm32 c else 0) ++ 0#22 ++ Src.kind c ++ Src.field .l96 c
/-- Bits [127:64] when SRCC is a d register (R245). -/
def hiReg (r : DReg) : BitVec 64 := 0#56 ++ r
/-- A predicate's field (R54). -/
def qf (q : QReg) : BitVec 8 := 0#5 ++ q
/-- OFF16, and IMM32 as an offset (R163, R180). -/
def off16 (l : Len) (off : Word) : BitVec 16 := if l = .l64 then off.extractLsb' 0 16 else 0
def off32 (l : Len) (off : Word) : BitVec 64 := if l = .l64 then 0 else 0#32 ++ off

/-- An immediate that the length can hold, sign-extended (R56). -/
def immFits (l : Len) (v : BitVec 64) : Bool :=
  match l with
  | .l64 => (v.extractLsb' 0 8).signExtend 64 == v
  | .l96 => (v.extractLsb' 0 32).signExtend 64 == v
  | .l128 => true

def even (d : DReg) : Bool := d.toNat % 2 == 0
def quad (d : DReg) : Bool := d.toNat % 4 == 0
/-- The register of a datum of 1, 2 or 4 registers is aligned (R54). -/
def okDst (regs : Nat) (d : DReg) : Bool := d.toNat % regs == 0
/-- A register source: a pair is even-numbered (R54, R55). -/
def okReg (wide : Bool) : Src → Bool
  | .d n => !wide || n.toNat % 2 == 0
  | .g n => !wide || n.toNat % 2 == 0
  | .imm _ => false
/-- Source A is no immediate (R55). -/
def okA (wide : Bool) (a : Src) : Bool := okReg wide a
def okB (wide : Bool) (l : Len) (b : Src) : Bool :=
  match b with | .imm v => immFits l v | b => okReg wide b
/-- Source B of opcodes 0x60 to 0xFF: the 96-bit length needs an immediate (R181). -/
def okBi (l : Len) (b : Src) : Bool :=
  match b with | .imm v => l != .l128 && immFits l v | b => l == .l64 && okReg false b
def okLen2 (l : Len) : Bool := l != .l128
/-- Class C3: no immediate in 96 bits, at most one in 128 (R56, R138). -/
def okC3 (l : Len) (b c : Src) : Bool :=
  match l with
  | .l64 => false
  | .l96 => !Src.isImm b && !Src.isImm c
  | .l128 => !(Src.isImm b && Src.isImm c)
/-- Source B of LADD, LSUB and LMUL (R145). -/
def okW2 (bw : Bw) (l : Len) (b : Src) : Bool :=
  if bw = .full then okB true l b && (l != .l128 || Src.isImm b) else l != .l128 && okReg false b
/-- An offset that the length holds (R163, R180). -/
def okOff (l : Len) (off : Word) : Bool :=
  match l with
  | .l64 => (off.extractLsb' 0 16).signExtend 32 == off
  | .l96 => true
  | .l128 => false
/-- MC of an instruction (R110, R162, R163, R169): whether W64 and NSG are used, and whether acquire and release orders are
accepted. -/
def okMc (atomic acq rel : Bool) (m : Mc) : Bool :=
  (m.order != .plain || m.scope == .thr) && (atomic || (!m.w64 && !m.nsg)) &&
  (m.order != .acq || acq) && (m.order != .rel || rel) && (m.order != .ar || (acq && rel))

def cntSrc (c : Option Src) : Src := c.getD (.d 0)
/-- FMT of the copy instructions: 0xF for the record's own format (R245). -/
def fmtCode : Option LFmt → BitVec 4
  | some f => f.code | none => 15
def fmtOf (c : BitVec 4) : Option (Option LFmt) := if c = 15 then some none else (LFmt.ofCode c).map some
def copyFmt (f : Option LFmt) : Bool := match f with | some f => f.code.toNat < 8 | none => true
def mmaFmt (f : LFmt) : Bool := f == .f16 || f == .b16 || f == .e4m3 || f == .e5m2 || f == .dx8 || f == .dx4

/-! ## Register names -/

def pair (d : DReg) : List RegName := [.d d.toNat, .d (d.toNat + 1)]
def dRegs (wide : Bool) (d : DReg) : List RegName := if wide then pair d else [.d d.toNat]
/-- `n` consecutive d registers. -/
def blk (d : DReg) (n : Nat) : List RegName := (List.range' d.toNat n).map .d
def gBlk (g n : Nat) : List RegName := (List.range' g n).map .g
def srcRegs (wide : Bool) : Src → List RegName
  | .d n => dRegs wide n
  | .g n => gBlk n.toNat (if wide then 2 else 1)
  | .imm _ => []
def optRegs : Option Src → List RegName
  | some s => srcRegs false s | none => []
def tryRegs (tr : Bool) (q : QReg) : List RegName := if tr then [.q q.toNat] else []
/-- q7 never enters a destination set (R59). -/
def qSet (q : QReg) : List RegName := if q = 7 then [] else [.q q.toNat]
def flagReg (h : Hdr) : List RegName := if h.nf then [] else [.fstat]

/-- The opcodes that the map of R74 assigns. -/
def assigned (op : BitVec 8) : Bool :=
  let n := op.toNat
  (0x00 ≤ n && n ≤ 0x1B) || (0x20 ≤ n && n ≤ 0x33) || (0x40 ≤ n && n ≤ 0x44) || (0x48 ≤ n && n ≤ 0x4E) ||
  (0x60 ≤ n && n ≤ 0x67) || (0x70 ≤ n && n ≤ 0x79) || (0x80 ≤ n && n ≤ 0x8B) || (0xA0 ≤ n && n ≤ 0xA3) ||
  (0xA8 ≤ n && n ≤ 0xAC) || (0xB0 ≤ n && n ≤ 0xB4) || (0xB8 ≤ n && n ≤ 0xBD) || (0xC0 ≤ n && n ≤ 0xC4) ||
  (0xC8 ≤ n && n ≤ 0xCA) || (0xCC ≤ n && n ≤ 0xCE) || (0xD0 ≤ n && n ≤ 0xD3) || (0xE0 ≤ n && n ≤ 0xE7)

/-- The header of a thread instruction. A short and a step of the device have none: unguarded, every field 0. -/
def hdrOf : Instr → Hdr
  | .iadd h _ _ _ => h
  | .isub h _ _ _ => h
  | .imul h _ _ _ => h
  | .imulh h _ _ _ _ => h
  | .imad h _ _ _ _ => h
  | .imadw h _ _ _ _ _ => h
  | .ineg h _ _ => h
  | .iabs h _ _ => h
  | .imin h _ _ _ _ => h
  | .imax h _ _ _ _ => h
  | .ishl h _ _ _ => h
  | .ishr h _ _ _ => h
  | .ilsr h _ _ _ => h
  | .irot h _ _ _ => h
  | .iand h _ _ _ => h
  | .ior h _ _ _ => h
  | .ixor h _ _ _ => h
  | .iandn h _ _ _ => h
  | .inot h _ _ => h
  | .ipopc h _ _ => h
  | .iclz h _ _ => h
  | .ibrev h _ _ => h
  | .ibfe h _ _ _ _ => h
  | .ibfi h _ _ _ _ => h
  | .idiv h _ _ _ _ => h
  | .irem h _ _ _ _ => h
  | .isel h _ _ _ _ _ => h
  | .icmp h _ _ _ _ => h
  | .ladd h _ _ _ _ => h
  | .lsub h _ _ _ _ => h
  | .lmul h _ _ _ _ => h
  | .lshl h _ _ _ => h
  | .lshr h _ _ _ _ => h
  | .aadd h _ _ _ _ _ => h
  | .alea h _ _ _ _ _ => h
  | .fadd h _ _ _ _ => h
  | .fsub h _ _ _ _ => h
  | .fmul h _ _ _ _ => h
  | .ffma h _ _ _ _ _ => h
  | .fdiv h _ _ _ _ => h
  | .fmin h _ _ _ => h
  | .fmax h _ _ _ => h
  | .fcmp h _ _ _ _ => h
  | .fsel h _ _ _ _ _ => h
  | .fclass h _ _ => h
  | .fscale h _ _ _ _ => h
  | .frint h _ _ _ => h
  | .ffrac h _ _ => h
  | .frcp h _ _ => h
  | .frsq h _ _ => h
  | .fex2 h _ _ => h
  | .flg2 h _ _ => h
  | .hadd2 h _ _ _ _ _ => h
  | .hmul2 h _ _ _ _ _ => h
  | .hfma2 h _ _ _ _ _ _ => h
  | .cvt h _ _ _ _ _ _ => h
  | .dxpack h _ _ _ _ => h
  | .dxunpack h _ _ _ _ => h
  | .pack h _ _ _ _ => h
  | .unpack h _ _ _ => h
  | .mov h _ _ _ => h
  | .movi h _ _ _ => h
  | .sread h _ _ => h
  | .swrite h _ _ => h
  | .bmix h _ _ _ _ => h
  | .pset h _ _ _ _ => h
  | .plop h _ _ _ _ _ _ => h
  | .bra h _ => h
  | .braU h _ => h
  | .brx h _ => h
  | .call h _ => h
  | .callx h _ => h
  | .ret h => h
  | .exit h => h
  | .nop h => h
  | .yield h => h
  | .cvset h _ _ _ _ => h
  | .cvsign h _ => h
  | .shfl h _ _ _ _ _ => h
  | .voteAll h _ _ _ _ => h
  | .voteAny h _ _ _ _ => h
  | .voteBallot h _ _ _ _ _ => h
  | .redux h _ _ _ _ _ => h
  | .scan h _ _ _ _ _ _ => h
  | .barArrive h _ _ => h
  | .barSync h _ _ => h
  | .barWait h _ => h
  | .qcfg h _ _ _ => h
  | .qpush h _ _ _ _ => h
  | .qpop h _ _ _ _ _ => h
  | .ld h _ _ _ _ _ => h
  | .st h _ _ _ _ _ => h
  | .lds h _ _ _ _ _ => h
  | .ldr h _ _ _ _ _ => h
  | .sts h _ _ _ _ _ => h
  | .str h _ _ _ _ _ => h
  | .ldp h _ _ _ _ => h
  | .atom h _ _ _ _ _ _ _ => h
  | .red h _ _ _ _ _ => h
  | .fence h _ _ => h
  | .cctlRange h _ _ => h
  | .cctlAll h => h
  | .pref h _ _ => h
  | .sld h _ _ _ => h
  | .sst h _ _ _ _ => h
  | .sstT h _ _ _ _ => h
  | .recon h _ _ _ _ => h
  | .reconSet h _ _ _ _ => h
  | .rowreg h _ _ => h
  | .rowreq h _ _ => h
  | .rowwait h _ _ => h
  | .rowqry h _ _ => h
  | .rowcancel h _ _ => h
  | .cpy h _ _ _ _ _ _ _ => h
  | .cpyo h _ _ _ _ _ _ => h
  | .cpyhTo h _ _ _ _ _ _ => h
  | .cpyhFrom h _ _ _ _ _ _ => h
  | .cpyx h _ _ _ _ _ => h
  | .arvInit h _ _ _ => h
  | .arvAdd h _ _ _ => h
  | .arvWait h _ _ _ => h
  | .arvTest h _ _ _ => h
  | .mma h _ _ _ _ => h
  | .mmz h _ _ _ => h
  | .wbld h _ _ _ _ _ => h
  | .wbldSparse h _ _ _ _ _ => h
  | .wbrel h _ _ => h
  | .accld h _ _ _ _ => h
  | .accst h _ _ _ _ => h
  | .credSmx h _ _ _ _ _ => h
  | .credSum h _ _ _ _ _ => h
  | .credMax h _ _ _ _ _ => h
  | .gseg h _ _ _ => h
  | .gvec h _ _ _ => h
  | .grun h _ _ => h
  | .gout h _ _ => h
  | .gwait h _ => h
  | .dictLoad h _ _ => h
  | .dictRead h _ _ => h
  | .fenceF h => h
  | .launch h _ _ => h
  | .cntWait h _ _ _ _ => h
  | .cancel h _ _ _ => h
  | .tapePush h _ _ => h
  | .trap h _ => h
  | .assert h _ _ => h
  | .resumeRetry h => h
  | .resumeSkip h => h
  | .kill h => h
  | .srd h _ _ => h
  | .swr h _ _ => h
  | .tlbinvAll h => h
  | .tlbinvPage h _ => h
  | .gswap h _ _ => h
  | .illegalOpcode r => r.hdr
  | _ => Hdr.plain

/-- The fields that encode a thread instruction (R50 to R57, R141 to R181, R219, R245, R270, R309). -/
def toRaw : Instr → Option Raw
  | .iadd h d a b => some ⟨h, 0x00, 0, d, Src.field h.len a, Src.field h.len b, amod (Src.kind a) (Src.kind b) (0#12), hiB2 h.len b⟩
  | .isub h d a b => some ⟨h, 0x01, 0, d, Src.field h.len a, Src.field h.len b, amod (Src.kind a) (Src.kind b) (0#12), hiB2 h.len b⟩
  | .imul h d a b => some ⟨h, 0x02, 0, d, Src.field h.len a, Src.field h.len b, amod (Src.kind a) (Src.kind b) (0#12), hiB2 h.len b⟩
  | .imulh h u d a b => some ⟨h, 0x03, bit4 u, d, Src.field h.len a, Src.field h.len b, amod (Src.kind a) (Src.kind b) (0#12), hiB2 h.len b⟩
  | .imad h d a b c => some ⟨h, 0x04, 0, d, Src.field h.len a, Src.field .l96 b, amod (Src.kind a) (Src.kind b) (0#12), hiC3 h.len b c⟩
  | .imadw h u d a b c => some ⟨h, 0x05, 0, d, Src.field h.len a, Src.field .l96 b, amod (Src.kind a) (Src.kind b) (0#11 ++ bv u), hiC3 h.len b c⟩
  | .ineg h d a => some ⟨h, 0x06, 0, d, Src.field h.len a, 0, amod (Src.kind a) 0 (0#12), 0⟩
  | .iabs h d a => some ⟨h, 0x07, 0, d, Src.field h.len a, 0, amod (Src.kind a) 0 (0#12), 0⟩
  | .imin h u d a b => some ⟨h, 0x08, bit4 u, d, Src.field h.len a, Src.field h.len b, amod (Src.kind a) (Src.kind b) (0#12), hiB2 h.len b⟩
  | .imax h u d a b => some ⟨h, 0x09, bit4 u, d, Src.field h.len a, Src.field h.len b, amod (Src.kind a) (Src.kind b) (0#12), hiB2 h.len b⟩
  | .ishl h d a b => some ⟨h, 0x0A, 0, d, Src.field h.len a, Src.field h.len b, amod (Src.kind a) (Src.kind b) (0#12), hiB2 h.len b⟩
  | .ishr h d a b => some ⟨h, 0x0A, 1, d, Src.field h.len a, Src.field h.len b, amod (Src.kind a) (Src.kind b) (0#12), hiB2 h.len b⟩
  | .ilsr h d a b => some ⟨h, 0x0A, 2, d, Src.field h.len a, Src.field h.len b, amod (Src.kind a) (Src.kind b) (0#12), hiB2 h.len b⟩
  | .irot h d a b => some ⟨h, 0x0A, 3, d, Src.field h.len a, Src.field h.len b, amod (Src.kind a) (Src.kind b) (0#12), hiB2 h.len b⟩
  | .iand h d a b => some ⟨h, 0x0B, 0, d, Src.field h.len a, Src.field h.len b, amod (Src.kind a) (Src.kind b) (0#12), hiB2 h.len b⟩
  | .ior h d a b => some ⟨h, 0x0B, 1, d, Src.field h.len a, Src.field h.len b, amod (Src.kind a) (Src.kind b) (0#12), hiB2 h.len b⟩
  | .ixor h d a b => some ⟨h, 0x0B, 2, d, Src.field h.len a, Src.field h.len b, amod (Src.kind a) (Src.kind b) (0#12), hiB2 h.len b⟩
  | .iandn h d a b => some ⟨h, 0x0B, 3, d, Src.field h.len a, Src.field h.len b, amod (Src.kind a) (Src.kind b) (0#12), hiB2 h.len b⟩
  | .inot h d a => some ⟨h, 0x0B, 4, d, Src.field h.len a, 0, amod (Src.kind a) 0 (0#12), 0⟩
  | .ipopc h d a => some ⟨h, 0x0C, 0, d, Src.field h.len a, 0, amod (Src.kind a) 0 (0#12), 0⟩
  | .iclz h d a => some ⟨h, 0x0D, 0, d, Src.field h.len a, 0, amod (Src.kind a) 0 (0#12), 0⟩
  | .ibrev h d a => some ⟨h, 0x0E, 0, d, Src.field h.len a, 0, amod (Src.kind a) 0 (0#12), 0⟩
  | .ibfe h u d a b => some ⟨h, 0x0F, 0, d, Src.field h.len a, Src.field h.len b, amod (Src.kind a) (Src.kind b) (0#11 ++ bv u), hiB2 h.len b⟩
  | .ibfi h d a b c => some ⟨h, 0x10, 0, d, Src.field h.len a, Src.field .l96 b, amod (Src.kind a) (Src.kind b) (0#12), hiC3 h.len b c⟩
  | .idiv h u d a b => some ⟨h, 0x11, bit4 u, d, Src.field h.len a, Src.field h.len b, amod (Src.kind a) (Src.kind b) (0#12), hiB2 h.len b⟩
  | .irem h u d a b => some ⟨h, 0x12, bit4 u, d, Src.field h.len a, Src.field h.len b, amod (Src.kind a) (Src.kind b) (0#12), hiB2 h.len b⟩
  | .isel h pn pq d a b => some ⟨h, 0x13, 0, d, Src.field h.len a, Src.field h.len b, amod (Src.kind a) (Src.kind b) (0#7 ++ bv pn ++ 0#1 ++ pq), hiB2 h.len b⟩
  | .icmp h cc q a b => some ⟨h, 0x14, cc.code, qf q, Src.field h.len a, Src.field h.len b, amod (Src.kind a) (Src.kind b) (0#12), hiB2 h.len b⟩
  | .ladd h bw d a b => some ⟨h, 0x15, 0, d, Src.field h.len a, Src.field h.len b, amod (Src.kind a) (Src.kind b) (0#10 ++ bw.code), hiW2 h.len b⟩
  | .lsub h bw d a b => some ⟨h, 0x16, 0, d, Src.field h.len a, Src.field h.len b, amod (Src.kind a) (Src.kind b) (0#10 ++ bw.code), hiW2 h.len b⟩
  | .lmul h bw d a b => some ⟨h, 0x17, 0, d, Src.field h.len a, Src.field h.len b, amod (Src.kind a) (Src.kind b) (0#10 ++ bw.code), hiW2 h.len b⟩
  | .lshl h d a b => some ⟨h, 0x18, 0, d, Src.field h.len a, Src.field h.len b, amod (Src.kind a) (Src.kind b) (0#12), hiB2 h.len b⟩
  | .lshr h u d a b => some ⟨h, 0x19, bit4 u, d, Src.field h.len a, Src.field h.len b, amod (Src.kind a) (Src.kind b) (0#12), hiB2 h.len b⟩
  | .aadd h u sh d a b => some ⟨h, 0x1A, 0, d, Src.field h.len a, Src.field h.len b, amod (Src.kind a) (Src.kind b) (0#7 ++ bv u ++ sh), hiB2 h.len b⟩
  | .alea h u d a b c => some ⟨h, 0x1B, 0, d, Src.field h.len a, Src.field .l96 b, amod (Src.kind a) (Src.kind b) (0#7 ++ bv u ++ 0#4), hiC3 h.len b c⟩
  | .fadd h rm d a b => some ⟨h, 0x20, rm.code, d, Src.field h.len a, Src.field h.len b, amod (Src.kind a) (Src.kind b) (0#12), hiB2 h.len b⟩
  | .fsub h rm d a b => some ⟨h, 0x21, rm.code, d, Src.field h.len a, Src.field h.len b, amod (Src.kind a) (Src.kind b) (0#12), hiB2 h.len b⟩
  | .fmul h rm d a b => some ⟨h, 0x22, rm.code, d, Src.field h.len a, Src.field h.len b, amod (Src.kind a) (Src.kind b) (0#12), hiB2 h.len b⟩
  | .ffma h rm d a b c => some ⟨h, 0x23, rm.code, d, Src.field h.len a, Src.field .l96 b, amod (Src.kind a) (Src.kind b) (0#12), hiC3 h.len b c⟩
  | .fdiv h rm d a b => some ⟨h, 0x30, rm.code, d, Src.field h.len a, Src.field h.len b, amod (Src.kind a) (Src.kind b) (0#12), hiB2 h.len b⟩
  | .fmin h d a b => some ⟨h, 0x24, 0, d, Src.field h.len a, Src.field h.len b, amod (Src.kind a) (Src.kind b) (0#12), hiB2 h.len b⟩
  | .fmax h d a b => some ⟨h, 0x25, 0, d, Src.field h.len a, Src.field h.len b, amod (Src.kind a) (Src.kind b) (0#12), hiB2 h.len b⟩
  | .fcmp h cc q a b => some ⟨h, 0x26, cc.code, qf q, Src.field h.len a, Src.field h.len b, amod (Src.kind a) (Src.kind b) (0#12), hiB2 h.len b⟩
  | .fsel h pn pq d a b => some ⟨h, 0x27, 0, d, Src.field h.len a, Src.field h.len b, amod (Src.kind a) (Src.kind b) (0#7 ++ bv pn ++ 0#1 ++ pq), hiB2 h.len b⟩
  | .fclass h d a => some ⟨h, 0x28, 0, d, Src.field h.len a, 0, amod (Src.kind a) 0 (0#12), 0⟩
  | .fscale h rm d a b => some ⟨h, 0x29, rm.code, d, Src.field h.len a, Src.field h.len b, amod (Src.kind a) (Src.kind b) (0#12), hiB2 h.len b⟩
  | .frint h rm d a => some ⟨h, 0x2A, rm.code, d, Src.field h.len a, 0, amod (Src.kind a) 0 (0#12), 0⟩
  | .ffrac h d a => some ⟨h, 0x2B, 0, d, Src.field h.len a, 0, amod (Src.kind a) 0 (0#12), 0⟩
  | .frcp h d a => some ⟨h, 0x2C, 0, d, Src.field h.len a, 0, amod (Src.kind a) 0 (0#12), 0⟩
  | .frsq h d a => some ⟨h, 0x2D, 0, d, Src.field h.len a, 0, amod (Src.kind a) 0 (0#12), 0⟩
  | .fex2 h d a => some ⟨h, 0x2E, 0, d, Src.field h.len a, 0, amod (Src.kind a) 0 (0#12), 0⟩
  | .flg2 h d a => some ⟨h, 0x2F, 0, d, Src.field h.len a, 0, amod (Src.kind a) 0 (0#12), 0⟩
  | .hadd2 h rm bf d a b => some ⟨h, 0x31, rm.code, d, Src.field h.len a, Src.field h.len b, amod (Src.kind a) (Src.kind b) (0#11 ++ bv bf), hiB2 h.len b⟩
  | .hmul2 h rm bf d a b => some ⟨h, 0x32, rm.code, d, Src.field h.len a, Src.field h.len b, amod (Src.kind a) (Src.kind b) (0#11 ++ bv bf), hiB2 h.len b⟩
  | .hfma2 h rm bf d a b c => some ⟨h, 0x33, rm.code, d, Src.field h.len a, Src.field .l96 b, amod (Src.kind a) (Src.kind b) (0#11 ++ bv bf), hiC3 h.len b c⟩
  | .cvt h m df sf d a b => some ⟨h, 0x40, m.code, d, Src.field h.len a, Src.field h.len b, amod (Src.kind a) (Src.kind b) (df.code ++ sf.code ++ 0#4), hiB2 h.len b⟩
  | .dxpack h dx4 d a c => some ⟨h, 0x41, bit4 dx4, d, Src.field h.len a, 0#4 ++ c, amod (Src.kind a) 0 0#12, 0⟩
  | .dxunpack h dx4 d a b => some ⟨h, 0x42, bit4 dx4, d, Src.field h.len a, Src.field h.len b, amod (Src.kind a) (Src.kind b) (0#12), hiB2 h.len b⟩
  | .pack h f d a b => some ⟨h, 0x43, 0, d, Src.field h.len a, Src.field h.len b, amod (Src.kind a) (Src.kind b) (0#8 ++ f.code), hiB2 h.len b⟩
  | .unpack h f d a => some ⟨h, 0x44, 0, d, Src.field h.len a, 0, amod (Src.kind a) 0 (0#8 ++ f.code), 0⟩
  | .mov h w d a => some ⟨h, 0x48, 0, d, Src.field h.len a, 0, amod (Src.kind a) 0 (0#11 ++ bv w), 0⟩
  | .movi h w d v => some ⟨h, 0x49, 0, d, 0, Src.field h.len (.imm v), amod 0 3 (0#11 ++ bv w), hiW2 h.len (.imm v)⟩
  | .sread h d r => some ⟨h, 0x4A, 0, d, 0, 0, amod 0 0 (0#4 ++ r.code), 0⟩
  | .swrite h r a => some ⟨h, 0x4B, 0, 0, Src.field h.len a, 0, amod (Src.kind a) 0 (0#4 ++ r.code), 0⟩
  | .bmix h d a b c => some ⟨h, 0x4C, 0, d, Src.field h.len a, Src.field .l96 b, amod (Src.kind a) (Src.kind b) (0#12), hiC3 h.len b c⟩
  | .pset h z q a b => some ⟨h, 0x4D, 0, qf q, Src.field h.len a, Src.field h.len b, amod (Src.kind a) (Src.kind b) (0#11 ++ bv z), hiB2 h.len b⟩
  | .plop h op na nb q qa qb => some ⟨h, 0x4E, op.code, qf q, qf qa, qf qb, amod 0 0 (0#10 ++ bv na ++ bv nb), 0⟩
  | .bra h off => some ⟨h, 0x60, 0, 0, 0, 0, off16 h.len off, off32 h.len off⟩
  | .braU h off => some ⟨h, 0x60, 1, 0, 0, 0, off16 h.len off, off32 h.len off⟩
  | .brx h n => some ⟨h, 0x61, 0, 0, n, 0, 0, 0⟩
  | .call h off => some ⟨h, 0x62, 0, 0, 0, 0, off16 h.len off, off32 h.len off⟩
  | .callx h n => some ⟨h, 0x63, 0, 0, n, 0, 0, 0⟩
  | .ret h => some ⟨h, 0x64, 0, 0, 0, 0, 0, 0⟩
  | .exit h => some ⟨h, 0x65, 0, 0, 0, 0, 0, 0⟩
  | .nop h => some ⟨h, 0x66, 0, 0, 0, 0, 0, 0⟩
  | .yield h => some ⟨h, 0x67, 0, 0, 0, 0, 0, 0⟩
  | .cvset h m c a b => some ⟨h, 0x70, 0, 0#4 ++ c, Src.field h.len a, Src.field h.len b, cmod (Src.kind a) (Src.kind b) 0#1 0#2 0#1 0#1 m.code, hiB2 h.len b⟩
  | .cvsign h c => some ⟨h, 0x71, 0, 0, 0, 0, cmod 0 0 0#1 0#2 0#1 0#1 c, 0⟩
  | .shfl h op d a b c => some ⟨h, 0x72, op.code, d, Src.field h.len a, Src.field h.len b, cmod (Src.kind a) (Src.kind b) 0#1 0#2 0#1 0#1 c, hiB2 h.len b⟩
  | .voteAll h na q p c => some ⟨h, 0x73, 0, qf q, qf p, 0, cmod 0 0 0#1 0#2 0#1 (bv na) c, 0⟩
  | .voteAny h na q p c => some ⟨h, 0x73, 1, qf q, qf p, 0, cmod 0 0 0#1 0#2 0#1 (bv na) c, 0⟩
  | .voteBallot h na d p b c => some ⟨h, 0x73, 2, d, qf p, Src.field h.len b, cmod 0 (Src.kind b) 0#1 0#2 0#1 (bv na) c, hiB2 h.len b⟩
  | .redux h op ty d a c => some ⟨h, 0x74, op.code, d, Src.field h.len a, 0, cmod (Src.kind a) 0 0#1 ty.code 0#1 0#1 c, 0⟩
  | .scan h op ty ex d a c => some ⟨h, 0x75, op.code, d, Src.field h.len a, 0, cmod (Src.kind a) 0 (bv ex) ty.code 0#1 0#1 c, 0⟩
  | .barArrive h n cnt => some ⟨h, 0x76, 0, 0#4 ++ n, 0, Src.field h.len (cntSrc cnt), cmod 0 (Src.kind (cntSrc cnt)) 0#1 0#2 0#1 (bv cnt.isSome) 0#4, hiB2 h.len (cntSrc cnt)⟩
  | .barSync h n cnt => some ⟨h, 0x76, 2, 0#4 ++ n, 0, Src.field h.len (cntSrc cnt), cmod 0 (Src.kind (cntSrc cnt)) 0#1 0#2 0#1 (bv cnt.isSome) 0#4, hiB2 h.len (cntSrc cnt)⟩
  | .barWait h n => some ⟨h, 0x76, 1, 0#4 ++ n, 0, 0, 0, 0⟩
  | .qcfg h n a b => some ⟨h, 0x77, 0, 0#5 ++ n, Src.field h.len a, Src.field h.len b, cmod (Src.kind a) (Src.kind b) 0#1 0#2 0#1 0#1 0#4, hiB2 h.len b⟩
  | .qpush h tr p n b => some ⟨h, 0x78, 0, 0#5 ++ n, 0, Src.field h.len b, cmod 0 (Src.kind b) 0#1 0#2 0#1 (bv tr) (0#1 ++ p), hiB2 h.len b⟩
  | .qpop h tr p src d n => some ⟨h, 0x79, 0, d, 0#5 ++ n, 0, cmod 0 0 0#1 0#2 (bv src) (bv tr) (0#1 ++ p), 0⟩
  | .ld h w m d n off => some ⟨h, 0x80, w.code, d, n, m.code, off16 h.len off, off32 h.len off⟩
  | .st h w m n off s => some ⟨h, 0x81, w.code, m.code, n, s, off16 h.len off, off32 h.len off⟩
  | .lds h w m d n off => some ⟨h, 0x82, w.code, d, n, m.code, off16 h.len off, off32 h.len off⟩
  | .ldr h w m d n off => some ⟨h, 0x84, w.code, d, n, m.code, off16 h.len off, off32 h.len off⟩
  | .sts h w m n off s => some ⟨h, 0x83, w.code, m.code, n, s, off16 h.len off, off32 h.len off⟩
  | .str h w m n off s => some ⟨h, 0x85, w.code, m.code, n, s, off16 h.len off, off32 h.len off⟩
  | .ldp h g k m off => some ⟨h, 0x86, 0, 0#2 ++ g, 0#2 ++ m, 0#4 ++ k, off16 h.len off, off32 h.len off⟩
  | .atom h op m d n off b cmp => some ⟨h, 0x87, op.code, d, n, b, m.code ++ cmp, off32 .l96 off⟩
  | .red h op m n off b => some ⟨h, 0x88, op.code, 0, n, b, m.code ++ 0#8, off32 .l96 off⟩
  | .fence h k sc => some ⟨h, 0x89, k.code, (Mc.mk .plain sc false false).code, 0, 0, 0, 0⟩
  | .cctlRange h n l => some ⟨h, 0x8A, 0, 0, n, l, 0, 0⟩
  | .cctlAll h => some ⟨h, 0x8A, 1, 0, 0, 0, 0, 0⟩
  | .pref h n off => some ⟨h, 0x8B, 0, 0, n, 0, off16 h.len off, off32 h.len off⟩
  | .sld h v d n => some ⟨h, 0xA0, 0, d, n, 0, 0#12 ++ v, 0⟩
  | .sst h s n v tok => some ⟨h, 0xA1, 0, s, n, v, 0#7 ++ bv tok.isSome ++ tok.getD 0, 0⟩
  | .sstT h s n v tok => some ⟨h, 0xA1, 1, s, n, v, 0#7 ++ bv tok.isSome ++ tok.getD 0, 0⟩
  | .recon h op ty d n => some ⟨h, 0xA2, op.code, d, n, 0, 0#14 ++ ty.code, 0⟩
  | .reconSet h s n v t => some ⟨h, 0xA3, 0, s, n, v, 0#8 ++ t, 0⟩
  | .rowreg h d n => some ⟨h, 0xA8, 0, d, n, 0, 0, 0⟩
  | .rowreq h d n => some ⟨h, 0xA9, 0, d, n, 0, 0, 0⟩
  | .rowwait h d a => some ⟨h, 0xAA, 0, d, a, 0, 0, 0⟩
  | .rowqry h d n => some ⟨h, 0xAB, 0, d, n, 0, 0, 0⟩
  | .rowcancel h d a => some ⟨h, 0xAC, 0, d, a, 0, 0, 0⟩
  | .cpy h f t mask d n q b => some ⟨h, 0xB0, 0, d, n, q, emod 0 (fmtCode f) 0#1 (bv t) mask, hiReg b⟩
  | .cpyo h f t s n q w => some ⟨h, 0xB1, 0, s, n, q, emod 0 (fmtCode f) 0#1 (bv t) 0#4, hiReg w⟩
  | .cpyhTo h f t s n q w => some ⟨h, 0xB2, 0, s, n, q, emod 0 (fmtCode f) 0#1 (bv t) 0#4, hiReg w⟩
  | .cpyhFrom h f t d n q w => some ⟨h, 0xB2, 1, d, n, q, emod 0 (fmtCode f) 0#1 (bv t) 0#4, hiReg w⟩
  | .cpyx h mask d n q b => some ⟨h, 0xB3, 0, d, n, q, emod 0 0#4 0#1 0#1 mask, hiReg b⟩
  | .arvInit h rm a b => some ⟨h, 0xB4, 0, 0, a, Src.field h.len b, emod (Src.kind b) 0#4 (bv rm) 0#1 0#4, hiB2 h.len b⟩
  | .arvAdd h rm a b => some ⟨h, 0xB4, 3, 0, a, Src.field h.len b, emod (Src.kind b) 0#4 (bv rm) 0#1 0#4, hiB2 h.len b⟩
  | .arvWait h rm d a => some ⟨h, 0xB4, 1, d, a, 0, emod 0 0#4 (bv rm) 0#1 0#4, 0⟩
  | .arvTest h rm q a => some ⟨h, 0xB4, 2, qf q, a, 0, emod 0 0#4 (bv rm) 0#1 0#4, 0⟩
  | .mma h f q b c => some ⟨h, 0xB8, 0, 0, q, b, emod 0 f.code 0#1 0#1 c, 0⟩
  | .mmz h a b c => some ⟨h, 0xB9, 0, 0, a, b, emod 0 0#4 0#1 0#1 c, 0⟩
  | .wbld h s n q b c => some ⟨h, 0xBA, 0, s, n, q, emod 0 0#4 0#1 0#1 c, hiReg b⟩
  | .wbldSparse h s n q b c => some ⟨h, 0xBA, 1, s, n, q, emod 0 0#4 0#1 0#1 c, hiReg b⟩
  | .wbrel h b c => some ⟨h, 0xBB, 0, 0, 0, b, emod 0 0#4 0#1 0#1 c, 0⟩
  | .accld h f q b c => some ⟨h, 0xBC, 0, 0, q, b, emod 0 f.code 0#1 0#1 c, 0⟩
  | .accst h f q b c => some ⟨h, 0xBD, 0, 0, q, b, emod 0 f.code 0#1 0#1 c, 0⟩
  | .credSmx h d s b k c => some ⟨h, 0xC8, 0, d, s, b, emod 0 0#4 0#1 0#1 c, hiReg k⟩
  | .credSum h d s b k c => some ⟨h, 0xC9, 0, d, s, b, emod 0 0#4 0#1 0#1 c, hiReg k⟩
  | .credMax h d s b k c => some ⟨h, 0xCA, 0, d, s, b, emod 0 0#4 0#1 0#1 c, hiReg k⟩
  | .gseg h d n c => some ⟨h, 0xC0, 0, d, n, 0, 0#12 ++ c, 0⟩
  | .gvec h d q c => some ⟨h, 0xC1, 0, d, q, 0, 0#12 ++ c, 0⟩
  | .grun h d c => some ⟨h, 0xC2, 0, d, 0, 0, 0#12 ++ c, 0⟩
  | .gout h d c => some ⟨h, 0xC3, 0, d, 0, 0, 0#12 ++ c, 0⟩
  | .gwait h d => some ⟨h, 0xC4, 0, d, 0, 0, 0, 0⟩
  | .dictLoad h d n => some ⟨h, 0xCC, 0, d, n, 0, 0, 0⟩
  | .dictRead h d b => some ⟨h, 0xCD, 0, d, 0, Src.field h.len b, cmod 0 (Src.kind b) 0#1 0#2 0#1 0#1 0#4, hiB2 h.len b⟩
  | .fenceF h => some ⟨h, 0xCE, 0, 0, 0, 0, 0, 0⟩
  | .launch h d n => some ⟨h, 0xD0, 0, d, n, 0, 0, 0⟩
  | .cntWait h lvl tr d a => some ⟨h, 0xD1, 0, d, Src.field h.len a, 0, cmod (Src.kind a) 0 0#1 0#2 0#1 (bv tr) lvl.code, 0⟩
  | .cancel h lvl d a => some ⟨h, 0xD2, 0, d, Src.field h.len a, 0, cmod (Src.kind a) 0 0#1 0#2 0#1 0#1 lvl.code, 0⟩
  | .tapePush h d n => some ⟨h, 0xD3, 0, d, n, 0, 0, 0⟩
  | .trap h code => some ⟨h, 0xE0, 0, 0, 0, 0, code, 0⟩
  | .assert h n code => some ⟨h, 0xE1, 0, 0, n, 0, code, 0⟩
  | .resumeRetry h => some ⟨h, 0xE2, 0, 0, 0, 0, 0, 0⟩
  | .resumeSkip h => some ⟨h, 0xE2, 1, 0, 0, 0, 0, 0⟩
  | .kill h => some ⟨h, 0xE3, 0, 0, 0, 0, 0, 0⟩
  | .srd h d b => some ⟨h, 0xE4, 0, d, 0, Src.field h.len b, cmod 0 (Src.kind b) 0#1 0#2 0#1 0#1 0#4, hiB2 h.len b⟩
  | .swr h b a => some ⟨h, 0xE5, 0, 0, a, Src.field h.len b, cmod 0 (Src.kind b) 0#1 0#2 0#1 0#1 0#4, hiB2 h.len b⟩
  | .tlbinvAll h => some ⟨h, 0xE6, 0, 0, 0, 0, 0, 0⟩
  | .tlbinvPage h n => some ⟨h, 0xE6, 1, 0, n, 0, 0, 0⟩
  | .gswap h d c => some ⟨h, 0xE7, 0, d, 0, 0, 0#12 ++ c, 0⟩
  | .illegalOpcode r => some r
  | _ => none

/-- The constraints that the entries put on lengths and operands, apart from the `.regs` count (R53 to R58, R138, R139,
R162, R180, R245). -/
def fieldsOk : Instr → Bool
  | .iadd h _ a b => okLen2 h.len && okA false a && okB false h.len b
  | .isub h _ a b => okLen2 h.len && okA false a && okB false h.len b
  | .imul h _ a b => okLen2 h.len && okA false a && okB false h.len b
  | .imulh h _ _ a b => okLen2 h.len && okA false a && okB false h.len b
  | .imad h _ a b c => okC3 h.len b c && okA false a && okB false .l96 b && okB false .l96 c
  | .imadw h _ d a b c => okC3 h.len b c && okA false a && okB false .l96 b && okB true .l96 c && even d
  | .ineg h _ a => h.len == .l64 && okA (false) a
  | .iabs h _ a => h.len == .l64 && okA (false) a
  | .imin h _ _ a b => okLen2 h.len && okA false a && okB false h.len b
  | .imax h _ _ a b => okLen2 h.len && okA false a && okB false h.len b
  | .ishl h _ a b => okLen2 h.len && okA false a && okB false h.len b
  | .ishr h _ a b => okLen2 h.len && okA false a && okB false h.len b
  | .ilsr h _ a b => okLen2 h.len && okA false a && okB false h.len b
  | .irot h _ a b => okLen2 h.len && okA false a && okB false h.len b
  | .iand h _ a b => okLen2 h.len && okA false a && okB false h.len b
  | .ior h _ a b => okLen2 h.len && okA false a && okB false h.len b
  | .ixor h _ a b => okLen2 h.len && okA false a && okB false h.len b
  | .iandn h _ a b => okLen2 h.len && okA false a && okB false h.len b
  | .inot h _ a => h.len == .l64 && okA (false) a
  | .ipopc h _ a => h.len == .l64 && okA (false) a
  | .iclz h _ a => h.len == .l64 && okA (false) a
  | .ibrev h _ a => h.len == .l64 && okA (false) a
  | .ibfe h _ _ a b => okLen2 h.len && okA false a && okB false h.len b
  | .ibfi h _ a b c => okC3 h.len b c && okA false a && okB false .l96 b && okB false .l96 c
  | .idiv h _ _ a b => okLen2 h.len && okA false a && okB false h.len b
  | .irem h _ _ a b => okLen2 h.len && okA false a && okB false h.len b
  | .isel h _ _ _ a b => okLen2 h.len && okA false a && okB false h.len b
  | .icmp h _ _ a b => okLen2 h.len && okA false a && okB false h.len b
  | .ladd h bw d a b => okA true a && okW2 bw h.len b && even d
  | .lsub h bw d a b => okA true a && okW2 bw h.len b && even d
  | .lmul h bw d a b => okA true a && okW2 bw h.len b && even d
  | .lshl h d a b => okLen2 h.len && okA true a && okB false h.len b && even d
  | .lshr h _ d a b => okLen2 h.len && okA true a && okB false h.len b && even d
  | .aadd h _ _ d a b => okLen2 h.len && okA true a && okB false h.len b && even d
  | .alea h _ d a b c => okC3 h.len b c && okA true a && okB false .l96 b && okB false .l96 c && even d
  | .fadd h _ _ a b => okLen2 h.len && okA false a && okB false h.len b
  | .fsub h _ _ a b => okLen2 h.len && okA false a && okB false h.len b
  | .fmul h _ _ a b => okLen2 h.len && okA false a && okB false h.len b
  | .ffma h _ _ a b c => okC3 h.len b c && okA false a && okB false .l96 b && okB false .l96 c
  | .fdiv h _ _ a b => okLen2 h.len && okA false a && okB false h.len b
  | .fmin h _ a b => okLen2 h.len && okA false a && okB false h.len b
  | .fmax h _ a b => okLen2 h.len && okA false a && okB false h.len b
  | .fcmp h _ _ a b => okLen2 h.len && okA false a && okB false h.len b
  | .fsel h _ _ _ a b => okLen2 h.len && okA false a && okB false h.len b
  | .fclass h _ a => h.len == .l64 && okA (false) a
  | .fscale h _ _ a b => okLen2 h.len && okA false a && okB false h.len b
  | .frint h _ _ a => h.len == .l64 && okA (false) a
  | .ffrac h _ a => h.len == .l64 && okA (false) a
  | .frcp h _ a => h.len == .l64 && okA (false) a
  | .frsq h _ a => h.len == .l64 && okA (false) a
  | .fex2 h _ a => h.len == .l64 && okA (false) a
  | .flg2 h _ a => h.len == .l64 && okA (false) a
  | .hadd2 h _ _ _ a b => okLen2 h.len && okA false a && okB false h.len b
  | .hmul2 h _ _ _ a b => okLen2 h.len && okA false a && okB false h.len b
  | .hfma2 h _ _ _ a b c => okC3 h.len b c && okA false a && okB false .l96 b && okB false .l96 c
  | .cvt h m df sf d a b => okLen2 h.len && okA sf.wide a && okB false h.len b && (m == .rs || b == .d 0) && (!df.wide || even d)
  | .dxpack h _ _ a _ => h.len == .l64 && okA false a
  | .dxunpack h _ _ a b => okLen2 h.len && okA false a && okB false h.len b
  | .pack h _ _ a b => okLen2 h.len && okA false a && okB false h.len b
  | .unpack h _ d a => h.len == .l64 && okA (false) a && (!(true) || even d)
  | .mov h w d a => h.len == .l64 && okA (w) a && (!(w) || even d)
  | .movi h w d v => (!w || even d) && (match h.len with | .l128 => w | l => immFits l v)
  | .sread h d r => h.len == .l64 && (!r.wide || even d)
  | .swrite h r a => h.len == .l64 && okA false a && (r == .fstat || r == .fmode)
  | .bmix h _ a b c => okC3 h.len b c && okA false a && okB false .l96 b && okB false .l96 c
  | .pset h _ _ a b => okLen2 h.len && okA false a && okB false h.len b
  | .plop h op _ nb _ _ qb => h.len == .l64 && (op != .not || (qb == 0 && !nb))
  | .bra h off => okOff h.len off
  | .braU h off => okOff h.len off
  | .brx h n => h.len == .l64 && even n
  | .call h off => okOff h.len off
  | .callx h n => h.len == .l64 && even n
  | .ret h => h.len == .l64
  | .exit h => h.len == .l64
  | .nop h => h.len == .l64
  | .yield h => h.len == .l64
  | .cvset h m _ a b => okA false a && okBi h.len b && (m != .clear || (a == .d 0 && b == .d 0))
  | .cvsign h _ => h.len == .l64
  | .shfl h _ _ a b _ => okA false a && okBi h.len b
  | .voteAll h _ _ _ _ => h.len == .l64
  | .voteAny h _ _ _ _ => h.len == .l64
  | .voteBallot h _ _ _ b _ => okBi h.len b
  | .redux h op ty _ a _ => h.len == .l64 && okA false a && (ty != .f32 || !op.logic)
  | .scan h op ty _ _ a _ => h.len == .l64 && okA false a && (ty != .f32 || !op.logic)
  | .barArrive h _ cnt => okBi h.len (cntSrc cnt)
  | .barSync h _ cnt => okBi h.len (cntSrc cnt)
  | .barWait h _ => h.len == .l64
  | .qcfg h _ a b => okA false a && okBi h.len b
  | .qpush h _ _ _ b => okBi h.len b
  | .qpop h _ _ src d _ => h.len == .l64 && (!src || even d)
  | .ld h w m d n off => okOff h.len off && even n && okDst w.regs d && okMc false true false m
  | .st h w m n off s => okOff h.len off && even n && okDst w.regs s && okMc false false true m
  | .lds h w m d _ off => okOff h.len off && okDst w.regs d && okMc false true false m
  | .ldr h w m d _ off => okOff h.len off && okDst w.regs d && okMc false true false m
  | .sts h w m _ off s => okOff h.len off && okDst w.regs s && okMc false false true m
  | .str h w m _ off s => okOff h.len off && okDst w.regs s && okMc false false true m
  | .ldp h g k m off => okOff h.len off && m.toNat % 2 == 0 && g.toNat + k.toNat + 1 ≤ 64
  | .atom h op m d n _ b cmp => h.len == .l96 && even n && okMc true true true m && (!m.nsg || op.ordered) && (!m.w64 || (even d && even b && even cmp)) && (op == .cas || cmp == 0)
  | .red h op m n _ b => h.len == .l96 && even n && okMc true false true m && (!m.nsg || op.ordered) && (!m.w64 || even b) && op != .exch && op != .cas
  | .fence h _ sc => h.len == .l64 && sc != .thr
  | .cctlRange h n _ => h.len == .l64 && even n
  | .cctlAll h => h.len == .l64
  | .pref h n off => okOff h.len off && even n
  | .sld h v d n => h.len == .l64 && even n && even d && 1 ≤ v.toNat && v.toNat ≤ 8
  | .sst h _ n v tok => h.len == .l64 && even n && even v && even (tok.getD 0)
  | .sstT h _ n v tok => h.len == .l64 && even n && even v && even (tok.getD 0)
  | .recon h op ty d n => h.len == .l64 && even n && even d && !((op == .and || op == .or) && (ty == .f32 || ty == .f64))
  | .reconSet h _ n v t => h.len == .l64 && even n && even v && even t
  | .rowreg h d n => h.len == .l64 && even d && even n
  | .rowreq h d n => h.len == .l64 && even d && even n
  | .rowwait h d _ => h.len == .l64 && even d
  | .rowqry h d n => h.len == .l64 && d.toNat % 4 == 0 && even n
  | .rowcancel h _ _ => h.len == .l64
  | .cpy h f _ _ _ n q _ => h.len == .l96 && even n && quad q && copyFmt f
  | .cpyo h f _ _ n q w => h.len == .l96 && even n && quad q && even w && copyFmt f
  | .cpyhTo h f _ _ n q w => h.len == .l96 && even n && quad q && even w && copyFmt f
  | .cpyhFrom h f _ _ n q w => h.len == .l96 && even n && quad q && even w && copyFmt f
  | .cpyx h _ _ n q b => h.len == .l96 && even n && quad q && even b
  | .arvInit h _ _ b => okBi h.len b && !Src.isG b
  | .arvAdd h _ _ b => okBi h.len b && !Src.isG b
  | .arvWait h _ d _ => h.len == .l64 && even d
  | .arvTest h _ _ _ => h.len == .l64
  | .mma h f q _ _ => h.len == .l64 && quad q && mmaFmt f
  | .mmz h _ _ _ => h.len == .l64
  | .wbld h _ n q _ _ => h.len == .l96 && even n && quad q
  | .wbldSparse h _ n q _ _ => h.len == .l96 && even n && quad q
  | .wbrel h _ _ => h.len == .l64
  | .accld h f q _ _ => h.len == .l64 && quad q && (f == .f16 || f == .b16 || f == .f32)
  | .accst h f q _ _ => h.len == .l64 && quad q && (f == .f16 || f == .b16 || f == .f32 || f == .e4m3 || f == .e5m2)
  | .credSmx h _ _ _ _ _ => h.len == .l96
  | .credSum h _ _ _ _ _ => h.len == .l96
  | .credMax h _ _ _ _ _ => h.len == .l96
  | .gseg h _ n _ => h.len == .l64 && even n
  | .gvec h _ q _ => h.len == .l64 && quad q
  | .grun h _ _ => h.len == .l64
  | .gout h _ _ => h.len == .l64
  | .gwait h _ => h.len == .l64
  | .dictLoad h _ n => h.len == .l64 && even n
  | .dictRead h d b => okBi h.len b && quad d
  | .fenceF h => h.len == .l64
  | .launch h d n => h.len == .l64 && even d && even n
  | .cntWait h _ _ _ a => h.len == .l64 && okA false a
  | .cancel h _ _ a => h.len == .l64 && okA false a
  | .tapePush h _ n => h.len == .l64 && even n
  | .trap h _ => h.len == .l64
  | .assert h n _ => h.len == .l64 && even n
  | .resumeRetry h => h.len == .l64
  | .resumeSkip h => h.len == .l64
  | .kill h => h.len == .l64
  | .srd h _ b => okBi h.len b
  | .swr h b _ => okBi h.len b
  | .tlbinvAll h => h.len == .l64
  | .tlbinvPage h n => h.len == .l64 && even n
  | .gswap h _ _ => h.len == .l64
  | .short _ i _ _ _ => i != 0
  | .illegalOpcode r => !assigned r.op
  | _ => true

/-- Instructions that list %fstat (R51). -/
def listsFlags : Instr → Bool
  | .fadd _ _ _ _ _ => true
  | .fsub _ _ _ _ _ => true
  | .fmul _ _ _ _ _ => true
  | .ffma _ _ _ _ _ _ => true
  | .fdiv _ _ _ _ _ => true
  | .fmin _ _ _ _ => true
  | .fmax _ _ _ _ => true
  | .fcmp _ _ _ _ _ => true
  | .fscale _ _ _ _ _ => true
  | .frint _ _ _ _ => true
  | .ffrac _ _ _ => true
  | .frcp _ _ _ => true
  | .frsq _ _ _ => true
  | .fex2 _ _ _ => true
  | .flg2 _ _ _ => true
  | .hadd2 _ _ _ _ _ _ => true
  | .hmul2 _ _ _ _ _ _ => true
  | .hfma2 _ _ _ _ _ _ _ => true
  | .cvt _ _ _ _ _ _ _ => true
  | .dxpack _ _ _ _ _ => true
  | .dxunpack _ _ _ _ _ => true
  | .pack _ _ _ _ _ => true
  | .unpack _ _ _ _ => true
  | .recon _ _ _ _ _ => true
  | .redux _ _ ty _ _ _ => ty == .f32
  | .scan _ _ ty _ _ _ _ => ty == .f32
  | _ => false

/-- Instructions that may carry L (R58). -/
def mayLook : Instr → Bool
  | .frcp _ _ _ => true
  | .frsq _ _ _ => true
  | .fex2 _ _ _ => true
  | .flg2 _ _ _ => true
  | .shfl _ _ _ _ _ _ => true
  | .voteAll _ _ _ _ _ => true
  | .voteAny _ _ _ _ _ => true
  | .voteBallot _ _ _ _ _ _ => true
  | .redux _ _ _ _ _ _ => true
  | .scan _ _ _ _ _ _ _ => true
  | .ld _ _ _ _ _ _ => true
  | .lds _ _ _ _ _ _ => true
  | .ldr _ _ _ _ _ _ => true
  | .ldp _ _ _ _ _ => true
  | .atom _ _ _ _ _ _ _ _ => true
  | .sld _ _ _ _ => true
  | .sst _ _ _ _ _ => true
  | .sstT _ _ _ _ _ => true
  | .recon _ _ _ _ _ => true
  | .reconSet _ _ _ _ _ => true
  | .rowwait _ _ _ => true
  | .rowqry _ _ _ => true
  | .arvTest _ _ _ _ => true
  | _ => false

/-- The registers that stand in an instruction's fields, its guard apart (R59). -/
def fieldRegs : Instr → List RegName
  | .iadd _ d a b => [.d d.toNat] ++ srcRegs false a ++ srcRegs false b
  | .isub _ d a b => [.d d.toNat] ++ srcRegs false a ++ srcRegs false b
  | .imul _ d a b => [.d d.toNat] ++ srcRegs false a ++ srcRegs false b
  | .imulh _ _ d a b => [.d d.toNat] ++ srcRegs false a ++ srcRegs false b
  | .imad _ d a b c => dRegs false d ++ srcRegs false a ++ srcRegs false b ++ srcRegs false c
  | .imadw _ _ d a b c => dRegs true d ++ srcRegs false a ++ srcRegs false b ++ srcRegs true c
  | .ineg _ d a => dRegs (false) d ++ srcRegs (false) a
  | .iabs _ d a => dRegs (false) d ++ srcRegs (false) a
  | .imin _ _ d a b => [.d d.toNat] ++ srcRegs false a ++ srcRegs false b
  | .imax _ _ d a b => [.d d.toNat] ++ srcRegs false a ++ srcRegs false b
  | .ishl _ d a b => [.d d.toNat] ++ srcRegs false a ++ srcRegs false b
  | .ishr _ d a b => [.d d.toNat] ++ srcRegs false a ++ srcRegs false b
  | .ilsr _ d a b => [.d d.toNat] ++ srcRegs false a ++ srcRegs false b
  | .irot _ d a b => [.d d.toNat] ++ srcRegs false a ++ srcRegs false b
  | .iand _ d a b => [.d d.toNat] ++ srcRegs false a ++ srcRegs false b
  | .ior _ d a b => [.d d.toNat] ++ srcRegs false a ++ srcRegs false b
  | .ixor _ d a b => [.d d.toNat] ++ srcRegs false a ++ srcRegs false b
  | .iandn _ d a b => [.d d.toNat] ++ srcRegs false a ++ srcRegs false b
  | .inot _ d a => dRegs (false) d ++ srcRegs (false) a
  | .ipopc _ d a => dRegs (false) d ++ srcRegs (false) a
  | .iclz _ d a => dRegs (false) d ++ srcRegs (false) a
  | .ibrev _ d a => dRegs (false) d ++ srcRegs (false) a
  | .ibfe _ _ d a b => [.d d.toNat] ++ srcRegs false a ++ srcRegs false b
  | .ibfi _ d a b c => dRegs false d ++ srcRegs false a ++ srcRegs false b ++ srcRegs false c
  | .idiv _ _ d a b => [.d d.toNat] ++ srcRegs false a ++ srcRegs false b
  | .irem _ _ d a b => [.d d.toNat] ++ srcRegs false a ++ srcRegs false b
  | .isel _ _ pq d a b => [.q pq.toNat] ++ [.d d.toNat] ++ srcRegs false a ++ srcRegs false b
  | .icmp _ _ q a b => [.q q.toNat] ++ srcRegs false a ++ srcRegs false b
  | .ladd _ bw d a b => pair d ++ srcRegs true a ++ srcRegs (bw == .full) b
  | .lsub _ bw d a b => pair d ++ srcRegs true a ++ srcRegs (bw == .full) b
  | .lmul _ bw d a b => pair d ++ srcRegs true a ++ srcRegs (bw == .full) b
  | .lshl _ d a b => pair d ++ srcRegs true a ++ srcRegs false b
  | .lshr _ _ d a b => pair d ++ srcRegs true a ++ srcRegs false b
  | .aadd _ _ _ d a b => pair d ++ srcRegs true a ++ srcRegs false b
  | .alea _ _ d a b c => dRegs true d ++ srcRegs true a ++ srcRegs false b ++ srcRegs false c
  | .fadd _ _ d a b => [.d d.toNat] ++ srcRegs false a ++ srcRegs false b
  | .fsub _ _ d a b => [.d d.toNat] ++ srcRegs false a ++ srcRegs false b
  | .fmul _ _ d a b => [.d d.toNat] ++ srcRegs false a ++ srcRegs false b
  | .ffma _ _ d a b c => dRegs false d ++ srcRegs false a ++ srcRegs false b ++ srcRegs false c
  | .fdiv _ _ d a b => [.d d.toNat] ++ srcRegs false a ++ srcRegs false b
  | .fmin _ d a b => [.d d.toNat] ++ srcRegs false a ++ srcRegs false b
  | .fmax _ d a b => [.d d.toNat] ++ srcRegs false a ++ srcRegs false b
  | .fcmp _ _ q a b => [.q q.toNat] ++ srcRegs false a ++ srcRegs false b
  | .fsel _ _ pq d a b => [.q pq.toNat] ++ [.d d.toNat] ++ srcRegs false a ++ srcRegs false b
  | .fclass _ d a => dRegs (false) d ++ srcRegs (false) a
  | .fscale _ _ d a b => [.d d.toNat] ++ srcRegs false a ++ srcRegs false b
  | .frint _ _ d a => dRegs (false) d ++ srcRegs (false) a
  | .ffrac _ d a => dRegs (false) d ++ srcRegs (false) a
  | .frcp _ d a => dRegs (false) d ++ srcRegs (false) a
  | .frsq _ d a => dRegs (false) d ++ srcRegs (false) a
  | .fex2 _ d a => dRegs (false) d ++ srcRegs (false) a
  | .flg2 _ d a => dRegs (false) d ++ srcRegs (false) a
  | .hadd2 _ _ _ d a b => [.d d.toNat] ++ srcRegs false a ++ srcRegs false b
  | .hmul2 _ _ _ d a b => [.d d.toNat] ++ srcRegs false a ++ srcRegs false b
  | .hfma2 _ _ _ d a b c => dRegs false d ++ srcRegs false a ++ srcRegs false b ++ srcRegs false c
  | .cvt _ m df sf d a b => dRegs df.wide d ++ srcRegs sf.wide a ++ (if m == .rs then srcRegs false b else [])
  | .dxpack _ _ d a _ => [.d d.toNat] ++ srcRegs false a
  | .dxunpack _ _ d a b => [.d d.toNat] ++ srcRegs false a ++ srcRegs false b
  | .pack _ _ d a b => [.d d.toNat] ++ srcRegs false a ++ srcRegs false b
  | .unpack _ _ d a => dRegs (true) d ++ srcRegs (false) a
  | .mov _ w d a => dRegs (w) d ++ srcRegs (w) a
  | .movi _ w d _ => dRegs w d
  | .sread _ d r => dRegs r.wide d ++ (if r == .fstat then [.fstat] else [])
  | .swrite _ r a => srcRegs false a ++ (if r == .fstat then [.fstat] else [])
  | .bmix _ d a b c => dRegs false d ++ srcRegs false a ++ srcRegs false b ++ srcRegs false c
  | .pset _ _ q a b => [.q q.toNat] ++ srcRegs false a ++ srcRegs false b
  | .plop _ op _ _ q qa qb => [.q q.toNat, .q qa.toNat] ++ (if op == .not then [] else [.q qb.toNat])
  | .brx _ n => pair n
  | .callx _ n => pair n
  | .cvset _ m _ a b => if m == .clear then [] else srcRegs false a ++ srcRegs false b
  | .shfl _ _ d a b _ => [.d d.toNat] ++ srcRegs false a ++ srcRegs false b
  | .voteAll _ _ q p _ => [.q q.toNat, .q p.toNat]
  | .voteAny _ _ q p _ => [.q q.toNat, .q p.toNat]
  | .voteBallot _ _ d p b _ => [.d d.toNat, .q p.toNat] ++ srcRegs false b
  | .redux _ _ _ d a _ => [.d d.toNat] ++ srcRegs false a
  | .scan _ _ _ _ d a _ => [.d d.toNat] ++ srcRegs false a
  | .barArrive _ _ cnt => optRegs cnt
  | .barSync _ _ cnt => optRegs cnt
  | .qcfg _ _ a b => srcRegs false a ++ srcRegs false b
  | .qpush _ tr p _ b => srcRegs false b ++ tryRegs tr p
  | .qpop _ tr p src d _ => dRegs src d ++ tryRegs tr p
  | .ld _ w _ d n _ => blk d w.regs ++ pair n
  | .st _ w _ n _ s => blk s w.regs ++ pair n
  | .lds _ w _ d n _ => blk d w.regs ++ [.d n.toNat]
  | .ldr _ w _ d n _ => blk d w.regs ++ [.d n.toNat]
  | .sts _ w _ n _ s => blk s w.regs ++ [.d n.toNat]
  | .str _ w _ n _ s => blk s w.regs ++ [.d n.toNat]
  | .ldp _ g k m _ => gBlk g.toNat (k.toNat + 1) ++ gBlk m.toNat 2
  | .atom _ op m d n _ b cmp => dRegs m.w64 d ++ dRegs m.w64 b ++ pair n ++ (if op == .cas then dRegs m.w64 cmp else [])
  | .red _ _ m n _ b => dRegs m.w64 b ++ pair n
  | .cctlRange _ n l => pair n ++ [.d l.toNat]
  | .pref _ n _ => pair n
  | .sld _ v d n => blk d (2 * v.toNat + 3) ++ pair n
  | .sst _ s n v tok => [.d s.toNat] ++ pair n ++ pair v ++ (match tok with | some t => pair t | none => [])
  | .sstT _ s n v tok => [.d s.toNat] ++ pair n ++ pair v ++ (match tok with | some t => pair t | none => [])
  | .recon _ _ _ d n => blk d 5 ++ pair n
  | .reconSet _ s n v t => [.d s.toNat] ++ pair n ++ pair v ++ pair t
  | .rowreg _ d n => pair d ++ pair n
  | .rowreq _ d n => pair d ++ pair n
  | .rowwait _ d a => pair d ++ [.d a.toNat]
  | .rowqry _ d n => blk d 4 ++ pair n
  | .rowcancel _ d a => [.d d.toNat, .d a.toNat]
  | .cpy _ _ _ _ d n q b => [.d d.toNat, .d b.toNat] ++ pair n ++ blk q 4
  | .cpyo _ _ _ s n q w => [.d s.toNat] ++ pair n ++ blk q 4 ++ pair w
  | .cpyhTo _ _ _ s n q w => [.d s.toNat] ++ pair n ++ blk q 4 ++ pair w
  | .cpyhFrom _ _ _ d n q w => [.d d.toNat] ++ pair n ++ blk q 4 ++ pair w
  | .cpyx _ _ d n q b => [.d d.toNat] ++ pair n ++ blk q 4 ++ pair b
  | .arvInit _ _ a b => [.d a.toNat] ++ srcRegs false b
  | .arvAdd _ _ a b => [.d a.toNat] ++ srcRegs false b
  | .arvWait _ _ d a => pair d ++ [.d a.toNat]
  | .arvTest _ _ q a => [.q q.toNat, .d a.toNat]
  | .mma _ _ q b _ => blk q 4 ++ [.d b.toNat]
  | .mmz _ a b _ => [.d a.toNat, .d b.toNat]
  | .wbld _ s n q b _ => [.d s.toNat, .d b.toNat] ++ pair n ++ blk q 4
  | .wbldSparse _ s n q b _ => [.d s.toNat, .d b.toNat] ++ pair n ++ blk q 4
  | .wbrel _ b _ => [.d b.toNat]
  | .accld _ _ q b _ => blk q 4 ++ [.d b.toNat]
  | .accst _ _ q b _ => blk q 4 ++ [.d b.toNat]
  | .credSmx _ d s b k _ => [.d d.toNat, .d s.toNat, .d b.toNat, .d k.toNat]
  | .credSum _ d s b k _ => [.d d.toNat, .d s.toNat, .d b.toNat, .d k.toNat]
  | .credMax _ d s b k _ => [.d d.toNat, .d s.toNat, .d b.toNat, .d k.toNat]
  | .gseg _ d n _ => [.d d.toNat] ++ pair n
  | .gvec _ d q _ => [.d d.toNat] ++ blk q 4
  | .grun _ d _ => [.d d.toNat]
  | .gout _ d _ => [.d d.toNat]
  | .gwait _ d => [.d d.toNat]
  | .dictLoad _ d n => [.d d.toNat] ++ pair n
  | .dictRead _ d b => blk d 4 ++ srcRegs false b
  | .launch _ d n => pair d ++ pair n
  | .cntWait _ _ _ d a => [.d d.toNat] ++ srcRegs false a
  | .cancel _ _ d a => [.d d.toNat] ++ srcRegs false a
  | .tapePush _ d n => [.d d.toNat] ++ pair n
  | .assert _ n _ => pair n
  | .srd _ d b => [.d d.toNat] ++ srcRegs false b
  | .swr _ b a => [.d a.toNat] ++ srcRegs false b
  | .tlbinvPage _ n => pair n
  | .gswap _ d _ => [.d d.toNat]
  | _ => []

/-- The destination set W of an instruction that may carry L (R59). -/
def destSet : Instr → List RegName
  | .frcp h d _ => [.d d.toNat] ++ flagReg h
  | .frsq h d _ => [.d d.toNat] ++ flagReg h
  | .fex2 h d _ => [.d d.toNat] ++ flagReg h
  | .flg2 h d _ => [.d d.toNat] ++ flagReg h
  | .shfl _ _ d _ _ _ => [.d d.toNat]
  | .voteAll _ _ q _ _ => qSet q
  | .voteAny _ _ q _ _ => qSet q
  | .voteBallot _ _ d _ _ _ => [.d d.toNat]
  | .redux h _ ty d _ _ => [.d d.toNat] ++ (if ty == .f32 then flagReg h else [])
  | .scan h _ ty _ d _ _ => [.d d.toNat] ++ (if ty == .f32 then flagReg h else [])
  | .ld _ w _ d _ _ => blk d w.regs
  | .lds _ w _ d _ _ => blk d w.regs
  | .ldr _ w _ d _ _ => blk d w.regs
  | .ldp _ g k _ _ => gBlk g.toNat (k.toNat + 1)
  | .atom _ _ m d _ _ _ _ => dRegs m.w64 d
  | .sld _ v d _ => blk d (2 * v.toNat + 3)
  | .sst _ s _ _ _ => [.d s.toNat]
  | .sstT _ s _ _ _ => [.d s.toNat]
  | .recon h _ _ d _ => blk d 5 ++ flagReg h
  | .reconSet _ s _ _ _ => [.d s.toNat]
  | .rowwait _ d _ => pair d
  | .rowqry _ d _ => blk d 4
  | .arvTest _ _ q _ => qSet q
  | _ => []

/-- Every register that an instruction names, its guard first (R59). -/
def namesOf (i : Instr) : List RegName := .q (hdrOf i).guard.toNat :: fieldRegs i

/-- The checks of ILLEGAL_VARIANT that the encoding alone decides (R51 to R58). -/
def legal (i : Instr) : Bool :=
  match i with
  | .illegalOpcode r => !assigned r.op && r.hi == r.hdr.len.clip r.hi
  | i => fieldsOk i && (!(hdrOf i).nf || listsFlags i) && ((hdrOf i).look == 0 || mayLook i)

/-- Every d register named exists under `.regs n` (R54, R139). -/
def regsExist (n : Nat) (i : Instr) : Bool :=
  (fieldRegs i).all fun r => match r with | .d k => k < n | _ => true

/-- The units of FEAT2 by opcode range (R42): the bit that governs it. -/
def unitOf (op : Nat) : Option Nat :=
  if 0xA0 ≤ op ∧ op ≤ 0xA7 then some 4 else if 0xA8 ≤ op ∧ op ≤ 0xAF then some 3
  else if 0xB0 ≤ op ∧ op ≤ 0xB7 then some 5 else if 0xB8 ≤ op ∧ op ≤ 0xBF then some 0
  else if 0xC0 ≤ op ∧ op ≤ 0xC7 then some 1 else if 0xC8 ≤ op ∧ op ≤ 0xCB then some 2
  else if 0xCC ≤ op ∧ op ≤ 0xCF then some 6 else none

/-- The major opcode of a thread instruction. -/
def opcodeOf (i : Instr) : Nat := match toRaw i with | some r => r.op.toNat | none => 0x66

end Machine
end Sys2Proof
end

