-- ==== Sys2Proof/WellFormed.lean ====
section
/-! DEFINITION. Well-formed instructions: those that some encoding of R46 to R58 stands for. -/

namespace Sys2Proof

/-- The lengths, kinds, register numbers and modifier bits that the entries allow (R51 to R58); the kernel's `.regs` count
(R54) is checked at execution. Steps of the device have no encoding and no constraint. -/
def Instr.wf (i : Instr) : Bool := Machine.legal i

end Sys2Proof
end

