-- ==== Sys2Proof/Decode.lean ====
section
/-! DEFINITION. Decoding of the bits at a program counter (R46 to R65, R74, R75), total and rejecting by name, and the
encoder. -/

namespace Sys2Proof

/-- Why bits at a program counter are no instruction: no entry lists the encoding (R53). The fields are kept, since the
guard and the unit are checked before ILLEGAL_VARIANT (R77). -/
inductive DecodeError where
  | illegalVariant (r : Raw)
  deriving DecidableEq, Repr

open Machine

/-! ## The base format (R50) -/

def Len.code : Len → BitVec 2
  | .l64 => 1 | .l96 => 2 | .l128 => 3

/-- The 128 bits of a full-length instruction, zero beyond its length. -/
def Raw.toBits (r : Raw) : BitVec 128 :=
  r.hi ++ r.mod ++ r.srcb ++ r.srca ++ r.dst ++ r.var ++ r.op ++ bv r.hdr.neg ++ r.hdr.guard ++ r.hdr.look ++
    bv r.hdr.nf ++ bv r.hdr.bnd ++ r.hdr.len.code

/-- The fields of a full-length instruction; what lies beyond its length is not read. -/
def Raw.ofBits (l : Len) (w : BitVec 128) : Raw where
  hdr := ⟨w.extractLsb' 8 3, w.getLsbD 11, w.extractLsb' 4 4, w.getLsbD 3, w.getLsbD 2, l⟩
  op := w.extractLsb' 12 8
  var := w.extractLsb' 20 4
  dst := w.extractLsb' 24 8
  srca := w.extractLsb' 32 8
  srcb := w.extractLsb' 40 8
  mod := w.extractLsb' 48 16
  hi := l.clip (w.extractLsb' 64 64)

/-- LEN of R46: none for a short. -/
def lenOf (w : BitVec 128) : Option Len :=
  match (w.extractLsb' 0 2).toNat with
  | 0 => none | 1 => some .l64 | 2 => some .l96 | _ => some .l128

/-! ## Operands read back (R55 to R57) -/

def srcOf (kind : BitVec 2) (field : BitVec 8) (imm : BitVec 64) : Option Src :=
  match kind.toNat with
  | 0 => some (.d field)
  | 1 => some (.g (field.extractLsb' 0 6))
  | 2 => none
  | _ => some (.imm imm)

/-- The immediate of a last source without source C (R56). -/
def immB (r : Raw) : BitVec 64 :=
  match r.hdr.len with
  | .l64 => r.srcb.signExtend 64
  | .l96 => (r.hi.extractLsb' 0 32).signExtend 64
  | .l128 => r.hi
/-- The immediate with source C (R56). -/
def immC (r : Raw) : BitVec 64 := (r.hi.extractLsb' 32 32).signExtend 64

def srcA (r : Raw) : Option Src := srcOf (r.mod.extractLsb' 14 2) r.srca 0
def srcB (r : Raw) : Option Src := srcOf (r.mod.extractLsb' 12 2) r.srcb (immB r)
def srcB3 (r : Raw) : Option Src := srcOf (r.mod.extractLsb' 12 2) r.srcb (immC r)
def srcC (r : Raw) : Option Src := srcOf (r.hi.extractLsb' 8 2) (r.hi.extractLsb' 0 8) (immC r)
def q3 (f : BitVec 8) : QReg := f.extractLsb' 0 3
/-- A word or byte offset (R163, R180). -/
def offOf (r : Raw) : Word := if r.hdr.len = .l64 then r.mod.signExtend 32 else r.hi.extractLsb' 0 32

/-- The instruction that a VARIANT of an opcode and the fields name; none for a code or a kind that no entry lists. -/
def pick (r : Raw) : Option Instr :=
  match r.op.toNat with
  | 0x00 => do let a ← srcA r; let b ← srcB r; some (.iadd r.hdr r.dst a b)
  | 0x01 => do let a ← srcA r; let b ← srcB r; some (.isub r.hdr r.dst a b)
  | 0x02 => do let a ← srcA r; let b ← srcB r; some (.imul r.hdr r.dst a b)
  | 0x03 => do let a ← srcA r; let b ← srcB r; some (.imulh r.hdr (r.var == 1) r.dst a b)
  | 0x04 => do let a ← srcA r; let b ← srcB3 r; let c ← srcC r; some (.imad r.hdr r.dst a b c)
  | 0x05 => do let a ← srcA r; let b ← srcB3 r; let c ← srcC r; some (.imadw r.hdr (r.mod.getLsbD 0) r.dst a b c)
  | 0x06 => do let a ← srcA r; some (.ineg r.hdr r.dst a)
  | 0x07 => do let a ← srcA r; some (.iabs r.hdr r.dst a)
  | 0x08 => do let a ← srcA r; let b ← srcB r; some (.imin r.hdr (r.var == 1) r.dst a b)
  | 0x09 => do let a ← srcA r; let b ← srcB r; some (.imax r.hdr (r.var == 1) r.dst a b)
  | 0x0A =>
    match r.var.toNat with
    | 0 => do let a ← srcA r; let b ← srcB r; some (.ishl r.hdr r.dst a b)
    | 1 => do let a ← srcA r; let b ← srcB r; some (.ishr r.hdr r.dst a b)
    | 2 => do let a ← srcA r; let b ← srcB r; some (.ilsr r.hdr r.dst a b)
    | 3 => do let a ← srcA r; let b ← srcB r; some (.irot r.hdr r.dst a b)
    | _ => none
  | 0x0B =>
    match r.var.toNat with
    | 0 => do let a ← srcA r; let b ← srcB r; some (.iand r.hdr r.dst a b)
    | 1 => do let a ← srcA r; let b ← srcB r; some (.ior r.hdr r.dst a b)
    | 2 => do let a ← srcA r; let b ← srcB r; some (.ixor r.hdr r.dst a b)
    | 3 => do let a ← srcA r; let b ← srcB r; some (.iandn r.hdr r.dst a b)
    | 4 => do let a ← srcA r; some (.inot r.hdr r.dst a)
    | _ => none
  | 0x0C => do let a ← srcA r; some (.ipopc r.hdr r.dst a)
  | 0x0D => do let a ← srcA r; some (.iclz r.hdr r.dst a)
  | 0x0E => do let a ← srcA r; some (.ibrev r.hdr r.dst a)
  | 0x0F => do let a ← srcA r; let b ← srcB r; some (.ibfe r.hdr (r.mod.getLsbD 0) r.dst a b)
  | 0x10 => do let a ← srcA r; let b ← srcB3 r; let c ← srcC r; some (.ibfi r.hdr r.dst a b c)
  | 0x11 => do let a ← srcA r; let b ← srcB r; some (.idiv r.hdr (r.var == 1) r.dst a b)
  | 0x12 => do let a ← srcA r; let b ← srcB r; some (.irem r.hdr (r.var == 1) r.dst a b)
  | 0x13 => do let a ← srcA r; let b ← srcB r; some (.isel r.hdr (r.mod.getLsbD 4) (r.mod.extractLsb' 0 3) r.dst a b)
  | 0x14 => do let a ← srcA r; let b ← srcB r; let cc ← ICc.ofCode r.var; some (.icmp r.hdr cc (q3 r.dst) a b)
  | 0x15 => do let a ← srcA r; let b ← srcB r; let bw ← Bw.ofCode (r.mod.extractLsb' 0 2); some (.ladd r.hdr bw r.dst a b)
  | 0x16 => do let a ← srcA r; let b ← srcB r; let bw ← Bw.ofCode (r.mod.extractLsb' 0 2); some (.lsub r.hdr bw r.dst a b)
  | 0x17 => do let a ← srcA r; let b ← srcB r; let bw ← Bw.ofCode (r.mod.extractLsb' 0 2); some (.lmul r.hdr bw r.dst a b)
  | 0x18 => do let a ← srcA r; let b ← srcB r; some (.lshl r.hdr r.dst a b)
  | 0x19 => do let a ← srcA r; let b ← srcB r; some (.lshr r.hdr (r.var == 1) r.dst a b)
  | 0x1A => do let a ← srcA r; let b ← srcB r; some (.aadd r.hdr (r.mod.getLsbD 4) (r.mod.extractLsb' 0 4) r.dst a b)
  | 0x1B => do let a ← srcA r; let b ← srcB3 r; let c ← srcC r; some (.alea r.hdr (r.mod.getLsbD 4) r.dst a b c)
  | 0x20 => do let a ← srcA r; let b ← srcB r; let rm ← Rm.ofCode r.var; some (.fadd r.hdr rm r.dst a b)
  | 0x21 => do let a ← srcA r; let b ← srcB r; let rm ← Rm.ofCode r.var; some (.fsub r.hdr rm r.dst a b)
  | 0x22 => do let a ← srcA r; let b ← srcB r; let rm ← Rm.ofCode r.var; some (.fmul r.hdr rm r.dst a b)
  | 0x23 => do let a ← srcA r; let b ← srcB3 r; let c ← srcC r; let rm ← Rm.ofCode r.var; some (.ffma r.hdr rm r.dst a b c)
  | 0x24 => do let a ← srcA r; let b ← srcB r; some (.fmin r.hdr r.dst a b)
  | 0x25 => do let a ← srcA r; let b ← srcB r; some (.fmax r.hdr r.dst a b)
  | 0x26 => do let a ← srcA r; let b ← srcB r; let cc ← FCc.ofCode r.var; some (.fcmp r.hdr cc (q3 r.dst) a b)
  | 0x27 => do let a ← srcA r; let b ← srcB r; some (.fsel r.hdr (r.mod.getLsbD 4) (r.mod.extractLsb' 0 3) r.dst a b)
  | 0x28 => do let a ← srcA r; some (.fclass r.hdr r.dst a)
  | 0x29 => do let a ← srcA r; let b ← srcB r; let rm ← Rm.ofCode r.var; some (.fscale r.hdr rm r.dst a b)
  | 0x2A => do let a ← srcA r; let rm ← Rm.ofCode r.var; some (.frint r.hdr rm r.dst a)
  | 0x2B => do let a ← srcA r; some (.ffrac r.hdr r.dst a)
  | 0x2C => do let a ← srcA r; some (.frcp r.hdr r.dst a)
  | 0x2D => do let a ← srcA r; some (.frsq r.hdr r.dst a)
  | 0x2E => do let a ← srcA r; some (.fex2 r.hdr r.dst a)
  | 0x2F => do let a ← srcA r; some (.flg2 r.hdr r.dst a)
  | 0x30 => do let a ← srcA r; let b ← srcB r; let rm ← Rm.ofCode r.var; some (.fdiv r.hdr rm r.dst a b)
  | 0x31 => do let a ← srcA r; let b ← srcB r; let rm ← Rm.ofCode r.var; some (.hadd2 r.hdr rm (r.mod.getLsbD 0) r.dst a b)
  | 0x32 => do let a ← srcA r; let b ← srcB r; let rm ← Rm.ofCode r.var; some (.hmul2 r.hdr rm (r.mod.getLsbD 0) r.dst a b)
  | 0x33 => do let a ← srcA r; let b ← srcB3 r; let c ← srcC r; let rm ← Rm.ofCode r.var; some (.hfma2 r.hdr rm (r.mod.getLsbD 0) r.dst a b c)
  | 0x40 => do let a ← srcA r; let b ← srcB r; let m ← CvtMode.ofCode r.var; let df ← CvtFmt.ofCode (r.mod.extractLsb' 8 4); let sf ← CvtFmt.ofCode (r.mod.extractLsb' 4 4); some (.cvt r.hdr m df sf r.dst a b)
  | 0x41 => do let a ← srcA r; some (.dxpack r.hdr (r.var == 1) r.dst a (r.srcb.extractLsb' 0 4))
  | 0x42 => do let a ← srcA r; let b ← srcB r; some (.dxunpack r.hdr (r.var == 1) r.dst a b)
  | 0x43 => do let a ← srcA r; let b ← srcB r; let f ← PackFmt.ofCode (r.mod.extractLsb' 0 4); some (.pack r.hdr f r.dst a b)
  | 0x44 => do let a ← srcA r; let f ← PackFmt.ofCode (r.mod.extractLsb' 0 4); some (.unpack r.hdr f r.dst a)
  | 0x48 => do let a ← srcA r; some (.mov r.hdr (r.mod.getLsbD 0) r.dst a)
  | 0x49 => some (.movi r.hdr (r.mod.getLsbD 0) r.dst (immB r))
  | 0x4A => do let x ← SReg.ofCode (r.mod.extractLsb' 0 8); some (.sread r.hdr r.dst x)
  | 0x4B => do let a ← srcA r; let x ← SReg.ofCode (r.mod.extractLsb' 0 8); some (.swrite r.hdr x a)
  | 0x4C => do let a ← srcA r; let b ← srcB3 r; let c ← srcC r; some (.bmix r.hdr r.dst a b c)
  | 0x4D => do let a ← srcA r; let b ← srcB r; some (.pset r.hdr (r.mod.getLsbD 0) (q3 r.dst) a b)
  | 0x4E => do let op ← POp.ofCode r.var; some (.plop r.hdr op (r.mod.getLsbD 1) (r.mod.getLsbD 0) (q3 r.dst) (q3 r.srca) (q3 r.srcb))
  | 0x60 =>
    match r.var.toNat with
    | 0 => some (.bra r.hdr (offOf r))
    | 1 => some (.braU r.hdr (offOf r))
    | _ => none
  | 0x61 => some (.brx r.hdr r.srca)
  | 0x62 => some (.call r.hdr (offOf r))
  | 0x63 => some (.callx r.hdr r.srca)
  | 0x64 => some (.ret r.hdr)
  | 0x65 => some (.exit r.hdr)
  | 0x66 => some (.nop r.hdr)
  | 0x67 => some (.yield r.hdr)
  | 0x70 => do let m ← CvMode.ofCode (r.mod.extractLsb' 0 4); let a ← srcA r; let b ← srcB r; some (.cvset r.hdr m (r.dst.extractLsb' 0 4) a b)
  | 0x71 => some (.cvsign r.hdr (r.mod.extractLsb' 0 4))
  | 0x72 => do let op ← ShflOp.ofCode r.var; let a ← srcA r; let b ← srcB r; some (.shfl r.hdr op r.dst a b (r.mod.extractLsb' 0 4))
  | 0x73 =>
    match r.var.toNat with
    | 0 => some (.voteAll r.hdr (r.mod.getLsbD 4) (q3 r.dst) (q3 r.srca) (r.mod.extractLsb' 0 4))
    | 1 => some (.voteAny r.hdr (r.mod.getLsbD 4) (q3 r.dst) (q3 r.srca) (r.mod.extractLsb' 0 4))
    | 2 => do let b ← srcB r; some (.voteBallot r.hdr (r.mod.getLsbD 4) r.dst (q3 r.srca) b (r.mod.extractLsb' 0 4))
    | _ => none
  | 0x74 => do let op ← FoldOp.ofCode r.var; let ty ← FoldTy.ofCode (r.mod.extractLsb' 6 2); let a ← srcA r; some (.redux r.hdr op ty r.dst a (r.mod.extractLsb' 0 4))
  | 0x75 => do let op ← FoldOp.ofCode r.var; let ty ← FoldTy.ofCode (r.mod.extractLsb' 6 2); let a ← srcA r; some (.scan r.hdr op ty (r.mod.getLsbD 8) r.dst a (r.mod.extractLsb' 0 4))
  | 0x76 =>
    match r.var.toNat with
    | 0 => do let b ← srcB r; some (.barArrive r.hdr (r.dst.extractLsb' 0 4) (if (r.mod.getLsbD 4) then some b else none))
    | 2 => do let b ← srcB r; some (.barSync r.hdr (r.dst.extractLsb' 0 4) (if (r.mod.getLsbD 4) then some b else none))
    | 1 => some (.barWait r.hdr (r.dst.extractLsb' 0 4))
    | _ => none
  | 0x77 => do let a ← srcA r; let b ← srcB r; some (.qcfg r.hdr (r.dst.extractLsb' 0 3) a b)
  | 0x78 => do let b ← srcB r; some (.qpush r.hdr (r.mod.getLsbD 4) (r.mod.extractLsb' 0 3) (r.dst.extractLsb' 0 3) b)
  | 0x79 => some (.qpop r.hdr (r.mod.getLsbD 4) (r.mod.extractLsb' 0 3) (r.mod.getLsbD 5) r.dst (r.srca.extractLsb' 0 3))
  | 0x80 => do let w ← LdW.ofCode r.var; let m ← Mc.ofCode r.srcb; some (.ld r.hdr w m r.dst r.srca (offOf r))
  | 0x81 => do let w ← StW.ofCode r.var; let m ← Mc.ofCode r.dst; some (.st r.hdr w m r.srca (offOf r) r.srcb)
  | 0x82 => do let w ← LdW.ofCode r.var; let m ← Mc.ofCode r.srcb; some (.lds r.hdr w m r.dst r.srca (offOf r))
  | 0x83 => do let w ← StW.ofCode r.var; let m ← Mc.ofCode r.dst; some (.sts r.hdr w m r.srca (offOf r) r.srcb)
  | 0x84 => do let w ← LdW.ofCode r.var; let m ← Mc.ofCode r.srcb; some (.ldr r.hdr w m r.dst r.srca (offOf r))
  | 0x85 => do let w ← StW.ofCode r.var; let m ← Mc.ofCode r.dst; some (.str r.hdr w m r.srca (offOf r) r.srcb)
  | 0x86 => some (.ldp r.hdr (r.dst.extractLsb' 0 6) (r.srcb.extractLsb' 0 4) (r.srca.extractLsb' 0 6) (offOf r))
  | 0x87 => do let op ← AtomOp.ofCode r.var; let m ← Mc.ofCode (r.mod.extractLsb' 8 8); some (.atom r.hdr op m r.dst r.srca (r.hi.extractLsb' 0 32) r.srcb (r.mod.extractLsb' 0 8))
  | 0x88 => do let op ← AtomOp.ofCode r.var; let m ← Mc.ofCode (r.mod.extractLsb' 8 8); some (.red r.hdr op m r.srca (r.hi.extractLsb' 0 32) r.srcb)
  | 0x89 => do let k ← FenceKind.ofCode r.var; let m ← Mc.ofCode r.dst; some (.fence r.hdr k m.scope)
  | 0x8A =>
    match r.var.toNat with
    | 0 => some (.cctlRange r.hdr r.srca r.srcb)
    | 1 => some (.cctlAll r.hdr)
    | _ => none
  | 0x8B => some (.pref r.hdr r.srca (offOf r))
  | 0xA0 => some (.sld r.hdr (r.mod.extractLsb' 0 4) r.dst r.srca)
  | 0xA1 =>
    match r.var.toNat with
    | 0 => some (.sst r.hdr r.dst r.srca r.srcb (if (r.mod.getLsbD 8) then some (r.mod.extractLsb' 0 8) else none))
    | 1 => some (.sstT r.hdr r.dst r.srca r.srcb (if (r.mod.getLsbD 8) then some (r.mod.extractLsb' 0 8) else none))
    | _ => none
  | 0xA2 => do let op ← ReconOp.ofCode r.var; some (.recon r.hdr op (ReconTy.ofCode (r.mod.extractLsb' 0 2)) r.dst r.srca)
  | 0xA3 => some (.reconSet r.hdr r.dst r.srca r.srcb (r.mod.extractLsb' 0 8))
  | 0xA8 => some (.rowreg r.hdr r.dst r.srca)
  | 0xA9 => some (.rowreq r.hdr r.dst r.srca)
  | 0xAA => some (.rowwait r.hdr r.dst r.srca)
  | 0xAB => some (.rowqry r.hdr r.dst r.srca)
  | 0xAC => some (.rowcancel r.hdr r.dst r.srca)
  | 0xB0 => do let f ← fmtOf (r.mod.extractLsb' 8 4); some (.cpy r.hdr f (r.mod.getLsbD 4) (r.mod.extractLsb' 0 4) r.dst r.srca r.srcb (r.hi.extractLsb' 0 8))
  | 0xB1 => do let f ← fmtOf (r.mod.extractLsb' 8 4); some (.cpyo r.hdr f (r.mod.getLsbD 4) r.dst r.srca r.srcb (r.hi.extractLsb' 0 8))
  | 0xB2 =>
    match r.var.toNat with
    | 0 => do let f ← fmtOf (r.mod.extractLsb' 8 4); some (.cpyhTo r.hdr f (r.mod.getLsbD 4) r.dst r.srca r.srcb (r.hi.extractLsb' 0 8))
    | 1 => do let f ← fmtOf (r.mod.extractLsb' 8 4); some (.cpyhFrom r.hdr f (r.mod.getLsbD 4) r.dst r.srca r.srcb (r.hi.extractLsb' 0 8))
    | _ => none
  | 0xB3 => some (.cpyx r.hdr (r.mod.extractLsb' 0 4) r.dst r.srca r.srcb (r.hi.extractLsb' 0 8))
  | 0xB4 =>
    match r.var.toNat with
    | 0 => do let b ← srcB r; some (.arvInit r.hdr (r.mod.getLsbD 5) r.srca b)
    | 3 => do let b ← srcB r; some (.arvAdd r.hdr (r.mod.getLsbD 5) r.srca b)
    | 1 => some (.arvWait r.hdr (r.mod.getLsbD 5) r.dst r.srca)
    | 2 => some (.arvTest r.hdr (r.mod.getLsbD 5) (q3 r.dst) r.srca)
    | _ => none
  | 0xB8 => do let f ← LFmt.ofCode (r.mod.extractLsb' 8 4); some (.mma r.hdr f r.srca r.srcb (r.mod.extractLsb' 0 4))
  | 0xB9 => some (.mmz r.hdr r.srca r.srcb (r.mod.extractLsb' 0 4))
  | 0xBA =>
    match r.var.toNat with
    | 0 => some (.wbld r.hdr r.dst r.srca r.srcb (r.hi.extractLsb' 0 8) (r.mod.extractLsb' 0 4))
    | 1 => some (.wbldSparse r.hdr r.dst r.srca r.srcb (r.hi.extractLsb' 0 8) (r.mod.extractLsb' 0 4))
    | _ => none
  | 0xBB => some (.wbrel r.hdr r.srcb (r.mod.extractLsb' 0 4))
  | 0xBC => do let f ← LFmt.ofCode (r.mod.extractLsb' 8 4); some (.accld r.hdr f r.srca r.srcb (r.mod.extractLsb' 0 4))
  | 0xBD => do let f ← LFmt.ofCode (r.mod.extractLsb' 8 4); some (.accst r.hdr f r.srca r.srcb (r.mod.extractLsb' 0 4))
  | 0xC0 => some (.gseg r.hdr r.dst r.srca (r.mod.extractLsb' 0 4))
  | 0xC1 => some (.gvec r.hdr r.dst r.srca (r.mod.extractLsb' 0 4))
  | 0xC2 => some (.grun r.hdr r.dst (r.mod.extractLsb' 0 4))
  | 0xC3 => some (.gout r.hdr r.dst (r.mod.extractLsb' 0 4))
  | 0xC4 => some (.gwait r.hdr r.dst)
  | 0xC8 => some (.credSmx r.hdr r.dst r.srca r.srcb (r.hi.extractLsb' 0 8) (r.mod.extractLsb' 0 4))
  | 0xC9 => some (.credSum r.hdr r.dst r.srca r.srcb (r.hi.extractLsb' 0 8) (r.mod.extractLsb' 0 4))
  | 0xCA => some (.credMax r.hdr r.dst r.srca r.srcb (r.hi.extractLsb' 0 8) (r.mod.extractLsb' 0 4))
  | 0xCC => some (.dictLoad r.hdr r.dst r.srca)
  | 0xCD => do let b ← srcB r; some (.dictRead r.hdr r.dst b)
  | 0xCE => some (.fenceF r.hdr)
  | 0xD0 => some (.launch r.hdr r.dst r.srca)
  | 0xD1 => do let lvl ← Lvl.ofCode (r.mod.extractLsb' 0 4); let a ← srcA r; some (.cntWait r.hdr lvl (r.mod.getLsbD 4) r.dst a)
  | 0xD2 => do let lvl ← Lvl.ofCode (r.mod.extractLsb' 0 4); let a ← srcA r; some (.cancel r.hdr lvl r.dst a)
  | 0xD3 => some (.tapePush r.hdr r.dst r.srca)
  | 0xE0 => some (.trap r.hdr r.mod)
  | 0xE1 => some (.assert r.hdr r.srca r.mod)
  | 0xE2 =>
    match r.var.toNat with
    | 0 => some (.resumeRetry r.hdr)
    | 1 => some (.resumeSkip r.hdr)
    | _ => none
  | 0xE3 => some (.kill r.hdr)
  | 0xE4 => do let b ← srcB r; some (.srd r.hdr r.dst b)
  | 0xE5 => do let b ← srcB r; some (.swr r.hdr b r.srca)
  | 0xE6 =>
    match r.var.toNat with
    | 0 => some (.tlbinvAll r.hdr)
    | 1 => some (.tlbinvPage r.hdr r.srca)
    | _ => none
  | 0xE7 => some (.gswap r.hdr r.dst (r.mod.extractLsb' 0 4))
  | _ => some (.illegalOpcode r)

/-! ## Decoding -/

/-- A full-length instruction: what an entry names, provided that encoding it gives the same fields and the entry allows
them (R53 to R58). An unassigned opcode is an instruction of its own (R74). -/
def decodeFull (l : Len) (w : BitVec 128) : Except DecodeError Instr :=
  let r := Raw.ofBits l w
  match pick r with
  | some i => if (toRaw i == some r && i.wf) || !assigned r.op then .ok i else .error (.illegalVariant r)
  | none => .error (.illegalVariant r)

/-- A short (R63): INDEX 0 is the short NOP (R49). -/
def decodeShort (w : Word) : Instr :=
  let idx := w.extractLsb' 3 8
  if idx = 0 then .shortNop (w.getLsbD 2) (w.extractLsb' 11 7) (w.extractLsb' 18 7) (w.extractLsb' 25 7)
  else .short (w.getLsbD 2) idx (w.extractLsb' 11 7) (w.extractLsb' 18 7) (w.extractLsb' 25 7)

/-- The instruction that 128 bits begin with, and its length in bytes. -/
def decode (w : BitVec 128) : Except DecodeError Instr :=
  match lenOf w with
  | none => .ok (decodeShort (w.extractLsb' 0 32))
  | some l => decodeFull l w

/-- Length in bytes of the instruction that bits begin with (R46). -/
def lengthOf (w : BitVec 128) : Nat := match lenOf w with | none => 4 | some l => l.bytes

/-- The instruction that a list of bytes begins with, and the bytes after it; none when there are too few. -/
def decodeBytes (bs : List Byte) : Option (Except DecodeError Instr × List Byte) :=
  let w := BitVec.ofNat 128 (leNat (bs.take 16))
  if bs.isEmpty || bs.length < lengthOf w then none else some (decode w, bs.drop (lengthOf w))

/-! ## Encoding -/

/-- The bits of a short (R63). -/
def shortBits (b : Bool) (idx : BitVec 8) (h0 h1 h2 : BitVec 7) : Word := h2 ++ h1 ++ h0 ++ idx ++ bv b ++ 0#2

/-- The bits of an instruction, zero beyond its length; none for a step of the device, which no bits encode. -/
def encode (i : Instr) : Option (BitVec 128) :=
  match i with
  | .short b idx h0 h1 h2 => some (0#96 ++ shortBits b idx h0 h1 h2)
  | .shortNop b h0 h1 h2 => some (0#96 ++ shortBits b 0 h0 h1 h2)
  | i => (toRaw i).map Raw.toBits

/-- The instruction that the decoder reads from bits numbered as spec/opcode_table.json numbers them. -/
def decodeTableWord (_nbits w : Nat) : Option Instr :=
  match decode (BitVec.ofNat 128 w) with
  | .ok i => some i
  | .error _ => none

end Sys2Proof
end

