-- ==== Sys2Proof/Machine/Cells.lean ====
section
/-! DEFINITION. Sparse bytes: a list of (address, byte) pairs in one canonical form, the addresses strictly rising and no
byte 0, since an unlisted byte reads 0 (log entry 3). -/

namespace Sys2Proof.Machine

/-- The byte at an address; an unlisted one is 0. -/
def cGet : List Host.Cell → Nat → Byte
  | [], _ => 0
  | (a, v) :: t, x => if a = x then v else cGet t x

/-- Insertion of a byte at its place. -/
def cInsert : List Host.Cell → Nat → Byte → List Host.Cell
  | [], x, v => [(x, v)]
  | (a, b) :: t, x, v =>
    if x < a then (x, v) :: (a, b) :: t else if x = a then (x, v) :: t else (a, b) :: cInsert t x v

/-- A byte written; writing 0 removes the entry. -/
def cSet (m : List Host.Cell) (x : Nat) (v : Byte) : List Host.Cell :=
  if v = 0 then m.filter (fun c => c.1 != x) else cInsert m x v

/-- `n` bytes from an address on. -/
def cRead (m : List Host.Cell) : Nat → Nat → List Byte
  | _, 0 => []
  | a, n + 1 => cGet m a :: cRead m (a + 1) n

/-- Bytes written from an address on. -/
def cWrite (m : List Host.Cell) : Nat → List Byte → List Host.Cell
  | _, [] => m
  | a, b :: bs => cWrite (cSet m a b) (a + 1) bs

/-- The canonical form: addresses rise strictly from `lo` on, and no byte is 0. -/
def cellsFrom : Nat → List Host.Cell → Bool
  | _, [] => true
  | lo, (a, v) :: t => decide (lo ≤ a) && v != 0 && cellsFrom (a + 1) t

/-- The canonical form of sparse bytes. -/
def Memory.wf (m : List Host.Cell) : Bool := cellsFrom 0 m

end Sys2Proof.Machine
end

