-- ==== Sys2Proof/Machine/Regs.lean ====
section
/-! DEFINITION. A thread's registers and its lookahead windows (R13, R22, R59 to R62). -/

namespace Sys2Proof.Machine

/-- A predicate; q7 reads true (R13). -/
def Thread.pred (t : Thread) (n : Nat) : Bool := n == 7 || t.q.getLsbD n
def Thread.dreg (t : Thread) (n : Nat) : Word := t.d.getD n 0
/-- Pair(dN) (R12). -/
def Thread.dpair (t : Thread) (n : Nat) : Dword := pairOf (t.dreg n) (t.dreg (n + 1))

/-- A predicate written; a write to q7 is discarded (R13). -/
def setPred (q : BitVec 8) (n : Nat) (v : Bool) : BitVec 8 :=
  if n = 7 then q else if v then q ||| BitVec.ofNat 8 (2 ^ n) else q &&& ~~~(BitVec.ofNat 8 (2 ^ n))

/-- One register of a thread written. The g registers belong to the group and are no thread's to write. -/
def Thread.put (t : Thread) : Write → Thread
  | .reg (.d n) v => { t with d := t.d.set n v }
  | .reg (.q n) v => { t with q := setPred t.q n (v != 0) }
  | .reg (.g _) _ => t
  | .reg .fstat v => { t with fstat := v.extractLsb' 0 5 }
  | .flags f => { t with fstat := t.fstat ||| f }

def Thread.putAll (t : Thread) (ws : List Write) : Thread := ws.foldl Thread.put t

/-- Values written to consecutive d registers. -/
def dWrites (d : Nat) : List Word → List Write
  | [] => []
  | v :: vs => .reg (.d d) v :: dWrites (d + 1) vs
def pairWrites (d : Nat) (v : Dword) : List Write := dWrites d [loWord v, hiWord v]
def predWrite (q : QReg) (v : Bool) : Write := .reg (.q q.toNat) (if v then 1 else 0)

/-! ## Windows -/

def WRes.resolved : WRes → Bool
  | .vals _ => true | _ => false

/-- A window's values written. -/
def Thread.take (t : Thread) (w : Window) : Thread :=
  match w.res with
  | .vals ws => t.putAll ws
  | _ => t

/-- Windows that have closed and whose result is there are delivered, the oldest first (R61). -/
def Thread.deliver (t : Thread) : Thread :=
  (t.windows.filter fun w => w.left == 0 && w.res.resolved).foldl Thread.take
    { t with windows := t.windows.filter fun w => !(w.left == 0 && w.res.resolved) }

/-- An executed instruction is counted in every open window (R59). -/
def Thread.tick (t : Thread) : Thread :=
  { t with windows := t.windows.map fun (w : Window) => { w with left := w.left - 1 } }.deliver

/-- Every result that is there is written, and the windows stay open with their destination sets (R60, R301). -/
def Thread.deliverAll (t : Thread) : Thread :=
  t.windows.foldl Thread.take
    { t with windows := t.windows.map fun w => if w.res.resolved then { w with res := .vals [] } else w }

/-- A result is outstanding. -/
def Thread.pending (t : Thread) : Bool := t.windows.any fun w => !w.res.resolved

/-- The oldest result that is there is written before its window closes (RESULT_DELIVERY, R61). -/
def Thread.deliverOne (t : Thread) : Thread :=
  let rec go : List Window → Option (List Write × List Window)
    | [] => none
    | w :: ws =>
      match w.res with
      | .vals (v :: vs) => some (v :: vs, { w with res := .vals [] } :: ws)
      | _ => (go ws).map fun p => (p.1, w :: p.2)
  match go t.windows with
  | some (ws, wins) => { t with windows := wins }.putAll ws
  | none => t

/-- An instruction completes: its results are written and its thread goes on at an address. -/
def Thread.complete (t : Thread) (next : Pc) (ws : List Write) : Thread :=
  { t.putAll ws with pc := next, badPc := none, status := .ready, held := none }.tick

/-- An instruction with a lookahead completes; its result arrives under R59 to R61. -/
def Thread.completeLook (t : Thread) (next : Pc) (look : Nat) (dset : List RegName) (res : WRes) : Thread :=
  let u := { t with pc := next, badPc := none, status := .ready, held := none }.tick
  { u with windows := u.windows ++ [Window.mk look dset res] }.deliver

/-- A pending result of a window becomes values. -/
def Thread.resolve (t : Thread) (which : WRes) (ws : List RegName → List Write) : Thread :=
  { t with windows := t.windows.map fun (w : Window) => if w.res = which then { w with res := .vals (ws w.dset) } else w }.deliver

/-- Issuing: ready, and no window has closed with its result outstanding (R33, R61). -/
def Thread.free (t : Thread) : Bool := t.status == .ready && t.windows.all fun w => w.left != 0

def Thread.live (t : Thread) : Bool := t.status != .exited

end Sys2Proof.Machine
end

