-- ==== Sys2Proof/Machine/RowProg.lean ====
section
/-! DEFINITION. Row programs: validation of an image (R233) and one application to a row (R227 to R232). -/

namespace Sys2Proof.Machine

/-- The fields of a row-operation word (R229). -/
structure RowOp where
  op : Nat
  fmt : Nat
  pl : Nat
  ph : Nat
  masked : Bool
  msel : Nat
  dw : Nat
  aw : Nat
  bw : Nat
  cw : Nat
  kb : Nat
  kc : Nat
  sub : Nat
  deriving DecidableEq, Repr

def RowOp.ofWord (w : Nat) : RowOp where
  op := bits w 31 27
  fmt := bits w 26 24
  pl := bits w 23 22
  ph := bits w 21 19
  masked := bit w 18
  msel := bits w 17 16
  dw := bits w 15 14
  aw := bits w 13 12
  bw := bits w 11 10
  cw := bits w 9 8
  kb := bits w 7 6
  kc := bits w 5 4
  sub := bits w 3 0

/-- The view's format (R229). -/
def rowFmt : Nat → NFmt
  | 1 => .flt .f16 | 2 => .flt .b16 | 3 => .int true 32 | 4 => .int true 16 | 5 => .int true 8 | _ => .flt .f32

def RowOp.float (o : RowOp) : Bool := o.fmt < 3
/-- The mask form of RAND, ROR and RXOR (R230). -/
def RowOp.maskForm (o : RowOp) : Bool := (o.op == 0x0E || o.op == 0x0F || o.op == 0x10) && o.sub == 1

/-- SUB holds a value that R230 lists. -/
def RowOp.subOk (o : RowOp) : Bool :=
  match o.op with
  | 0x03 | 0x04 | 0x05 | 0x06 => if o.float then o.sub < 4 else o.sub == 0
  | 0x0B => o.sub < 4
  | 0x0C => o.sub < 6
  | 0x0E | 0x0F | 0x10 | 0x12 => o.sub < 2
  | 0x13 => true
  | _ => o.sub == 0

/-- Which of D, A, B, C the operation names (R230). -/
def RowOp.operands : Nat → Bool × Bool × Bool × Bool
  | 0x01 => (true, false, false, false)
  | 0x02 | 0x14 => (false, true, false, false)
  | 0x09 | 0x13 => (true, true, false, false)
  | 0x06 | 0x0A => (true, true, true, true)
  | 0x00 | 0x15 => (false, false, false, false)
  | _ => (true, true, true, false)

/-- A field of operands that the operation does not name is nonzero (reason 3 of R233). -/
def RowOp.strayField (o : RowOp) : Bool :=
  let n := RowOp.operands o.op
  (!n.1 && o.dw != 0) || (!n.2.1 && o.aw != 0) || (!n.2.2.1 && (o.bw != 0 || o.kb != 0)) ||
  (o.kb != 0 && o.bw != 0) || (!n.2.2.2 && (o.cw != 0 || o.kc != 0)) || (o.kc != 0 && o.cw != 0) ||
  (o.maskForm && o.kb != 0) || (!o.masked && o.msel != 0 && o.op != 0x0D)

/-- The view breaks the operation's Views column (reason 4 of R233). -/
def RowOp.badView (o : RowOp) : Bool :=
  match o.op with
  | 0x00 => o.fmt != 0
  | 0x0B => !o.float || o.kb == 0
  | 0x0D => o.masked
  | 0x0E | 0x0F | 0x10 => if o.sub == 1 then o.fmt != 0 || o.pl != 0 || o.ph != 0 || o.masked else o.float
  | 0x11 | 0x12 => o.float
  | 0x14 => o.fmt != 0 || o.pl != 0 || o.ph != 0 || o.masked
  | _ => false

/-- The first reason that rejects a word (R233), if any. -/
def rowWordReason (w : Nat) : Option Nat :=
  let o := RowOp.ofWord w
  if o.op ≥ 0x16 || o.fmt ≥ 6 then some 1
  else if o.ph ≥ 2 ^ o.pl || o.kb == 3 || o.kc == 3 || !o.subOk || (o.op == 0x13 && o.sub % 8 ≥ 6) then
    -- REND's SUB has no listed value but 0
    some 2
  else if o.strayField || (o.op == 0x15 && w != 0x15 * 2 ^ 27) then some 3
  else if o.badView then some 4
  else none

/-- Validate of R233 over words in ascending index: the reason and the index reported. A word after the REND meets reasons 1 to 4
like any other, and reason 5 when it is not 0. -/
def rowValidate (pad : Bool) : Nat → Bool → List Nat → Option (Nat × Nat)
  | _, ended, [] => if !ended || pad then some (5, 16) else none
  | i, true, w :: ws =>
    match rowWordReason w with
    | some r => some (r, i)
    | none => if w != 0 then some (5, i) else rowValidate pad (i + 1) true ws
  | i, false, w :: ws =>
    match rowWordReason w with
    | some r => some (r, i)
    | none => rowValidate pad (i + 1) ((RowOp.ofWord w).op == 0x15) ws

/-! ## One application -/

/-- The registers of one application (R227). -/
structure RowRun where
  row : BitVec 8192
  w : List (BitVec 8192)
  m : List (BitVec 1024)
  skip : BitVec 16
  fl : Flags
  deriving DecidableEq, Repr

/-- Field `f` of width `wd` in bytes. -/
def getField (r : BitVec 8192) (wd f : Nat) : Nat := r.toNat / 2 ^ (8 * wd * f) % 2 ^ (8 * wd)
def setField (r : BitVec 8192) (wd f v : Nat) : BitVec 8192 :=
  let lo := 8 * wd * f
  let keep : BitVec 8192 := BitVec.ofNat 8192 ((2 ^ (8 * wd) - 1) * 2 ^ lo)
  (r &&& ~~~keep) ||| BitVec.ofNat 8192 (v % 2 ^ (8 * wd) * 2 ^ lo)

def RowRun.reg (s : RowRun) (n : Nat) : BitVec 8192 := s.w.getD n 0
def RowRun.mask (s : RowRun) (n : Nat) : BitVec 1024 := s.m.getD n 0
/-- The block of a byte is in skip. -/
def RowRun.skipped (s : RowRun) (byte : Nat) : Bool := s.skip.getLsbD (byte / 64)

/-- Bytes of a view's field. -/
def RowOp.bytes (o : RowOp) : Nat := (rowFmt o.fmt).width / 8

/-- The fields of the view that are acted on (R228). -/
def RowRun.fields (s : RowRun) (o : RowOp) : List Nat :=
  (List.range (1024 / o.bytes)).filter fun f =>
    f % 2 ^ o.pl == o.ph && !s.skipped (f * o.bytes) && (!o.masked || (s.mask o.msel).getLsbD (f * o.bytes))

def sgn (w v : Nat) : Int := if bit v (w - 1) then (v : Int) - 2 ^ w else v
def wrapI (w : Nat) (v : Int) : Nat := (v % (2 ^ w : Int)).toNat

/-- The value that an operation forms for one field from A, B and C (R230, R231), with its flags. -/
def rowCompute (o : RowOp) (a b c : Nat) : Nat × Flags :=
  let w := 8 * o.bytes
  let m := rmodeOf (o.sub % 4)
  let res (r : RRes) : Nat × Flags := (r.bits, r.fl)
  match rowFmt o.fmt with
  | .flt f =>
    match o.op with
    | 0x03 => res (fltAdd f m false a b)
    | 0x04 => res (fltSub f m false a b)
    | 0x05 => res (fltMul f m false a b)
    | 0x06 => res (fltFma f m false a b c)
    | 0x07 => fltMinMax f false a b
    | 0x08 => fltMinMax f true a b
    | 0x09 => if (f.read a).isNan then (f.nanBits, sigIO [f.read a]) else (a % f.signBit, 0)
    | 0x0A =>
      let x := fltMinMax f true a b
      let y := fltMinMax f false x.1 c
      (y.1, x.2 ||| y.2)
    | 0x0B =>
      match f.read a with
      | .nan s => (f.nanBits, flagIf s fIO)
      | .inf _ => (a, 0)
      | .fin q => if q.n = 0 then (a, 0) else res (roundQ f m false (q.scale (sgn 8 (b % 256))))
    | _ => (a, 0)
  | .int _ _ =>
    match o.op with
    | 0x03 => ((a + b) % 2 ^ w, 0)
    | 0x04 => (wrapI w ((a : Int) - b), 0)
    | 0x05 => (a * b % 2 ^ w, 0)
    | 0x06 => ((a * b + c) % 2 ^ w, 0)
    | 0x07 => (if sgn w b < sgn w a then b else a, 0)
    | 0x08 => (if sgn w a < sgn w b then b else a, 0)
    | 0x09 => (wrapI w (sgn w a).natAbs, 0)
    | 0x0A =>
      let x := if sgn w a < sgn w b then b else a
      (if sgn w c < sgn w x then c else x, 0)
    | 0x0E => (a &&& b, 0)
    | 0x0F => (a ||| b, 0)
    | 0x10 => (a ^^^ b, 0)
    | 0x11 => (if b ≥ w then 0 else a * 2 ^ b % 2 ^ w, 0)
    | 0x12 =>
      if o.sub = 1 then (if b ≥ w then 0 else a / 2 ^ b, 0)
      else (wrapI w (floorShift (sgn w a) (min b w)), 0)
    | _ => (a, 0)

/-- The relation of RCMP. -/
def rowCompare (o : RowOp) (a b : Nat) : Bool × Flags :=
  let cc : FCc := match o.sub with | 1 => .ne | 2 => .lt | 3 => .le | 4 => .gt | 5 => .ge | _ => .eq
  let x := (rowFmt o.fmt).read a; let y := (rowFmt o.fmt).read b
  (fltCmp cc x y, sigIO [x, y])

/-- A constant or a field of a register (R228). -/
def rowSource (s : RowRun) (o : RowOp) (k0 k1 : Word) (kind reg f : Nat) : Nat :=
  match kind with
  | 1 => k0.toNat % 2 ^ (8 * o.bytes)
  | 2 => k1.toNat % 2 ^ (8 * o.bytes)
  | _ => getField (s.reg reg) o.bytes f

/-- Bits `lo` to `lo + n - 1` of a mask. -/
def setBits (m : BitVec 1024) (lo n : Nat) (v : Bool) : BitVec 1024 :=
  let k : BitVec 1024 := BitVec.ofNat 1024 ((2 ^ n - 1) * 2 ^ lo)
  if v then m ||| k else m &&& ~~~k

/-- The mask bits of the blocks that are not in skip. -/
def liveBits (skip : BitVec 16) : BitVec 1024 :=
  (List.range 16).foldl (fun m b => if skip.getLsbD b then m else setBits m (64 * b) 64 true) 0

/-- One field of an operation. Every source is read as it was before the operation, also where RCVT's D is its A and the widths
differ (DESIGN CHOICE, log entry 83: R232 does not say). -/
def rowField (o : RowOp) (k0 k1 : Word) (old s : RowRun) (f : Nat) : RowRun :=
  let n := o.bytes
  let a := getField (old.reg o.aw) n f
  let b := rowSource old o k0 k1 o.kb o.bw f
  let c := rowSource old o k0 k1 o.kc o.cw f
  match o.op with
  | 0x01 => { s with w := s.w.set o.dw (setField (s.reg o.dw) n f (getField old.row n f)) }
  | 0x02 => { s with row := setField s.row n f a }
  | 0x0C =>
    let r := rowCompare o a b
    { s with m := s.m.set o.dw (setBits (s.mask o.dw) (f * n) n r.1), fl := s.fl ||| r.2 }
  | 0x0D =>
    { s with w := s.w.set o.dw (setField (s.reg o.dw) n f (if (old.mask o.msel).getLsbD (f * n) then a else b)) }
  | 0x13 =>
    let df := rowFmt (o.sub % 8)
    let dn := df.width / 8
    if f < 1024 / dn && !s.skipped (f * dn) then
      let r := convert df (rowFmt o.fmt) (if o.sub ≥ 8 then .rz else .rn) false a
      { s with w := s.w.set o.dw (setField (s.reg o.dw) dn f r.bits), fl := s.fl ||| r.fl }
    else s
  | _ =>
    let r := rowCompute o a b c
    { s with w := s.w.set o.dw (setField (s.reg o.dw) n f r.1), fl := s.fl ||| r.2 }

/-- Perform of R227: one operation. -/
def rowPerform (k0 k1 : Word) (s : RowRun) (w : Nat) : RowRun :=
  let o := RowOp.ofWord w
  if o.op = 0x00 then s
  else if o.op = 0x14 then
    let add := (List.range 16).foldl (fun (k : BitVec 16) b =>
      if (s.reg o.aw).toNat / 2 ^ (512 * b) % 2 ^ 512 = 0 then k ||| BitVec.ofNat 16 (2 ^ b) else k) 0
    { s with skip := s.skip ||| add }
  else if o.maskForm then
    let x := s.mask o.aw; let y := s.mask o.bw
    let v := match o.op with | 0x0E => x &&& y | 0x0F => x ||| y | _ => x ^^^ y
    let live := liveBits s.skip
    { s with m := s.m.set o.dw ((v &&& live) ||| (s.mask o.dw &&& ~~~live)) }
  else (s.fields o).foldl (rowField o k0 k1 s) s

/-- The words up to REND. -/
def rowRunWords (k0 k1 : Word) : RowRun → List Nat → RowRun
  | s, [] => s
  | s, w :: ws => if (RowOp.ofWord w).op = 0x15 then s else rowRunWords k0 k1 (rowPerform k0 k1 s w) ws

/-- One application (R227): the row afterwards and the flags raised. -/
def rowApply (words : List Word) (k0 k1 : Word) (row : List Byte) : List Byte × Flags :=
  let s : RowRun := ⟨BitVec.ofNat 8192 (leNat row), List.replicate 4 0, List.replicate 4 (BitVec.allOnes 1024), 0, 0⟩
  let r := rowRunWords k0 k1 s (words.map BitVec.toNat)
  (leBytes 1024 r.row.toNat, r.fl)

end Sys2Proof.Machine
end

