-- ==== Sys2Proof/Machine/Mem.lean ====
section
/-! DEFINITION. Device memory and what reaches it: rows, their restores and applications (R207 to R216), sibling state that
ends (R124), translation (R296 to R300), host and peer memory, and the counters, the error log and the messages that these
report to (R320, R330 to R332). -/

namespace Sys2Proof.Machine

/-! ## Reports -/

/-- Bytes of device memory (R43, R207). -/
def State.memSize (s : State) : Nat := (if s.build.small then 256 else 512) * 2 ^ 30
def State.numCores (s : State) : Nat := if s.build.small then 96 else 192
def State.numLinks (s : State) : Nat := if s.build.small then 8 else 24
/-- s of R207. -/
def State.stackBits (s : State) : Nat := if s.build.small then 2 else 3

/-- An event of a source in one block of counters (R330, R331): `asid` is the job it is attributed to. -/
def State.count (s : State) (base k src : Nat) (asid : Option Nat) (n : Nat) : State :=
  { s with counters := s.counters.map fun c =>
      if base ≤ c.off && c.off < base + 16 * k && c.sel.getLsbD 31 && bits c.sel.toNat 7 0 == src &&
        (!c.sel.getLsbD 30 || asid == some (bits c.sel.toNat 27 16))
      then { c with val := c.val + BitVec.ofNat 64 n } else c }
def State.countCore (s : State) (core src : Nat) (asid : Option Nat) (n : Nat) : State := s.count (0x20000 + 128 * core) 8 src asid n
def State.countDie (s : State) (die src : Nat) (asid : Option Nat) (n : Nat) : State := s.count (0x26000 + 256 * die) 16 src asid n
def State.countStack (s : State) (stack src : Nat) (asid : Option Nat) (n : Nat) : State := s.count (0x27000 + 128 * stack) 8 src asid n
def State.countHub (s : State) (src : Nat) (asid : Option Nat) (n : Nat) : State := s.count 0x27400 16 src asid n

/-- Flits that a message of `n` bytes takes, sent and received, counted at the core dies it leaves and reaches; the hub is no core
die (R3, R331). -/
def State.overUcie (s : State) (src dst : Option Nat) (asid : Option Nat) (n : Nat) : State :=
  if src = dst then s else
  let s := match src with | some d => s.countDie d 3 asid (Config.flitsOf n) | none => s
  match dst with | some d => s.countDie d 4 asid (Config.flitsOf n) | none => s

/-- The mask bit of an MSI-X vector: bit 0 of the last word of its table entry (PCIe, log entry 71). -/
def State.msixMasked (s : State) (v : Nat) : Bool := (cGet s.mgmt.msixTable (16 * v + 12)).getLsbD 0

/-- A message leaves over the host port: a write of four bytes, whose flits count for the job that caused it (R320, R331). -/
def State.emitMsix (s : State) (v : Nat) (asid : Option Nat) : State :=
  { s with msix := v :: s.msix }.countHub 7 asid (Config.flitsOf 4)

/-- An MSI-X message is sent, or held pending while its vector is masked (R318, R320). -/
def State.sendMsix (s : State) (v : Nat) (asid : Option Nat) : State :=
  if s.msixMasked v then { s with mgmt := { s.mgmt with msixPend := s.mgmt.msixPend ||| BitVec.ofNat 72 (2 ^ v) } }
  else s.emitMsix v asid

def logFill (type : Nat) (addr : Dword) : List LogEntry → Option (List LogEntry)
  | [] => none
  | e :: t => if e.type = 0 then some (⟨type, addr⟩ :: t) else (logFill type addr t).map (e :: ·)

/-- An error-log event, of an access of a job or of none (R331, R332). -/
def State.logError (s : State) (asid : Option Nat) (type : Nat) (addr : Nat) : State :=
  match logFill type (BitVec.ofNat 64 addr) s.elog with
  | some l => { s with elog := l }.sendMsix 66 asid
  | none => { s with errovf := if s.errovf = 0xFFFFFFFF#32 then s.errovf else s.errovf + 1 }

/-! ## Rows (R207 to R216) -/

/-- Row numbers: physical address div 1024; its low bits are CHAN, STACK and BANK (R207), and name the bank. -/
def rowOf (pa : Nat) : Nat := pa / 1024
def State.bankOf (s : State) (row : Nat) : Nat := row % 2 ^ (11 + s.stackBits)
def State.stackOf (s : State) (row : Nat) : Nat := bits row (4 + s.stackBits) 5
/-- ROW of R207. -/
def State.rowIndex (s : State) (row : Nat) : Nat := row / 2 ^ (11 + s.stackBits)

/-- The core die that an address's stack is attached to, two stacks a die (R3, R108). -/
def State.homeDie (s : State) (pa : Nat) : Nat := s.stackOf (rowOf pa) / 2
/-- The home L2 slice of an address: one of the 32 slices of that die (R3, R108). -/
def State.sliceOf (s : State) (pa : Nat) : Nat := 32 * s.homeDie pa + Config.homeSlice pa % 32
/-- An event of the core die at an address's home (R331). -/
def State.countHome (s : State) (pa src : Nat) (asid : Option Nat) : State := s.countDie (s.homeDie pa) src asid 1

/-- A sibling cell that ends: its memory takes the value of its highest-stamp sibling (R124). -/
def State.ceaseCell (s : State) (c : SibCell) : State :=
  { s with
    mem := cWrite s.mem c.pa (leBytes 8 ((c.sibs.getLast?.map Sib.val).getD 0).toNat)
    cells := s.cells.filter (fun x => x.pa != c.pa) }

/-- The sibling cells that `n` bytes from an address on touch. -/
def State.cellsIn (s : State) (pa n : Nat) : List SibCell := s.cells.filter (fun c => c.pa < pa + n && pa < c.pa + 8)

/-- An access that is not a sibling operation ends the sibling state of the cells it reaches (R124). -/
def State.ceaseCells (s : State) (pa n : Nat) : State := (s.cellsIn pa n).foldl State.ceaseCell s

/-- ECC at a restore that an access of a job caused, or the sweep (R210, R331, R332). A row is reported at the error that brings its
count to CETHRESH. One whose count has passed a CETHRESH that is lowered afterwards is reported no more (DESIGN CHOICE, log entry
88: R4 and R332 do not say when it would be). -/
def State.restoreRow (s : State) (asid : Option Nat) (row : Nat) : State :=
  let s := if s.softErrs.contains row then
      let k := ((s.corrected.find? (fun p => p.1 == row)).map Prod.snd).getD 0 + 1
      let s := { s with softErrs := s.softErrs.filter (· != row),
                        corrected := (row, k) :: s.corrected.filter (fun p => p.1 != row) }
      let s := s.countStack (s.stackOf row) 4 asid 1
      if k = s.mgmt.cethresh.toNat then s.logError asid 1 (row * 1024) else s
    else s
  if s.hardErrs.contains row then
    let s := { s with hardErrs := s.hardErrs.filter (· != row) }
    if s.poisoned.contains row then s
    else ({ s with poisoned := row :: s.poisoned }.countStack (s.stackOf row) 5 asid 1).logError asid 2 (row * 1024)
  else s

/-- The completion pair of R216. -/
def rowPair (f : RowFn) : Dword :=
  BitVec.ofNat 64 (f.poisoned * 2 ^ 32 + 2 ^ 31 + f.flags.toNat * 256 + b2n f.cancelled)

/-- Every bank has accepted it and no row is left (R215). -/
def RowFn.ready (f : RowFn) : Bool := f.done.isNone && f.banks.isEmpty && f.rows.isEmpty

/-- One pending application on a row that is not poisoned, or its count on one that is (R133, R210, R214). -/
def State.applyOne (row : Nat) (s : State) (h : Nat) : State :=
  match s.rowFns.find? (fun f => f.handle == h) with
  | none => s
  | some f =>
    let bad := s.poisoned.contains row
    let r := rowApply f.words f.k0 f.k1 (cRead s.mem (row * 1024) 1024)
    let upd (g : RowFn) : RowFn :=
      if g.handle = h then
        { g with rows := g.rows.filter (· != row), poisoned := g.poisoned + b2n bad,
                 flags := if bad then g.flags else g.flags ||| r.2 }
      else g
    let s := { s with rowFns := s.rowFns.map upd, mem := if bad then s.mem else cWrite s.mem (row * 1024) r.1 }
    if bad then s else s.countStack (s.stackOf row) 3 (some f.asid) 1

/-- The values of a ROWWAIT whose destination set is a pair. -/
def rowWrites (p : Dword) (dset : List RegName) : List Write :=
  (dset.zip [loWord p, hiWord p]).map fun x => .reg x.1 x.2

/-- A thread of a core joins a row function through a window. -/
def State.rowJoins (s : State) (handle core : Nat) : Bool :=
  s.groups.any fun g => g.core == core && g.threads.any fun t => t.windows.any fun w => w.res == .row handle

/-- The core of a function's group. -/
def State.rowCore (s : State) (f : RowFn) : Option Nat := (s.groups[f.grp]?).map Group.core

/-- A completed function's pair reaches the windows that wait for it (R61), an acquire for their cores (R108, R222); the core of its
own group keeps nothing either that a read of the completion word at group scope must not see (R115, R116, R118). -/
def State.joinRow (s : State) (f : RowFn) : State :=
  { s with
    cores := s.cores.mapIdx fun k c => if s.rowJoins f.handle k || s.rowCore f == some k then { c with l1 := [] } else c
    groups := s.groups.map fun g =>
      { g with threads := g.threads.map fun t => t.resolve (.row f.handle) (rowWrites (rowPair f)) } }

/-- Row functions that are ready complete: their pair is set, and the completion words to write are listed with their job
(R215, R216). -/
def State.completeFns (s : State) : State × List (Nat × Nat × Dword) :=
  ({ (s.rowFns.filter RowFn.ready).foldl State.joinRow s with
      rowFns := s.rowFns.map fun f => if f.ready then { f with done := some (rowPair f) } else f },
   s.rowFns.filterMap fun f => if f.ready then f.cword.map (fun pa => (pa, f.asid, rowPair f)) else none)

/-- A completion word as it is counted: an access to its home and to its row (R331). -/
def State.countWord (s : State) (w : Nat × Nat × Dword) : State :=
  (s.countHome w.1 1 (some w.2.1)).countStack (s.stackOf (rowOf w.1)) 1 (some w.2.1) 1
/-- A completion word written; a poisoned row discards it (R210, R216). -/
def State.pokeWord (s : State) (w : Nat × Nat × Dword) : State :=
  let s := s.ceaseCells w.1 8
  if s.poisoned.contains (rowOf w.1) then s else { s with mem := cWrite s.mem w.1 (leBytes 8 w.2.2.toNat) }

/-- A restore of a row: ECC, every application pending on it in the order in which reachBank delivered the functions to its bank
(R133), completions and their completion words, whose writes activate rows in turn; each level has made at least one application, so `fuel` of one more than those pending suffices. -/
def State.activate : Nat → State → Option Nat → Nat → State
  | 0, s, _, _ => s
  | fuel + 1, s, asid, row =>
    let s := s.restoreRow asid row
    let apps := (s.rowApps.filter (fun a => a.1 == row)).map Prod.snd
    if apps.isEmpty then s else
    let s := { s with rowApps := s.rowApps.filter (fun a => a.1 != row) }
    let s := apps.foldl (State.applyOne row) (s.ceaseCells (row * 1024) 1024)
    let c := s.completeFns
    c.2.foldl (fun s w => (State.activate fuel (s.countWord w) (some w.2.1) (rowOf w.1)).pokeWord w) c.1

/-- Completions outside a restore (a bank accepts, a cancel), with their completion words. -/
def State.finishFns (s : State) : State :=
  let c := s.completeFns
  c.2.foldl (fun s w => (State.activate (s.rowApps.length + 1) (s.countWord w) (some w.2.1) (rowOf w.1)).pokeWord w) c.1

/-- A demand activation (R214). -/
def State.demand (s : State) (asid : Option Nat) (row : Nat) : State :=
  let st := s.stackOf row
  let s := s.countStack st 1 asid 1
  let s := if s.rowApps.any (fun a => s.bankOf a.1 == s.bankOf row) then s.countStack st 6 asid 1 else s
  State.activate (s.rowApps.length + 1) s asid row

/-- The rows that `n` bytes from an address on lie in. -/
def rowsOf (pa n : Nat) : List Nat := if n = 0 then [] else List.range' (rowOf pa) (rowOf (pa + n - 1) + 1 - rowOf pa)

/-- An access reaches `n` bytes of device memory: their rows are activated and their sibling state ends. -/
def State.reach (s : State) (asid : Option Nat) (pa n : Nat) : State :=
  ((rowsOf pa n).foldl (fun s r => s.demand asid r) s).ceaseCells pa n

/-- An access of a die, or of the hub for none, to `n` bytes at their home: the flits it takes between dies, and, unless it goes to
the bank controller, an L2 access, a read one from its stack (R3, R108, R331). -/
def State.access (s : State) (die : Option Nat) (asid : Option Nat) (l2 wr : Bool) (pa n : Nat) : State :=
  let home := some (s.homeDie pa)
  let s := (s.overUcie die home asid (if wr then n else 0)).overUcie home die asid (if wr then 0 else n)
  let s := if l2 then s.countHome pa 1 asid else s
  let s := if l2 && !wr then s.countHome pa 2 asid else s
  s.reach asid pa n

/-- The flits of an access of a die to a peer or the host, with the bytes of its request and of its response: over UCIe to the hub,
and on the port (R331). -/
def State.portFlits (s : State) (die : Option Nat) (asid : Option Nat) (peer : Bool) (req resp : Nat) : State :=
  let s := (s.overUcie die none asid req).overUcie none die asid resp
  if peer then s.countHub 8 asid (Config.flitsOf req)
  else (s.countHub 7 asid (Config.flitsOf req)).countHub 6 asid (Config.flitsOf resp)

/-- The flits of a host access and of its answer, with the bytes of each (R331). -/
def State.hostFlits (s : State) (req resp : Nat) : State :=
  (s.countHub 6 none (Config.flitsOf req)).countHub 7 none (Config.flitsOf resp)

/-- A byte as it stands; 0xFF in a poisoned row (R210). -/
def State.peek (s : State) (a : Nat) : Byte := if s.poisoned.contains (rowOf a) then 0xFF else cGet s.mem a
def State.peekBytes (s : State) (a n : Nat) : List Byte := (List.range' a n).map s.peek
def State.peekNat (s : State) (a n : Nat) : Nat := leNat (s.peekBytes a n)

/-- A read at the point of performance. -/
def State.readFrom (s : State) (die : Option Nat) (asid : Option Nat) (l2 : Bool) (pa n : Nat) : State × List Byte :=
  let s := s.access die asid l2 false pa n
  (s, s.peekBytes pa n)
/-- A read of the hub, or of what reads on a group's behalf, at the home. -/
def State.homeRead (s : State) (asid : Option Nat) (pa n : Nat) : State × List Byte := s.readFrom none asid true pa n

/-- Bytes written, those of poisoned rows discarded (R210). -/
def State.poke (s : State) (pa : Nat) (bs : List Byte) : State :=
  if s.poisoned.contains (rowOf pa) then s else { s with mem := cWrite s.mem pa bs }

/-- A write at the point of performance, within one row. -/
def State.writeFrom (s : State) (die : Option Nat) (asid : Option Nat) (l2 : Bool) (pa : Nat) (bs : List Byte) : State :=
  (s.access die asid l2 true pa bs.length).poke pa bs
/-- A write of the hub, or of what writes on a group's behalf, at the home. -/
def State.homeWrite (s : State) (asid : Option Nat) (pa : Nat) (bs : List Byte) : State := s.writeFrom none asid true pa bs

/-! ## L1 (R108) -/

def State.core (s : State) (c : Nat) : Core := s.cores.getD c Core.fresh
def State.setCore (s : State) (c : Nat) (f : Core → Core) : State := { s with cores := s.cores.modify c f }

/-- The whole L1 of a core invalidated. -/
def State.clearL1 (s : State) (c : Nat) : State := s.setCore c fun k => { k with l1 := [] }
/-- The bytes of a range leave a core's L1. -/
def State.dropL1 (s : State) (c pa n : Nat) : State :=
  s.setCore c fun k => { k with l1 := k.l1.filter fun x => x.1 < pa || pa + n ≤ x.1 }
/-- A read made at its home for an instruction of a core: the core's L1 keeps no older copy of the bytes (R115, R134). -/
def State.readFor (s : State) (core asid pa n : Nat) : State × List Byte :=
  let x := s.homeRead (some asid) pa n
  (x.1.dropL1 core pa n, x.2)
/-- The bytes of a range when L1 holds all of them. -/
def State.l1Hit (s : State) (c pa n : Nat) : Option (List Byte) :=
  let l := (s.core c).l1
  (List.range' pa n).mapM fun a => (l.find? (fun x => x.1 == a)).map Prod.snd

/-! ## Translation (R296 to R300) -/

inductive MType where
  | normal | row | sibling | host | peer | io
  deriving DecidableEq, Repr

def MType.ofCode : Nat → Option MType
  | 0 => some .normal | 1 => some .row | 2 => some .sibling | 3 => some .host | 4 => some .peer | 5 => some .io | _ => none

/-- Device memory types. -/
def MType.device : MType → Bool | .normal => true | .row => true | .sibling => true | _ => false

/-- What a walk finds. -/
inductive Walk where
  | absent
  | malformed
  | leaf (t : Tlb)
  deriving DecidableEq, Repr

def pteType (e : Nat) : Option MType := MType.ofCode (bits e 8 6)
def ptePa (e : Nat) : Nat := bits e 51 12 * 4096

/-- An entry read at a level is malformed (R297); `j` is its index in its group of 16. -/
def pteMalformed (memSize lvl j e : Nat) : Bool :=
  let pa := ptePa e
  if !bit e 1 then lvl == 0 || bits e 11 2 != 0 || bits e 63 52 != 0 || pa ≥ memSize
  else
    let size := 2 ^ (12 + 9 * lvl)
    let cont := bit e 5
    match pteType e with
    | none => true
    | some t =>
      lvl ≥ 3 || bit e 63 || bit e 11 || (t != .peer && bits e 62 52 != 0) ||
      (if t == .sibling then bits e 10 9 == 3 else bits e 10 9 != 0) ||
      pa % size != 0 || (cont && pa % (16 * size) != j * size) ||
      (t == .io && (lvl != 0 || cont || pa ≥ 2 ^ 20)) ||
      (t.device && (pa ≥ memSize || (cont && pa - j * size + 16 * size > memSize)))

/-- The leaf that a valid entry is, for an address of 57 bits (R296). -/
def pteLeaf (asid va lvl j e : Nat) : Tlb :=
  let size := 2 ^ (12 + 9 * lvl)
  if bit e 5 then ⟨asid, va / (16 * size) * (16 * size), 16 * size, ptePa e - j * size, BitVec.ofNat 64 e⟩
  else ⟨asid, va / size * size, size, ptePa e, BitVec.ofNat 64 e⟩

/-- The walk of R296 from a table at a level (R299). -/
def State.walkFrom (s : State) (asid va : Nat) : Nat → Nat → Walk
  | 0, t =>
    let i := va / 2 ^ 12 % 512
    let e := s.peekNat (t + 8 * i) 8
    if !bit e 0 then .absent
    else if pteMalformed s.memSize 0 (i % 16) e then .malformed else .leaf (pteLeaf asid va 0 (i % 16) e)
  | l + 1, t =>
    let i := va / 2 ^ (12 + 9 * (l + 1)) % 512
    let e := s.peekNat (t + 8 * i) 8
    if !bit e 0 then .absent
    else if pteMalformed s.memSize (l + 1) (i % 16) e then .malformed
    else if bit e 1 then .leaf (pteLeaf asid va (l + 1) (i % 16) e)
    else State.walkFrom s asid va l (ptePa e)

def State.job (s : State) (asid : Nat) : Option Job := s.jobs.find? (fun j => j.desc.asid == asid)

/-- The walk of a job's tables. -/
def State.walk (s : State) (asid va : Nat) : Walk :=
  match s.job asid with
  | none => .malformed
  | some j => s.walkFrom asid va 4 j.desc.ptroot

/-- The leaf an access uses: a retained one (R300), or what the walk finds. -/
def State.leafOf (s : State) (asid va : Nat) : Walk :=
  match s.tlb.find? (fun t => t.asid == asid && t.va ≤ va && va < t.va + t.size) with
  | some t => .leaf t
  | none => s.walk asid va

/-- The permissions an access needs (R299). -/
structure Need where
  r : Bool
  w : Bool
  x : Bool
  deriving DecidableEq, Repr
def Need.read : Need := ⟨true, false, false⟩
def Need.write : Need := ⟨false, true, false⟩
def Need.both : Need := ⟨true, true, false⟩
def Need.fetch : Need := ⟨false, false, true⟩

/-- The outcome of translating an access. -/
inductive Xlate where
  | absent
  | perm
  | ok (pa : Nat) (t : MType) (pte : Nat)
  deriving DecidableEq, Repr

/-- Bits [63:57] equal bit 56 (R104). -/
def canonical (va : Nat) : Bool := va % 2 ^ 64 / 2 ^ 56 == 0 || va % 2 ^ 64 / 2 ^ 56 == 255

/-- Steps 2 of R165 for one address. -/
def State.xlate (s : State) (asid va : Nat) (need : Need) : Xlate :=
  if !canonical va then .perm else
  let v := va % 2 ^ 57
  match s.leafOf asid v with
  | .absent => .absent
  | .malformed => .perm
  | .leaf t =>
    let e := t.pte.toNat
    if (need.r && !bit e 2) || (need.w && !bit e 3) || (need.x && !bit e 4) then .perm
    else match pteType e with
      | none => .perm
      | some ty => .ok (t.pa + (v - t.va)) ty e

/-- A translation with the page types accepted: steps 2 and 3 of R165. -/
inductive Chk where
  | absent
  | perm
  | memtype
  | ok (pa : Nat) (t : MType) (pte : Nat)
  deriving DecidableEq, Repr

def State.check (s : State) (asid va : Nat) (need : Need) (accept : MType → Bool) : Chk :=
  match s.xlate asid va need with
  | .absent => .absent
  | .perm => .perm
  | .ok pa t e => if accept t then .ok pa t e else .memtype

def isNormal (t : MType) : Bool := t == .normal

/-! ## Host and peer memory -/

/-- The host decodes a byte (R298). -/
def State.hostDecodes (s : State) (a : Nat) : Bool := s.hostRanges.any (fun r => r.1 ≤ a && a < r.1 + r.2)
def State.hostRead (s : State) (a n : Nat) : List Byte :=
  (List.range' a n).map fun x => if s.hostDecodes x then cGet s.hostMem x else 0xFF
def State.hostPut (s : State) (a : Nat) (bs : List Byte) : State :=
  if s.hostDecodes a then { s with hostMem := cWrite s.hostMem a bs } else s

/-- ROUTE of a device is usable (R321, R322). -/
def State.peerUp (s : State) (dev : Nat) : Bool :=
  let r := (cGet s.mgmt.route dev).toNat
  let l := r % 32
  bit r 7 && decide (l < s.numLinks) &&
    match s.links[l]? with
    | some k => !k.fenced && !k.down
    | none => false

def pteDev (e : Nat) : Nat := bits e 62 52
def peerAddr (dev pa : Nat) : Nat := dev * 2 ^ 52 + pa

end Sys2Proof.Machine
end

