-- ==== Sys2Proof/Machine/Threads.lean ====
section
/-! DEFINITION. Threads and groups in the state: their registers, the scratchpad and its arrival barriers (R242, R243). -/

namespace Sys2Proof.Machine

def State.setGrp (s : State) (gi : Nat) (f : Group → Group) : State := { s with groups := s.groups.modify gi f }
def State.thr (s : State) (r : ThreadRef) : Option Thread := (s.groups[r.grp]?).bind fun g => g.threads[r.tid]?
def State.setThr (s : State) (r : ThreadRef) (f : Thread → Thread) : State :=
  s.setGrp r.grp fun g => { g with threads := g.threads.modify r.tid f }

/-- An operation of a group has made its accesses: the group's core keeps nothing in its L1 that a join narrower than cluster must not
see (R108, R115, R116, R118). -/
def State.freshL1 (s : State) (gi : Nat) : State := match s.groups[gi]? with | some g => s.clearL1 g.core | none => s

/-- A blocked thread goes on with results. -/
def State.wake (s : State) (r : ThreadRef) (ws : List Write) : State :=
  s.setThr r fun t => { t.putAll ws with status := .ready, held := none }

/-- Resident on its core (R29). -/
def Group.resident (g : Group) : Bool :=
  match g.status with | .starting _ => true | .running => true | _ => false
/-- Live threads (R185). -/
def Group.live (g : Group) (t : Nat) : Bool := match g.threads[t]? with | some th => th.live | none => false
def Group.liveCount (g : Group) : Nat := g.threads.countP Thread.live
def Group.allExited (g : Group) : Bool := g.threads.all fun t => !t.live
/-- Cluster size. -/
def Group.csize (g : Group) : Nat := g.cluster.length
/-- Register bytes (R280). -/
def Group.regBytes (g : Group) : Nat := g.nthreads * g.nregs * 4

/-- %stk (R24). -/
def Group.stk (g : Group) (tid : Nat) : Dword :=
  g.spill + BitVec.ofNat 64 (8 * g.espill * (g.gid * g.nthreads + tid))

/-- The place in State.groups of the group of a rank of the cluster (R31). -/
def Group.rank (g : Group) (r : Nat) : Nat := g.cluster.getD r 0

def setMem (m : TSet) (t : Nat) (v : Bool) : TSet :=
  if v then m ||| BitVec.ofNat 1024 (2 ^ t) else m &&& ~~~(BitVec.ofNat 1024 (2 ^ t))
/-- The members of a set in ascending order. -/
def tsList (m : TSet) : List Nat := (List.range 1024).filter fun t => m.getLsbD t

/-! ## Scratchpad -/

def Group.rd (g : Group) (off n : Nat) : List Byte := cRead g.scratch off n
def Group.rdNat (g : Group) (off n : Nat) : Nat := leNat (g.rd off n)
def State.scratchRead (s : State) (gi off n : Nat) : List Byte :=
  match s.groups[gi]? with | some g => g.rd off n | none => []
def State.scratchWrite (s : State) (gi off : Nat) (bs : List Byte) : State :=
  s.setGrp gi fun g => { g with scratch := cWrite g.scratch off bs }

/-- An arrival barrier is complete (R242). -/
def arvComplete (w : Dword) : Bool := w.getLsbD 63 || decide ((w.extractLsb' 0 32).toInt ≤ 0)

/-- An arrival of `n` bytes with a reason (R243). -/
def arvArrive (w : Dword) (n e : Nat) : Dword :=
  let hi := w.extractLsb' 32 32
  let hi := if e != 0 && !w.getLsbD 63 then (hi &&& 0xFF00FFFF#32) ||| BitVec.ofNat 32 (2 ^ 31 + e * 2 ^ 16) else hi
  let r := max ((w.extractLsb' 0 32).toInt - n) (-(2 ^ 31))
  let hi := if r < 0 then hi ||| BitVec.ofNat 32 (2 ^ 30) else hi
  hi ++ BitVec.ofInt 32 r

def State.arrive (s : State) (gi off n e : Nat) : State :=
  s.scratchWrite gi off (leBytes 8 (arvArrive (BitVec.ofNat 64 (leNat (s.scratchRead gi off 8))) n e).toNat)

/-- The group places of the ranks that a mask names, ascending; the issuing group's own for mask 0 (R246). -/
def Group.targets (g : Group) (own : Nat) (mask : BitVec 4) : List Nat :=
  if mask = 0 then [own] else ((List.range 4).filter fun r => mask.getLsbD r).map g.rank

/-! ## Cores and launches of a thread -/

def State.setJob (s : State) (asid : Nat) (f : Job → Job) : State :=
  { s with jobs := s.jobs.map fun j => if j.desc.asid = asid then f j else j }
def State.launch? (s : State) (asid lid : Nat) : Option Launch :=
  s.launches.find? fun l => l.asid == asid && l.id == lid
def State.setLaunch (s : State) (asid lid : Nat) (f : Launch → Launch) : State :=
  { s with launches := s.launches.map fun l => if l.asid = asid ∧ l.id = lid then f l else l }

/-- R91: events of one operation added to a tensor id's counts, each counter stopping at its maximum. -/
def addCount (tid sats flushes nans : Nat) : List Count → List Count
  | [] => [⟨tid, min sats 0xFFFFFFFF, min flushes 0xFFFFFFFF, min nans 0xFFFFFFFF⟩]
  | c :: t =>
    if c.tid = tid then
      ⟨tid, min (c.sats + sats) 0xFFFFFFFF, min (c.flushes + flushes) 0xFFFFFFFF, min (c.nans + nans) 0xFFFFFFFF⟩ :: t
    else if tid < c.tid then ⟨tid, min sats 0xFFFFFFFF, min flushes 0xFFFFFFFF, min nans 0xFFFFFFFF⟩ :: c :: t
    else c :: addCount tid sats flushes nans t

def State.tally (s : State) (asid lid tid sats flushes nans : Nat) : State :=
  if sats + flushes + nans = 0 then s
  else s.setLaunch asid lid fun l => { l with counts := addCount tid sats flushes nans l.counts }

end Sys2Proof.Machine
end

