-- ==== Sys2Proof/Machine/Hub.lean ====
section
/-! DEFINITION. The hub: the fault buffer (R302), launch records and their checks (R283 to R285), instances and their
statuses (R288), cancellation (R289), the end of engine operations (R240, R241) and the stop of a job (R308). -/

namespace Sys2Proof.Machine

/-! ## The fault buffer (R302) -/

def fbAddr (j : Job) (k : Nat) : Nat := j.desc.fbuf + 32 * k
/-- CTL of a fault-buffer entry. -/
def State.fbCtl (s : State) (j : Job) (k : Nat) : Nat := (s.peek (fbAddr j k + 15)).toNat

/-- An access enters the fault buffer: it merges into a VALID entry of its page, ASID and KIND, takes the lowest entry
that is not VALID, or waits without one. The hub's looks at entries are not accesses of R214 and activate no row; what it writes does
(DESIGN CHOICE, log entry 103: R302 and R214 do not say). -/
def State.enterFault (s : State) (p : Parked) : State :=
  match s.job p.asid with
  | none => s
  | some j =>
    let ks := List.range j.desc.fbcap
    let same (k : Nat) : Bool :=
      bit (s.fbCtl j k) 7 && s.peekNat (fbAddr j k) 8 == p.page && (s.peek (fbAddr j k + 14)).toNat == p.kind &&
        s.peekNat (fbAddr j k + 16) 2 == p.asid
    match ks.find? same with
    | some k =>
      let n := s.peekNat (fbAddr j k + 8) 4
      let s := s.homeWrite (some p.asid) (fbAddr j k + 8) (leBytes 4 (min (n + 1) 0xFFFFFFFF))
      { s with parked := s.parked ++ [{ p with entry := some k }] }
    | none =>
      match ks.find? fun k => !bit (s.fbCtl j k) 7 with
      | some k =>
        let resp := s.fbCtl j k % 4
        let s := { s with parked := s.parked.map fun (q : Parked) =>
          if q.asid = p.asid ∧ q.entry = some k then { q with entry := none, resp := some resp } else q }
        let s := s.homeWrite (some p.asid) (fbAddr j k)
          (leBytes 8 p.page ++ leBytes 4 1 ++ [0, 0, BitVec.ofNat 8 p.kind, 0x80] ++ leBytes 2 p.asid ++
            leBytes 2 p.core ++ leBytes 4 p.launch ++ leBytes 8 0)
        let s := { s with parked := s.parked ++ [{ p with entry := some k }] }
        (s.countHub 4 (some p.asid) 1).sendMsix 64 (some p.asid)
      | none => { s with parked := s.parked ++ [{ p with entry := none }] }

/-- KIND bits of R302. -/
def kindBits (engine fetch write : Bool) : Nat := 4 * b2n engine + 2 * b2n fetch + b2n write

/-- An access that is no thread's waits for an absent page. -/
def State.parkEngine (s : State) (asid va core launch : Nat) (write : Bool) (who : Who) : State :=
  s.enterFault ⟨asid, va % 2 ^ 57 / 4096 * 4096, kindBits true false write, core, launch, who, none, none,
    BitVec.ofNat 64 va, false⟩

/-! ## The end of an engine operation (R240, R241) -/

/-- The completion word of R241: written once, at its translated address. -/
def engWord (reason : Nat) : Nat := 2 ^ 31 + (if reason = 0 then 0 else reason * 256 + 1)

/-- Write of 8 bytes at a completion word's virtual address; none when its page is absent. A page that has come to fail in
another way since the address was checked receives nothing. -/
def State.putWord (s : State) (asid : Nat) (cw : Dword) (v : Nat) : Option State :=
  match s.check asid cw.toNat .write isNormal with
  | .absent => none
  | .ok pa _ _ => some (s.homeWrite (some asid) pa (leBytes 8 v))
  | _ => some s

/-- A completion word, where its page lets it be written. An operation that has made its accesses waited for the word's page before
(R240); of one that a cancel or the pager ends, no word is written while the page is absent (DESIGN CHOICE, log entry 98). -/
def State.putWordOr (s : State) (asid : Nat) (cw : Dword) (v : Nat) : State := (s.putWord asid cw v).getD s

/-- The completion word of a group's operation, and what its join may see (R118, R241). -/
def State.signalWord (s : State) (gi asid : Nat) (cw : Dword) (v : Nat) : State := (s.putWordOr asid cw v).freshL1 gi

/-- The outcome of a grammar operation recorded where GWAIT finds it (R276), and in the segment when it is an error. -/
def Group.endGram (g : Group) (id : Nat) (r : EngRes) : Group :=
  { g with
    gram := g.gram.map fun o => if o.id = id then { o with res := some r } else o
    seg := g.seg.map fun x => if r = .ok then x else { x with fault := some (x.fault.getD r) } }

/-- A tag left empty by a weight load that ended with an error (R256). -/
def State.emptySlot (s : State) (core slot : Nat) : State :=
  s.setCore core fun c => { c with slots := c.slots.modify slot fun w => { w with tag := none, vals := [] } }

/-- An operation ends with an error: reported at each barrier or completion word that it would have signalled (R240). -/
def State.endOp (s : State) (o : EngOp) (reason : Nat) : State :=
  let s := { s with
    ops := s.ops.filter (fun x => x.id != o.id)
    parked := s.parked.filter fun p => p.who != .op o.id }
  match s.groups[o.grp]? with
  | none => s
  | some g =>
    match o.kind with
    | .cpy _ _ mask _ _ bar => (g.targets o.grp mask).foldl (fun s t => s.arrive t bar 0 reason) s
    | .cpyo _ _ _ _ cw => s.signalWord o.grp o.asid cw (engWord reason)
    | .cpyhTo _ _ _ _ cw => s.signalWord o.grp o.asid cw (engWord reason)
    | .cpyhFrom _ _ _ _ cw => s.signalWord o.grp o.asid cw (engWord reason)
    | .cpyx mask _ _ dbar sbar =>
      ((g.targets o.grp mask).foldl (fun s t => s.arrive t dbar 0 reason) s).arrive o.grp sbar 0 reason
    | .mma _ _ _ _ _ _ _ bar => s.arrive o.grp bar 0 reason
    | .mmz _ _ bar => s.arrive o.grp bar 0 reason
    | .wbld _ slot _ _ bar => (s.emptySlot g.core (g.accBase / 16 + slot)).arrive o.grp bar 0 reason
    | .wbrel bar => s.arrive o.grp bar 0 reason
    | .accld _ _ _ _ _ _ bar => s.arrive o.grp bar 0 reason
    | .accst _ _ _ _ _ _ bar => s.arrive o.grp bar 0 reason
    | .grun _ => s.setGrp o.grp fun g => g.endGram o.id (.err reason)
    | .gout => s.setGrp o.grp fun g => g.endGram o.id (.err reason)

/-- The answer to a contribution: an arrival with a reason at the barrier it names, in each rank of its RECV (R263). -/
def State.answerCred (s : State) (c : Contrib) (reason : Nat) : State :=
  match s.groups[c.grp]? with
  | none => s
  | some g => ((List.range 4).filter fun r => c.recv.getLsbD r).foldl (fun s r => s.arrive (g.rank r) c.bOff 0 reason) s

/-- Reduction instances that a group of the list contributed to end with reason CANCELLED (R260). The rule does not say where an
open instance reports it: DESIGN CHOICE (log entry 72), at the barrier of every contribution not yet answered, in each rank of
that contribution's RECV, as a mismatched instance does. -/
def State.cancelCreds (s : State) (gs : List Nat) : State :=
  let hit (x : CredOne) : Bool := x.contribs.any fun c => gs.contains c.grp
  let s' := (s.creds.filter hit).foldl (fun s x =>
    (x.contribs.filter fun c => !c.answered).foldl (fun s c => s.answerCred c 7) s) s
  { s' with creds := s'.creds.filter fun x => !hit x }

/-- One more registration or request of a job has returned DONE: pairs retained for 4 096 of them are forgotten (R217). -/
def State.laterRow (s : State) (asid : Nat) : State :=
  { s with rowFns := (s.rowFns.map fun (g : RowFn) =>
      if g.asid = asid ∧ g.done.isSome then { g with later := g.later + 1 } else g).filter fun g => !(g.done.isSome && g.later ≥ 4096) }

/-- The register in which a thread waits for a row function to be accepted. -/
def State.rowWaiter (s : State) (handle : Nat) (r : ThreadRef) : Option (ThreadRef × Nat) :=
  match (s.thr r).map Thread.status with
  | some (.blocked (.rowFn h d) _) => if h = handle then some (r, d) else none
  | _ => none

/-- The function is accepted everywhere: its thread goes on with DONE and the handle, an acquire for its core (R132, R220). -/
def State.rowAccepted (s : State) (f : RowFn) : State :=
  match s.groups[f.grp]? with
  | none => s
  | some g =>
    match (List.range g.threads.length).findSome? fun t => s.rowWaiter f.handle ⟨f.grp, t⟩ with
    | none => s
    | some (r, d) => ((s.laterRow f.asid).clearL1 g.core).wake r (dWrites d [0, f.name])

/-- Rows of a function whose application is still to come, and those that are counted as poisoned instead (R210). -/
def State.openRows (s : State) (f : RowFn) : List Nat := f.rows.filter fun r => !s.poisoned.contains r
def State.badRows (s : State) (f : RowFn) : List Nat := f.rows.filter s.poisoned.contains

/-- Row functions lose their remaining applications and complete (R218, R224): CANCELLED where an application was removed, DONE
where only poisoned rows were left. The banks that had not yet accepted one do so as the cancel reaches them. -/
def State.cancelRows (s : State) (sel : RowFn → Bool) : State :=
  let hit (f : RowFn) : Bool := f.done.isNone && sel f
  let fs := s.rowFns.filter hit
  if fs.isEmpty then s else
  let s := { s with
    rowApps := s.rowApps.filter fun a => !(fs.any fun f => f.handle == a.2)
    rowFns := s.rowFns.map fun (f : RowFn) =>
      if hit f then
        { f with cancelled := !(s.openRows f).isEmpty, poisoned := f.poisoned + (s.badRows f).length, banks := [], rows := [] }
      else f }
  ((fs.filter fun f => !f.banks.isEmpty).foldl State.rowAccepted s).finishFns

/-- The completion word's address: usable, absent, or faulting with a code. -/
def State.collWord (s : State) (c : Coll) : Chk × Option FCode :=
  if c.cword.toNat % 8 != 0 then (.perm, some .misalign)
  else match s.check c.asid c.cword.toNat .write isNormal with
    | .absent => (.absent, none)
    | .perm => (.perm, some .xlatePermission)
    | .memtype => (.memtype, some .memtype)
    | k => (k, none)

/-- The CAUSE of a fault at a completion word (R337). -/
def wordCause (code : FCode) (cw : Dword) : List Byte :=
  List.replicate 28 0 ++ [BitVec.ofNat 8 code.code] ++ List.replicate 11 0 ++ leBytes 8 cw.toNat ++ List.replicate 16 0

/-- Collective operations of the groups, with their descriptors read. -/
def State.collsOf (s : State) (gs : List Nat) : List Coll := s.colls.filter fun c => gs.contains c.grp && c.desc.isNone

/-- The first of them whose completion word faults, with the fault: it stops the job (R324). -/
def State.collFault (s : State) (gs : List Nat) : Option (Coll × FCode) :=
  (s.collsOf gs).findSome? fun c => (s.collWord c).2.map fun k => (c, k)

/-- Collective operations of the groups end with reason CANCELLED, at each completion word that can be written (R324). -/
def State.cancelColls (s : State) (gs : List Nat) : State :=
  let s' := (s.collsOf gs).foldl
    (fun s c => if (s.collWord c).2.isSome then s else s.signalWord c.grp c.asid c.cword (engWord 7)) s
  { s' with colls := s'.colls.filter fun c => !gs.contains c.grp }

/-- A parked access belongs to a group of the list. -/
def Who.ofGroups (gs : List Nat) (s : State) : Who → Bool
  | .thread t => gs.contains t.grp
  | .op id => s.ops.any fun o => o.id == id && gs.contains o.grp
  | .start g => gs.contains g
  | .stats _ _ => false
  | .swapIn g => gs.contains g
  | .seg g _ => gs.contains g
  | .coll id => s.colls.any fun c => c.id == id && gs.contains c.grp

/-- A record holds a thread of the groups. -/
def Trap.ofGroups (gs : List Nat) (t : Trap) : Bool := match t.thread with | some r => gs.contains r.grp | none => false

/-- A thread that a cancel stops (R289): it executes nothing more. -/
def Thread.stop (t : Thread) : Thread := { t with status := .exited, depth := 0, stack := [], windows := [], held := none }

/-- The groups of a list stop: threads at a boundary of their own, parked accesses abandoned, traps discarded, engine
operations ended with CANCELLED, row functions as under ROWCANCEL (R289). A record that a handler group is already serving is
discarded with its RESUME; its KILL, or its end without either, has no effect then (DESIGN CHOICE, log entry 95: R289 says so of the
RESUME only). -/
def State.stopGroups (s : State) (gs : List Nat) : State :=
  let s := { s with
    parked := s.parked.filter fun p => !p.who.ofGroups gs s
    traps := (s.traps.filter fun (t : Trap) => !(t.ofGroups gs && t.handler.isNone)).map fun (t : Trap) =>
      if t.ofGroups gs then { t with thread := none, ended := true } else t }
  let s := gs.foldl (fun s gi => s.setGrp gi fun g => { g with threads := g.threads.map Thread.stop }) s
  let s := (s.ops.filter fun o => gs.contains o.grp).foldl (fun s o => s.endOp o 7) s
  ((s.cancelCreds gs).cancelRows fun f => gs.contains f.grp).cancelColls gs

/-- The places of the groups that satisfy a test and have not completed. -/
def State.groupsWhere (s : State) (p : Group → Bool) : List Nat :=
  (List.range s.groups.length).filter fun gi => match s.groups[gi]? with | some g => g.status != .done && p g | none => false

/-! ## Launch records (R283 to R285) -/

def LaunchRec.ofBytes (bs : List Byte) : LaunchRec :=
  let w := leNat bs
  let f (lo n : Nat) : Nat := w / 2 ^ (8 * lo) % 2 ^ (8 * n)
  let ctl := f 78 1
  { entry := BitVec.ofNat 64 (f 0 8), params := BitVec.ofNat 64 (f 8 8), dict := BitVec.ofNat 64 (f 16 8)
    spill := BitVec.ofNat 64 (f 24 8), stats := BitVec.ofNat 64 (f 32 8)
    ngroups := f 40 4, scratch := f 44 4, quant := f 48 4, graph := f 52 4, phase := f 56 4
    dep0 := f 60 4, dep1 := f 64 4, nthreads := f 68 2, acc := f 70 2, espill := f 72 2, cap := f 74 2
    nregs := f 76 1 + 1, nparam := f 77 1, prio := ctl / 32, csize := ctl / 8 % 4
    lastg := bit ctl 2, endp := bit ctl 1, overlap := bit ctl 0, tapem := bit (f 79 1) 0
    resv := f 88 40 != 0 || f 79 1 / 2 != 0 }

/-- A field breaks its Values column; `hand` is a handler record, some of whose fields are ignored (R284). -/
def LaunchRec.badRange (r : LaunchRec) (hand : Bool) : Bool :=
  r.csize == 3 || r.nparam > (if hand then 62 else 64) || r.nthreads == 0 || r.nthreads > 1024 ||
  r.acc > 512 || r.acc % 64 != 0 || r.scratch > 393216 || r.stats.toNat % 16 != 0 || (r.stats == 0 && r.cap != 0) ||
  r.spill.toNat % 8 != 0 || r.dict.toNat % 8192 != 0 || r.params.toNat % 4 != 0 || (r.params == 0 && r.nparam != 0) ||
  r.entry.toNat % 4 != 0 || [r.entry, r.params, r.dict, r.spill, r.stats].any (fun a => !canonical a.toNat) ||
  (!hand && (r.ngroups == 0 || r.ngroups % 2 ^ r.csize != 0 || (r.lastg && r.graph == 0) || (r.endp && r.phase == 0)))

/-- Core c is enabled (R4, R42). -/
def State.coreOn (s : State) (c : Nat) : Bool := c < s.numCores && !s.build.disabled.contains c
/-- The enabled cores of a quad. -/
def State.quadCores (s : State) (q : Nat) : List Nat := (List.range' (4 * q) 4).filter s.coreOn
/-- Some quad holds a cluster of `n` groups (R45). -/
def State.quadHolds (s : State) (n : Nat) : Bool := (List.range (s.numCores / 4)).any fun q => n ≤ (s.quadCores q).length

/-- The greatest number of one group's threads on one partition (R27, R284): those of partition 0. -/
def partThreads (n p : Nat) : Nat := (List.range n).countP fun t => t / 32 % 8 == p

/-- The most recent instance of an identifier (R285). -/
def State.inst? (s : State) (asid : Nat) (isPhase : Bool) (ident : Nat) : Option Inst :=
  (s.insts.filter fun i => i.asid == asid && i.isPhase == isPhase && i.ident == ident).getLast?

/-- The first reason of R284 that refuses a record, in the table's order. -/
def State.recordReason (s : State) (asid : Nat) (r : LaunchRec) (hand : Bool) : Option Nat :=
  if r.resv then some 1
  else if r.badRange hand then some 2
  else if !s.quadHolds (2 ^ r.csize) then some 3
  else if partThreads r.nthreads 0 * r.nregs * 4 > 65536 then some 4
  else if hand then none
  else match s.job asid with
  | none => some 8
  | some j =>
    if j.stopping.isSome then some 8
    else if j.desc.qslots == 0 || r.nthreads * r.nregs * 4 > j.desc.qreg * 1024 || r.scratch > j.desc.qscr || r.acc > j.desc.qacc
    then some 5
    else if [r.dep0, r.dep1].any (fun d => d != 0 && (s.launch? asid d).isNone) then some 6
    else
      let closed (isPhase : Bool) (ident : Nat) : Bool :=
        ident != 0 && match s.inst? asid isPhase ident with | some i => i.closed && i.status.isNone | none => false
      if closed false r.graph || closed true r.phase then some 7 else none

/-- A new instance of a graph or a phase opens (R285). -/
def State.openInst (s : State) (asid : Nat) (isPhase : Bool) (ident : Nat) (tape : Bool) : State × Nat :=
  ({ s with
      insts := s.insts ++ [{ serial := s.nextSerial, asid, isPhase, ident, closed := false, cancelled := false, tapeMode := tape,
                             replay := false, lastPop := none, popRefused := false, status := none }]
      nextSerial := s.nextSerial + 1 }, s.nextSerial)

/-- Membership in a graph or phase instance, opened when none is open (R285). -/
def State.joinInst (s : State) (asid : Nat) (isPhase : Bool) (ident : Nat) (close tape : Bool) : State × Option Nat :=
  if ident = 0 then (s, none) else
  let (s, serial) := match s.inst? asid isPhase ident with
    | some i => if i.closed then s.openInst asid isPhase ident tape else (s, i.serial)
    | none => s.openInst asid isPhase ident tape
  ({ s with insts := s.insts.map fun i => if i.serial = serial then { i with closed := i.closed || close } else i }, some serial)
/-- A record becomes the job's next launch (R285). -/
def State.accept (s : State) (asid : Nat) (r : LaunchRec) (o : Origin) (phase : Option Nat) (pred : Option Nat) : State × Nat :=
  let id := ((s.job asid).map Job.nextId).getD 1
  let (s, g) := if phase.isSome then (s, none) else s.joinInst asid false r.graph r.lastg false
  let (s, p) := if phase.isSome then (s, phase) else s.joinInst asid true r.phase r.endp r.tapem
  let s := (s.setJob asid fun j => { j with nextId := j.nextId + 1 }).countHub 1 (some asid) 1
  let l : Launch := ⟨asid, id, r, o, g, p, pred, 0, 0, false, false, [], false, none⟩
  ({ s with launches := s.launches ++ [l] }, id)

/-! ## Statuses (R288) -/

def CStat.code : CStat → Nat | .done => 0 | .cancelled => 3 | .faulted => 4

/-- The instances that a launch or graph or phase belongs to complete once closed with every member complete (R288). -/
def State.instDone (s : State) (i : Inst) : Option CStat :=
  let ms := s.launches.filter fun l => l.asid == i.asid && (if i.isPhase then l.phase else l.graph) == some i.serial
  let tapeLeft := i.isPhase && i.tapeMode && !i.cancelled &&
    (!i.replay || match s.job i.asid with | some j => j.tapeN != 0 | none => false)
  if i.status.isSome || !i.closed || tapeLeft || ms.any (fun l => l.status.isNone) then none
  else if i.popRefused || ms.any (fun l => l.status == some .faulted) then some .faulted
  else if i.cancelled || ms.any (fun l => l.status == some .cancelled) then some .cancelled
  else some .done

def State.updateInsts (s : State) : State :=
  { s with insts := s.insts.map fun i => match s.instDone i with | some c => { i with status := some c } | none => i }

/-- The status of a launch that completes (R288). -/
def State.launchStatus (s : State) (l : Launch) : CStat :=
  let stop := (s.job l.asid).bind fun j => j.stopping.map Prod.fst
  match stop with
  | some .cancel => if l.rejected then .faulted else .cancelled
  | some .stage3 => if l.rejected then .faulted else .cancelled
  | some _ => .faulted
  | none => if l.rejected then .faulted else if l.cancelled then .cancelled else .done

/-! ## The stop of a job (R308) -/

/-- A job stops: every instance is cancelled, the tape and the parkings are discarded, and an instance of which nothing is left
completes (R288). A job that is stopping keeps its first cause. -/
def State.jobStop (s : State) (asid : Nat) (kind : StopKind) (cause : List Byte) : State :=
  match s.job asid with
  | none => s
  | some j =>
    if j.stopping.isSome then s else
    let s := s.setJob asid fun j => { j with stopping := some (kind, cause), tapeN := 0, pre := none, stage2 := false, suspended := false }
    let s := { s with
      insts := s.insts.map fun (i : Inst) => if i.asid = asid ∧ i.status.isNone then { i with cancelled := true } else i
      launches := s.launches.map fun (l : Launch) => if l.asid = asid ∧ l.status.isNone then { l with cancelled := true } else l
      parked := s.parked.filter fun p => p.asid != asid
      traps := s.traps.filter fun t => t.asid != asid }
    (s.stopGroups (s.groupsWhere fun g => g.asid == asid)).updateInsts

/-- A cancel acts on one launch (R289); a fault at the completion word of a collective that it ends stops the job (R324). -/
def State.cancelLaunch (s : State) (asid lid : Nat) : State :=
  let s := s.setLaunch asid lid fun l => if l.status.isSome then l else { l with cancelled := true }
  let ofLaunch (t : Trap) : Bool := t.asid == asid && t.tr.info.code == .quota && t.tr.launch.toNat == lid
  let s := { s with
    traps := (s.traps.filter fun t => !(ofLaunch t && t.handler.isNone)).map fun (t : Trap) =>
      if ofLaunch t then { t with ended := true } else t }
  let gs := s.groupsWhere fun g => g.asid == asid && g.launch == lid && g.handler.isNone
  match s.collFault gs with
  | none => s.stopGroups gs
  | some (c, k) => (s.stopGroups gs).jobStop asid .traparea (wordCause k c.cword)

/-! ## Trap records (R303) -/

/-- The 64 bytes of a record. -/
def TrapRec.bytes (r : TrapRec) : List Byte :=
  leBytes 8 r.pc.toNat ++ leBytes 16 r.insn.toNat ++ leBytes 4 r.shortw.toNat ++ [BitVec.ofNat 8 r.info.code.code] ++
  [BitVec.ofNat 8 (4 * b2n r.window + 2 * b2n r.insnValid + b2n r.short)] ++ leBytes 2 r.tid.toNat ++ leBytes 4 r.gid.toNat ++
  leBytes 4 r.launch.toNat ++ leBytes 8 r.info.addr.toNat ++ leBytes 4 r.info.detail.toNat ++ leBytes 4 r.info.detail2.toNat ++
  leBytes 2 r.core.toNat ++ leBytes 2 0 ++ leBytes 4 r.seq.toNat

/-- The lowest slot of a core's trap area that no record of the job holds. -/
def State.freeSlot (s : State) (asid core : Nat) : Option Nat :=
  (List.range 16).find? fun k => !s.traps.any fun t => t.asid == asid && t.core == core && t.slot == some k

/-- The address of a slot of the trap area (R303). -/
def slotAddr (j : Job) (core k : Nat) : Dword := j.desc.traps + BitVec.ofNat 64 (1024 * core + 64 * k)

/-- A record without a slot takes a free one and is written; a fault of that write stops the job (R303). -/
def State.writeTrap (s : State) (id : Nat) : State :=
  match s.traps.find? fun t => t.id == id with
  | none => s
  | some t =>
    match s.job t.asid, s.freeSlot t.asid t.core with
    | some j, some k =>
      match s.check t.asid (slotAddr j t.core k).toNat .write isNormal with
      | .ok pa _ _ =>
        let s := s.homeWrite (some t.asid) pa t.tr.bytes
        { s with traps := s.traps.map fun (x : Trap) => if x.id = id then { x with slot := some k } else x }.countHub 5 (some t.asid) 1
      | _ => s.jobStop t.asid .traparea t.tr.bytes
    | _, _ => s

/-- Records that wait for a slot take those that are free (R303). -/
def State.fillSlots (s : State) : State :=
  (s.traps.filter fun t => t.slot.isNone && t.thread.isSome).foldl (fun s t => s.writeTrap t.id) s

/-! ## Completion of groups (R32) -/

/-- Every thread has exited and every engine operation the group issued has completed. -/
def State.groupOver (s : State) (gi : Nat) (g : Group) : Bool :=
  g.status != .done && g.allExited && !(s.ops.any fun o => o.grp == gi) &&
  !(s.rowFns.any fun f => f.grp == gi && f.done.isNone) && !(s.colls.any fun c => c.grp == gi) &&
  !(s.creds.any fun x => x.contribs.any fun c => c.grp == gi && !c.answered)

/-- A handler group that ends: its slot frees, and without a RESUME or KILL it acts as KILL (R305). -/
def State.endHandler (s : State) (id : Nat) : State :=
  match s.traps.find? fun t => t.id == id with
  | none => s
  | some t =>
    let s := { s with traps := s.traps.filter fun x => x.id != id }
    if t.ended then s else s.jobStop t.asid .kill t.tr.bytes

def State.completeGroup (s : State) (gi : Nat) : State :=
  match s.groups[gi]? with
  | none => s
  | some g =>
    if !s.groupOver gi g then s else
    let s := s.setGrp gi fun g => { g with status := .done, seg := none }
    match g.handler with
    | some id => s.endHandler id
    | none => s.setLaunch g.asid g.launch fun l => { l with doneGroups := l.doneGroups + 1 }

/-- A pre-emption ends once no ordinary group of its job is resident: the job is suspended (R291, R292). -/
def State.endPreempt (s : State) : State :=
  { s with jobs := s.jobs.map fun (j : Job) =>
      if j.pre.isSome && !(s.groups.any fun g => g.asid == j.desc.asid && g.handler.isNone && g.resident)
      then { j with pre := none, stage2 := false, suspended := true } else j }

/-- What follows every step: groups complete, records that wait take free slots, pre-emptions end. -/
def State.settle (s : State) : State :=
  ((List.range s.groups.length).foldl State.completeGroup s).fillSlots.endPreempt

end Sys2Proof.Machine
end

