-- ==== Sys2Proof/Machine/Ops.lean ====
section
/-! DEFINITION. How a thread executes an instruction: its fetch (R47, R48), the checks of R77 in their order, taking a trap
(R301 to R304) and the return from one (R310), parking (R302), blocking (R33), and completing with or without a lookahead
window (R59 to R62). -/

namespace Sys2Proof.Machine

/-! ## Traps -/

/-- A thread waits with the instruction it holds, to execute it again (R33). -/
def State.poll (s : State) (r : ThreadRef) (w : Wait) (insn : Option (BitVec 128)) (shortw : Option Word) : State :=
  s.setThr r fun t => { t with status := .blocked w t.pc, held := insn.map fun b => ⟨b, shortw⟩ }

/-- Its instruction has taken effect and the thread waits to be woken, to go on at `next` (R33). -/
def State.block (s : State) (r : ThreadRef) (w : Wait) (next : Pc) : State :=
  s.setThr r fun t => { { t with pc := next, badPc := none, held := none }.tick with status := .blocked w next }

/-- The fields of a trap record that is built for a thread (R303). -/
def trapRec (j : Job) (g : Group) (r : ThreadRef) (t : Thread) (insn : Option (BitVec 128)) (shortw : Option Word)
    (info : TrapInfo) : TrapRec where
  seq := BitVec.ofNat 32 j.seq
  core := BitVec.ofNat 16 g.core
  info := info
  launch := BitVec.ofNat 32 g.launch
  gid := BitVec.ofNat 32 g.gid
  tid := BitVec.ofNat 16 r.tid
  window := t.windows.any fun w => w.left != 0
  insnValid := insn.isSome
  short := shortw.isSome
  shortw := shortw.getD 0
  insn := insn.getD 0
  pc := t.pc

/-- Taking a trap (R301 to R305, R308): every earlier result is delivered, the record takes the job's next SEQ and is
written to a free slot of the core's trap area, and the thread is held. A fault in a handler group, an ASSERT, and a trap of
a job without a handler stop the job. -/
def State.takeTrap (s : State) (r : ThreadRef) (insn : Option (BitVec 128)) (shortw : Option Word) (info : TrapInfo) :
    State :=
  match s.groups[r.grp]?, s.thr r with
  | some g, some t =>
    if t.pending then s.setThr r fun t => { t with status := .blocked (.fault info insn shortw) t.pc, held := none } else
    match s.job g.asid with
    | none => s
    | some j =>
      let s := s.setThr r Thread.deliverAll
      let x := trapRec j g r t.deliverAll insn shortw info
      let s := s.setJob g.asid fun j => { j with seq := j.seq + 1 }
      if g.handler.isSome then s.jobStop g.asid .handler x.bytes
      else if info.code = .assert then s.jobStop g.asid .assert x.bytes
      else if j.handler.isNone then s.jobStop g.asid .nohandler x.bytes
      else
        let id := s.nextSerial
        let s := s.setThr r fun t => { t with status := .trapped id, held := none }
        let s := { s with
          nextSerial := id + 1
          traps := s.traps ++ [Trap.mk id g.asid x g.core none (some r) 0 none false] }
        s.writeTrap id
  | _, _ => s

/-- The address at which a thread goes on that a handler lets skip its instruction; none when skip acts as retry (R310). -/
def skipTo (x : TrapRec) : Option Pc :=
  if x.short then some (x.pc + 4)
  else if x.insnValid then some (x.pc + BitVec.ofNat 57 (lengthOf x.insn)) else none

/-- The return from a trap (R310): the thread executes the instruction again, or goes on behind it, the skipped instruction
counting in every open window (R62). A skipped instruction that carries L opens no window of its own (DESIGN CHOICE, log entry 100: R59
and R62 do not say). -/
def State.resumeThread (s : State) (x : Trap) (skip : Bool) : State :=
  match x.thread with
  | none => s
  | some r => s.setThr r fun t =>
      match (if skip then skipTo x.tr else none) with
      | some p => t.complete p []
      | none => { t with status := .ready, held := none }

/-- A thread's access to an absent page parks it with its instruction; the access enters the fault buffer (R302). -/
def State.parkThread (s : State) (r : ThreadRef) (insn : Option (BitVec 128)) (shortw : Option Word) (addr : Dword)
    (fetch write : Bool) : State :=
  match s.groups[r.grp]? with
  | none => s
  | some g =>
    let s := s.setThr r fun t => { t with status := .parked, held := insn.map fun b => ⟨b, shortw⟩ }
    s.enterFault ⟨g.asid, addr.toNat % 2 ^ 57 / 4096 * 4096, kindBits false fetch write, g.core, g.launch, .thread r, none,
      none, addr, false⟩

/-! ## Execution of one instruction -/

/-- What an instruction's meaning reads of its thread. -/
structure Ctx where
  ref : ThreadRef
  g : Group
  t : Thread
  /-- the address of the instruction that follows (R182). -/
  next : Pc

/-- How an instruction ends for its thread. -/
inductive Eff where
  /-- it completes with these results. -/
  | done (s : State) (ws : List Write)
  /-- it completes, and its result is still to come (R61, R188). -/
  | pend (s : State) (res : WRes)
  /-- it completes by a transfer to an address. -/
  | jump (s : State) (pc : Dword)
  | trap (info : TrapInfo)
  /-- it faults, and what it did before stands. -/
  | trapIn (s : State) (info : TrapInfo)
  /-- its access at an address meets an absent page. -/
  | park (addr : Dword) (write : Bool)
  /-- nothing has happened yet; it waits and is executed again. -/
  | poll (w : Wait)
  /-- it has been performed and its thread placed by the meaning itself. -/
  | raw (s : State)

/-- The outcome of a meaning whose checks may end it early. -/
def Eff.of : Except Eff Eff → Eff
  | .ok e => e
  | .error e => e

/-- A fault without details. -/
def FCode.at (c : FCode) (addr : Dword) : TrapInfo := ⟨c, 0, 0, addr⟩
def FCode.detail (c : FCode) (d d2 : Nat) : TrapInfo := ⟨c, BitVec.ofNat 32 d, BitVec.ofNat 32 d2, 0⟩

/-- KIND and number of a register as LOOKAHEAD_HAZARD's DETAIL gives them (R303); the order of registers there is that of
these numbers. -/
def RegName.code : RegName → Nat
  | .d n => n | .q n => 256 + n | .g n => 512 + n | .fstat => 768

/-- The registers of open windows' destination sets that an instruction names (R60). -/
def Thread.hazards (t : Thread) (names : List RegName) : List RegName :=
  names.filter fun n => t.windows.any fun w => w.left != 0 && w.dset.contains n
def hazardDetail (ns : List RegName) : Nat := (ns.map RegName.code).foldl min 1023

/-- A thread counts an instruction whose guard fails (R14, R59). -/
def Thread.passOver (t : Thread) (next : Pc) (look : Nat) (dset : List RegName) : Thread :=
  if look = 0 then t.complete next [] else t.completeLook next look dset (.vals [])

/-- The guard as results that have arrived leave it (R52, R60). -/
def Thread.guardHolds (t : Thread) (h : Hdr) : Bool := t.deliverAll.pred h.guard.toNat != h.neg

/-- The guard's predicate is written by a result that is still outstanding. -/
def Thread.guardOpen (t : Thread) (h : Hdr) : Bool :=
  t.windows.any fun w => !w.res.resolved && w.dset.contains (.q h.guard.toNat)

/-- A change of a thread that has not exited: what its instruction stopped stays stopped (R289). -/
def State.setLive (s : State) (r : ThreadRef) (f : Thread → Thread) : State := s.setThr r fun t => if t.live then f t else t

/-- Placing the thread after its instruction. -/
def State.settleEff (s : State) (c : Ctx) (insn : BitVec 128) (look : Nat) (dset : List RegName) : Eff → State
  | .done u ws =>
    u.setLive c.ref fun t => if look = 0 then t.complete c.next ws else t.completeLook c.next look dset (.vals ws)
  | .pend u res => u.setLive c.ref fun t => t.completeLook c.next look dset res
  | .jump u pc =>
    u.setThr c.ref fun t =>
      { t.complete (pc.extractLsb' 0 57) [] with badPc := if canonical pc.toNat then none else some pc }
  | .trap info => s.takeTrap c.ref (some insn) s.cur.shortw info
  | .trapIn u info => u.takeTrap c.ref (some insn) s.cur.shortw info
  | .park addr w => s.parkThread c.ref (some insn) s.cur.shortw addr false w
  | .poll w => s.poll c.ref w (some insn) s.cur.shortw
  | .raw u => u

/-- A step of the device: nothing happens while the device is frozen (R328). -/
def event (s : State) (f : State → State) : Host.Outcome State Fault Refusal := .next (if s.frozen then s else f s)

/-- FEAT2's bit for the unit of an opcode is 0 (R44). -/
def State.unitAbsent (s : State) (op : Nat) : Bool :=
  match unitOf op with | some b => !s.build.units.getLsbD b | none => false

/-- Steps 3 and 4 of R77, then `checks`, then the body, for the current thread. -/
def State.issueWith (s : State) (h : Hdr) (op : Nat) (insn : BitVec 128) (look : Nat) (dset : List RegName)
    (checks : Ctx → Option TrapInfo) (body : Ctx → State → Eff) : Host.Outcome State Fault Refusal :=
  match s.groups[s.cur.ref.grp]?, s.thr s.cur.ref with
  | some g, some t =>
    let c : Ctx := ⟨s.cur.ref, g, t, t.pc + BitVec.ofNat 57 (if s.cur.shortw.isSome then 4 else h.len.bytes)⟩
    if t.guardOpen h then .next (s.poll c.ref .results (some insn) s.cur.shortw)
    else if !t.guardHolds h then .next (s.setThr c.ref fun t => t.passOver c.next look dset)
    else if s.unitAbsent op then .next (s.takeTrap c.ref (some insn) s.cur.shortw (FCode.unitAbsent.at 0))
    else match checks c with
      | some i => .next (s.takeTrap c.ref (some insn) s.cur.shortw i)
      | none => .next (s.settleEff c insn look dset (body c s))
  | _, _ => .fault .noThread

/-- CCTL and PREF raise no fault beyond steps 1 to 6 of R77 (R173). -/
def hintOnly : Instr → Bool
  | .cctlRange _ _ _ => true | .cctlAll _ => true | .pref _ _ _ => true | _ => false

/-- Steps 5 to 7 of R77. -/
def checksOf (i : Instr) (c : Ctx) : Option TrapInfo :=
  match i with
  | .illegalOpcode _ => some (FCode.illegalOpcode.at 0)
  | i =>
    if !(legal i && regsExist c.g.nregs i) then some (FCode.illegalVariant.at 0)
    else
      let hz := c.t.hazards (namesOf i)
      if hz.isEmpty || hintOnly i then none else some (FCode.lookaheadHazard.detail (hazardDetail hz) 0)

/-- The lookahead that an instruction opens a window with (R59). -/
def lookOf (i : Instr) : Nat := if mayLook i then (hdrOf i).look.toNat else 0

/-- An instruction's bits. -/
def insnOf (i : Instr) : BitVec 128 := (encode i).getD 0

/-- The current thread executes an instruction. -/
def issue (i : Instr) (s : State) (body : Ctx → State → Eff) : Host.Outcome State Fault Refusal :=
  s.issueWith (hdrOf i) (opcodeOf i) (insnOf i) (lookOf i) (destSet i) (checksOf i) body

/-- The instruction that the opcode and VARIANT of an encoding name which no entry allows: with its fields as they stand, or,
where an operand kind is reserved, without them. -/
def rawNamed (r : Raw) : Option Instr :=
  match pick r with
  | some i => some i
  | none => pick { r with srcb := 0, mod := 0, hi := 0 }

/-- The lookahead and destination set of the window that such an encoding opens when it names an instruction of R58's table. -/
def rawWindow (r : Raw) : Nat × List RegName :=
  match rawNamed r with
  | some i => if mayLook i then (r.hdr.look.toNat, destSet i) else (0, [])
  | none => (0, [])

/-- An encoding that the opcode's entry does not allow (R53 to R58). Where its guard fails, R77 checks nothing further and the
window of R59 does not depend on the guard: it opens with the lookahead L and, as its destination set, the registers that the
fields name, for an instruction of R58's table (DESIGN CHOICE, log entry 73: R59 gives a destination set to an entry's
encodings only). -/
def execIllegalVariant (r : Raw) (s : State) : Host.Outcome State Fault Refusal :=
  s.issueWith r.hdr r.op.toNat r.toBits (rawWindow r).1 (rawWindow r).2 (fun _ => some (FCode.illegalVariant.at 0)) fun _ s => .raw s

/-- An unassigned opcode (R74, R76). -/
def execIllegalOpcode (r : Raw) (s : State) : Host.Outcome State Fault Refusal :=
  issue (.illegalOpcode r) s fun _ _ => .trap (FCode.illegalOpcode.at 0)

/-! ## Fetch (R47, R48) -/

/-- What the fetch at a thread's pc gives. -/
inductive Fetched where
  | bits (w : BitVec 128)
  | trap (info : TrapInfo)
  | absent (addr : Dword)
  deriving DecidableEq, Repr

/-- The pc as a 64-bit virtual address. -/
def pcAddr (p : Pc) : Dword := p.signExtend 64

/-- The bytes at a physical address as the bits of one instruction. -/
def State.insnAt (s : State) (pa n : Nat) : BitVec 128 := BitVec.ofNat 128 (leNat (s.peekBytes pa n))

/-- The 32-byte block that holds an instruction is read at its home (R48): an access through a NORMAL page like any other, before
which pending applications are made and sibling state ends (R124, R214). Nothing is read where translation refuses it. -/
def State.fetchBlock (s : State) (core asid : Nat) (t : Thread) : State :=
  if t.pc.toNat % 4 != 0 || t.badPc.isSome then s else
  match s.check asid (pcAddr t.pc).toNat .fetch isNormal with
  | .ok pa _ _ => s.access (some (core / 48)) (some asid) true false (pa / 32 * 32) 32
  | _ => s

/-- What the fetch finds, its block once read. -/
def State.fetch (s : State) (asid : Nat) (t : Thread) : Fetched :=
  if t.pc.toNat % 4 != 0 then .trap (FCode.fetchAlign.at 0) else
  match t.badPc with
  | some a => .trap (FCode.xlatePermission.at a)
  | none =>
    match s.check asid (pcAddr t.pc).toNat .fetch isNormal with
    | .absent => .absent (pcAddr t.pc)
    | .perm => .trap (FCode.xlatePermission.at (pcAddr t.pc))
    | .memtype => .trap (FCode.memtype.at (pcAddr t.pc))
    | .ok pa _ _ =>
      let n := lengthOf (s.insnAt pa 4)
      if t.pc.toNat % 32 + n > 32 then .trap (FCode.fetchAlign.at 0) else .bits (s.insnAt pa n)

end Sys2Proof.Machine
end

