-- ==== Sys2Proof/Machine/Operands.lean ====
section
/-! DEFINITION. Source operands (R12, R137), results, and the mould of an instruction that only reads and writes registers. -/

namespace Sys2Proof.Machine

/-- gN, and the pair gN, gN+1. -/
def Group.greg (g : Group) (n : Nat) : Word := g.g.getD n 0
def Group.gpair (g : Group) (n : Nat) : Dword := pairOf (g.greg n) (g.greg (n + 1))

/-- A source as a word. -/
def Ctx.w (c : Ctx) : Src → Word
  | .d n => c.t.dreg n.toNat
  | .g n => c.g.greg n.toNat
  | .imm v => v.extractLsb' 0 32

/-- A source as a 64-bit operand: a register names a pair. -/
def Ctx.l (c : Ctx) : Src → Dword
  | .d n => c.t.dpair n.toNat
  | .g n => c.g.gpair n.toNat
  | .imm v => v

/-- A d register, and a pair. -/
def Ctx.r (c : Ctx) (n : DReg) : Word := c.t.dreg n.toNat
def Ctx.rr (c : Ctx) (n : DReg) : Dword := c.t.dpair n.toNat
/-- A predicate. -/
def Ctx.q (c : Ctx) (n : QReg) : Bool := c.t.pred n.toNat

/-- B of LADD, LSUB and LMUL (R145). -/
def Ctx.bw (c : Ctx) (bw : Bw) (b : Src) : Dword :=
  match bw with
  | .full => c.l b
  | .sx => (c.w b).signExtend 64
  | .zx => (c.w b).setWidth 64

/-- Ext of R145. -/
def ext64 (u : Bool) (v : Word) : Dword := if u then v.setWidth 64 else v.signExtend 64

/-- Results in a d register, and in a pair. -/
def toD (d : DReg) (v : Word) : List Write := [.reg (.d d.toNat) v]
def toPair (d : DReg) (v : Dword) : List Write := pairWrites d.toNat v
/-- Flags, unless S is set (R51). -/
def toFlags (h : Hdr) (f : Flags) : List Write := if h.nf then [] else [.flags f]

/-- An instruction that reads registers and writes registers only. -/
def regOp (i : Instr) (s : State) (f : Ctx → List Write) : Host.Outcome State Fault Refusal :=
  issue i s fun c s => .done s (f c)

end Sys2Proof.Machine
end

