-- ==== Sys2Proof/Machine/Engine.lean ====
section
/-! DEFINITION. What the engines share: layout records and boxes (R234 to R237), the checks at issue (R239), accesses of an
operation, its fork, its failure and its end (R118, R240, R241). -/

namespace Sys2Proof

/-- Bytes of an element of a byte format (R235). -/
def LFmt.eb : LFmt → Nat
  | .i8 => 1 | .i16 => 2 | .i32 => 4 | .f16 => 2 | .b16 => 2 | .f32 => 4 | .e4m3 => 1 | .e5m2 => 1 | .dx8 => 1
  | .dx4 => 1 | .i4 => 1 | .sb16 => 2 | .se4m3 => 1
def LFmt.nibble (f : LFmt) : Bool := f == .dx4 || f == .i4
def LFmt.dx (f : LFmt) : Bool := f == .dx8 || f == .dx4
def LFmt.sparse (f : LFmt) : Bool := f == .sb16 || f == .se4m3
/-- Formats 0x0 to 0x7. -/
def LFmt.plain (f : LFmt) : Bool := !f.dx && !f.sparse && f != .i4
/-- The number format of elements; a DX or I4 element has none of its own here. -/
def LFmt.num : LFmt → Machine.NFmt
  | .i8 => .int true 8 | .i16 => .int true 16 | .i32 => .int true 32 | .f16 => .flt .f16 | .b16 => .flt .b16
  | .f32 => .flt .f32 | .e4m3 => .flt .e4m3 | .e5m2 => .flt .e5m2 | .dx8 => .int false 8 | .dx4 => .int false 4
  | .i4 => .int true 4 | .sb16 => .flt .b16 | .se4m3 => .flt .e4m3

end Sys2Proof

namespace Sys2Proof.Machine

/-! ## Checks of one instruction (R165, R239) -/

def trapAt (c : FCode) (addr : Nat) : Except Eff α := .error (.trap (c.at (BitVec.ofNat 64 addr)))

/-- MISALIGN (R105). -/
def aligned (addr al : Nat) : Except Eff Unit := if addr % al = 0 then .ok () else trapAt .misalign addr

/-- The checks of a global address (R165): the physical address, the page's type and its entry. -/
def State.global (s : State) (asid : Nat) (va : Dword) (need : Need) (accept : MType → Bool) :
    Except Eff (Nat × MType × Nat) :=
  match s.check asid va.toNat need accept with
  | .absent => .error (.park va need.w)
  | .perm => trapAt .xlatePermission va.toNat
  | .memtype => trapAt .memtype va.toNat
  | .ok pa t e => .ok (pa, t, e)

/-- SCRATCH_BOUNDS: an extent reaches beyond a group's allocation (R106). -/
def inScratch (g : Group) (off n : Nat) : Except Eff Unit :=
  if off + n ≤ g.scratchLen then .ok () else trapAt .scratchBounds off

/-- SCRATCH_BOUNDS: a rank named is not below the cluster size (R239). The record's ADDR is the offset at which the rank would be reached
(DESIGN CHOICE, log entry 106: R303 speaks of an access's address). -/
def ranksExist (g : Group) (mask : BitVec 4) (off : Nat) : Except Eff Unit :=
  if mask.toNat < 2 ^ g.csize then .ok () else trapAt .scratchBounds off

/-- An extent within every group of a list. -/
def State.inScratches (s : State) (gs : List Nat) (off n : Nat) : Except Eff Unit :=
  gs.forM fun gi => match s.groups[gi]? with | some g => inScratch g off n | none => .ok ()

/-! ## Layout records (R234 to R237) -/

def Layout.ofBytes (bs : List Byte) : Layout :=
  let w := leNat bs
  let f (lo n : Nat) : Nat := w / 2 ^ (8 * lo) % 2 ^ (8 * n)
  { base := BitVec.ofNat 64 (f 0 8), plane := BitVec.ofNat 64 (f 8 8)
    size := (List.range 4).map fun k => f (16 + 4 * k) 4
    stride := (List.range 4).map fun k => f (32 + 4 * k) 4
    tile := (List.range 4).map fun k => f (48 + 2 * k) 2
    tid := f 56 2, ndim := f 58 1 / 16 % 8, fmt := f 58 1 % 16, trans := bit (f 59 1) 0
    resv := f 60 4 != 0 || f 59 1 / 2 != 0 || bit (f 58 1) 7 }

def Layout.sz (l : Layout) (k : Nat) : Nat := if k < l.ndim then l.size.getD k 1 else 1
def Layout.tl (l : Layout) (k : Nat) : Nat := if k < l.ndim then l.tile.getD k 1 else 1
def Layout.st (l : Layout) (k : Nat) : Nat := l.stride.getD k 0
def Layout.format (l : Layout) : Option LFmt := LFmt.ofCode (BitVec.ofNat 4 l.fmt)

/-- The conditions of R237 that the record alone decides. -/
def Layout.malformed (l : Layout) : Bool :=
  match l.format with
  | none => true
  | some f =>
    l.ndim == 0 || l.ndim > 4 || l.resv ||
    (List.range 4).any (fun k => if k < l.ndim then l.size.getD k 0 == 0 || l.tile.getD k 0 == 0
      else l.size.getD k 0 != 0 || l.tile.getD k 0 != 0 || l.stride.getD k 0 != 0) ||
    l.st 0 != (if f.nibble || f.sparse then 0 else f.eb) ||
    ((f.dx || f.sparse) && l.sz 0 % 32 != 0) ||
    (f.dx && l.plane.toNat % 2 != 0) || (f.sparse && l.plane.toNat % 4 != 0) ||
    (f.nibble && l.sz 0 % 2 != 0)

/-- The conditions of R237 on the box and the transpose bit. -/
def Layout.badBox (l : Layout) (c : List Nat) (t : Bool) : Bool :=
  match l.format with
  | none => true
  | some f =>
    ((f.dx || f.sparse) && (c.getD 0 0 % 32 != 0 || l.tl 0 % 32 != 0)) ||
    (f.nibble && (c.getD 0 0 % 2 != 0 || l.tl 0 % 2 != 0)) ||
    (t && (!l.trans || l.ndim == 1 || f.dx || f.sparse))

/-- A box as the engines walk it: units of dimension 0 are elements, or pairs of 4-bit elements. -/
structure Box where
  eb : Nat
  t0 : Nat
  t1 : Nat
  t2 : Nat
  t3 : Nat
  deriving DecidableEq, Repr

def Layout.box (l : Layout) (f : LFmt) : Box := ⟨f.eb, if f.nibble then l.tl 0 / 2 else l.tl 0, l.tl 1, l.tl 2, l.tl 3⟩
def Box.count (b : Box) : Nat := b.t0 * b.t1 * b.t2 * b.t3

/-- Positions of a box, dimension 0 innermost. -/
def Box.positions (b : Box) : List (Nat × Nat × Nat × Nat) :=
  (List.range b.t3).flatMap fun p3 => (List.range b.t2).flatMap fun p2 => (List.range b.t1).flatMap fun p1 =>
    (List.range b.t0).map fun p0 => (p0, p1, p2, p3)

/-- L(p) of R236. -/
def Box.index (b : Box) (t : Bool) (p : Nat × Nat × Nat × Nat) : Nat :=
  if t then p.2.1 + b.t1 * (p.1 + b.t0 * (p.2.2.1 + b.t2 * p.2.2.2))
  else p.1 + b.t0 * (p.2.1 + b.t1 * (p.2.2.1 + b.t2 * p.2.2.2))

/-- The row address of R235. -/
def Layout.row (l : Layout) (i1 i2 i3 : Nat) : Nat := l.base.toNat + i1 * l.st 1 + i2 * l.st 2 + i3 * l.st 3
/-- The block index of R235. -/
def Layout.blk (l : Layout) (i0 i1 i2 i3 : Nat) : Nat :=
  ((i3 * l.sz 2 + i2) * l.sz 1 + i1) * (l.sz 0 / 32) + i0 / 32
def Layout.inBounds (l : Layout) (i0 i1 i2 i3 : Nat) : Bool :=
  i0 < l.sz 0 && i1 < l.sz 1 && i2 < l.sz 2 && i3 < l.sz 3

/-- The units of a box: for each, its index in scratchpad and its address in memory, when in bounds. -/
def Layout.units (l : Layout) (f : LFmt) (c : List Nat) (t : Bool) : List (Nat × Option Nat) :=
  let b := l.box f
  let h := if f.nibble then 2 else 1
  b.positions.map fun p =>
    let i0 := c.getD 0 0 + h * p.1; let i1 := c.getD 1 0 + p.2.1; let i2 := c.getD 2 0 + p.2.2.1; let i3 := c.getD 3 0 + p.2.2.2
    (b.index t p, if l.inBounds i0 i1 i2 i3 then some ((l.row i1 i2 i3 + i0 / h * b.eb) % 2 ^ 64) else none)

/-- The exponent halfwords of a DX box: their index, and their address when the block is in bounds (R82, R236). -/
def Layout.exps (l : Layout) (f : LFmt) (c : List Nat) : List (Nat × Option Nat) :=
  if !f.dx then [] else
  let b : Box := ⟨2, l.tl 0 / 32, l.tl 1, l.tl 2, l.tl 3⟩
  b.positions.map fun p =>
    let i0 := c.getD 0 0 + 32 * p.1; let i1 := c.getD 1 0 + p.2.1; let i2 := c.getD 2 0 + p.2.2.1; let i3 := c.getD 3 0 + p.2.2.2
    (b.index false p, if l.inBounds i0 i1 i2 i3 then some ((l.plane.toNat + 2 * l.blk i0 i1 i2 i3) % 2 ^ 64) else none)

/-- Data bytes of a box in its own format, and its scratchpad extent (R236). -/
def Layout.dataBytes (l : Layout) (f : LFmt) : Nat := f.eb * (l.box f).count
def Layout.extent (l : Layout) (f : LFmt) : Nat :=
  l.dataBytes f + (if f.dx then 2 * (l.tl 0 * l.tl 1 * l.tl 2 * l.tl 3 / 32) else 0)

/-! ## Accesses of an operation (R240) -/

/-- Why an operation cannot go on: an absent page, a reason of R240, or a refused peer access (R322). -/
inductive EngFail where
  | absent (va : Nat) (write : Bool)
  | fail (reason : Nat)
  | peer (dev : Nat)
  deriving DecidableEq, Repr

/-- Reasons of R240. -/
def rMALFORMED : Nat := 1
def rMEMTYPE : Nat := 2
def rPERMISSION : Nat := 3
def rPOISONED : Nat := 4
def rFORMAT : Nat := 5
def rMISMATCH : Nat := 6
def rCANCELLED : Nat := 7

/-- A byte's place: device memory, host memory, or a peer's memory. -/
inductive Loc where
  | dev (pa : Nat)
  | host (a : Nat)
  | peer (a : Nat)
  deriving DecidableEq, Repr

def State.engLoc (s : State) (asid : Nat) (need : Need) (accept : MType → Bool) (va : Nat) : Except EngFail Loc :=
  match s.check asid va need accept with
  | .absent => .error (.absent va need.w)
  | .perm => .error (.fail rPERMISSION)
  | .memtype => .error (.fail rMEMTYPE)
  | .ok pa .host _ => .ok (.host pa)
  | .ok pa .peer e => if s.peerUp (pteDev e) then .ok (.peer (peerAddr (pteDev e) pa)) else .error (.peer (pteDev e))
  | .ok pa _ _ => .ok (.dev pa)

def Loc.pa? : Loc → Option Nat
  | .dev pa => some pa
  | _ => none

/-- Host and peer bytes among an operation's places. -/
def Loc.far (peer : Bool) : Loc → Bool
  | .peer _ => peer | .host _ => !peer | .dev _ => false

/-- The flits and L2 accesses of an operation of a die's group, or of the hub's for none, counted once for each row that it
touches (R331). -/
def State.engCount (s : State) (die : Option Nat) (asid : Nat) (wr : Bool) (ls : List Loc) : State :=
  let pas := ls.filterMap Loc.pa?
  let s := (pas.map rowOf).dedup.foldl (fun s r =>
    let n := pas.countP fun a => rowOf a == r
    let home := some (s.homeDie (r * 1024))
    let s := (s.overUcie die home (some asid) (if wr then n else 0)).overUcie home die (some asid) (if wr then 0 else n)
    let s := s.countHome (r * 1024) 1 (some asid)
    if wr then s else s.countHome (r * 1024) 2 (some asid)) s
  [true, false].foldl (fun s p =>
    let n := ls.countP (Loc.far p)
    if n = 0 then s else s.portFlits die (some asid) p (if wr then n else 0) (if wr then 0 else n)) s

/-- The rows that an operation's bytes lie in are activated, and their sibling state ends. -/
def State.engReach (s : State) (die : Option Nat) (asid : Nat) (wr : Bool) (ls : List Loc) : State :=
  let pas := ls.filterMap Loc.pa?
  let s := (pas.map rowOf).dedup.foldl (fun s r => s.demand (some asid) r) (s.engCount die asid wr ls)
  pas.foldl (fun s a => s.ceaseCells a 1) s

/-- A poisoned row among them (R210). -/
def State.engPoison (s : State) (ls : List Loc) : Bool := ls.any fun l => match l with | .dev pa => s.poisoned.contains (rowOf pa) | _ => false

def State.locByte (s : State) : Loc → Byte
  | .dev pa => s.peek pa
  | .host a => if s.hostDecodes a then cGet s.hostMem a else 0xFF
  | .peer a => cGet s.peerMem a
def State.locPut (s : State) (l : Loc) (b : Byte) : State :=
  match l with
  | .dev pa => s.poke pa [b]
  | .host a => s.hostPut a [b]
  | .peer a => { s with peerMem := cSet s.peerMem a b }

/-- Bytes read at virtual addresses. The first address, in the order given, whose translation fails decides the wait or the reason; a
poisoned row decides where none does (DESIGN CHOICE, log entry 105: R240 gives no order). -/
def State.engRead (s : State) (die : Option Nat) (asid : Nat) (accept : MType → Bool) (vas : List Nat) : State × Except EngFail (List Byte) :=
  match vas.mapM (s.engLoc asid .read accept) with
  | .error e => (s, .error e)
  | .ok ls =>
    let s := s.engReach die asid false ls
    if s.engPoison ls then (s, .error (.fail rPOISONED)) else (s, .ok (ls.map s.locByte))

/-- Bytes written at virtual addresses: all of them, or none. -/
def State.engWrite (s : State) (die : Option Nat) (asid : Nat) (accept : MType → Bool) (ws : List (Nat × Byte)) :
    State × Except EngFail Unit :=
  match ws.mapM (fun w => s.engLoc asid .write accept w.1) with
  | .error e => (s, .error e)
  | .ok ls =>
    let s := s.engReach die asid true ls
    if s.engPoison ls then (s, .error (.fail rPOISONED))
    else ((ls.zip ws).foldl (fun s x => s.locPut x.1 x.2.2) s, .ok ())

/-- A unit's addresses, one for each byte. -/
def byteAddrs (va n : Nat) : List Nat := (List.range n).map fun k => (va + k) % 2 ^ 64

/-! ## Fork, failure, end -/

/-- A layout record that is good, and the reason of one that is not. -/
def recOk : Except Nat Layout → Option Layout
  | .ok l => some l
  | .error _ => none
def recBad : Except Nat Layout → Nat
  | .ok _ => 0
  | .error r => r
/-- An operation that has no record. -/
def noRec : Except Nat Layout := .error 0

/-- An operation forks, with its layout record or the reason that its record ends it with: a release pattern of the issuing thread,
whose core's L1 keeps nothing (R114, R118). -/
def State.fork (s : State) (gi : Nat) (k : EngKind) (l : Except Nat Layout) : State :=
  match s.groups[gi]? with
  | none => s
  | some g => { s.clearL1 g.core with
      ops := s.ops ++ [⟨s.nextOp, k, gi, g.asid, g.launch, recOk l, recBad l, false⟩], nextOp := s.nextOp + 1 }

/-- An operation that has made its last access. -/
def State.closeOp (s : State) (o : EngOp) : State := { s with ops := s.ops.filter fun x => x.id != o.id }

/-- An operation that cannot go on: it waits for the page, or ends with its reason (R240); a refused peer access is logged
(R322). -/
def State.failOp (s : State) (o : EngOp) : EngFail → State
  | .absent va w =>
    let core := match s.groups[o.grp]? with | some g => g.core | none => 0
    { s with ops := s.ops.map fun (x : EngOp) => if x.id = o.id then { x with waiting := true } else x }.parkEngine
      o.asid va core o.launch w (.op o.id)
  | .fail r => s.endOp o r
  | .peer dev => (s.endOp o rMEMTYPE).logError (some o.asid) 4 dev

/-- Counts of an operation's elements against a tensor id (R91). -/
def State.tallyOp (s : State) (o : EngOp) (tid : Nat) (rs : List RRes) : State :=
  s.tally o.asid o.launch tid (rs.countP RRes.sat) (rs.countP RRes.flush) (rs.countP RRes.nan)

/-- The core of an operation's group. -/
def State.opCore (s : State) (o : EngOp) : Nat := match s.groups[o.grp]? with | some g => g.core | none => 0

/-- The core die of an operation. -/
def State.opDie (s : State) (o : EngOp) : Option Nat := some (s.opCore o / 48)

/-- A layout record read at issue of an instruction of a group: 64 bytes of a NORMAL page (R239). One in a poisoned row ends its operation POISONED (R210,
R240), a malformed one MALFORMED (R237). -/
def State.recordAt (s : State) (g : Group) (va : Dword) : Except Eff (State × Except Nat Layout) := do
  aligned va.toNat 64
  let (pa, _, _) ← s.global g.asid va .read isNormal
  let (s, bs) := s.readFor g.core g.asid pa 64
  let l := Layout.ofBytes bs
  .ok (s, if s.poisoned.contains (rowOf pa) then .error rPOISONED else if l.malformed then .error rMALFORMED else .ok l)

/-- The checks of a completion word (R239, R241). -/
def State.wordAt (s : State) (asid : Nat) (va : Dword) : Except Eff Unit := do
  aligned va.toNat 8
  let _ ← s.global asid va .write isNormal
  .ok ()

/-- The quad of coordinates. -/
def Ctx.quad (c : Ctx) (q : DReg) : List Nat := (List.range 4).map fun k => (c.t.dreg (q.toNat + k)).toNat

end Sys2Proof.Machine
end

