-- ==== Sys2Proof/Machine/Copy.lean ====
section
/-! DEFINITION. The copy engine (R246 to R250) and arrival barriers (R242 to R244). -/

namespace Sys2Proof

/-- Bytes of a value slot (R83). -/
def LFmt.slotBytes (f : LFmt) : Nat := if f == .sb16 then 32 else 16
/-- Bytes of an expanded element: B16 or E4M3. -/
def LFmt.denseBytes (f : LFmt) : Nat := if f == .sb16 then 2 else 1

end Sys2Proof

namespace Sys2Proof.Machine

/-! ## Scratchpad addresses (R106) -/

/-- A scratchpad address of the group itself. -/
def ownAt (c : Ctx) (addr n : Nat) : Except Eff (Nat × Nat) := do
  inScratch c.g addr n
  .ok (c.ref.grp, addr)

/-- A remote address: the owning group's place and the offset (R106). -/
def State.remoteAt (s : State) (c : Ctx) (addr n : Nat) : Except Eff (Nat × Nat) :=
  let rank := bits addr 20 19
  let off := bits addr 18 0
  if addr ≥ 2 ^ 21 || rank ≥ c.g.csize then trapAt .scratchBounds addr
  else match s.groups[c.g.rank rank]? with
    | some g => if off + n ≤ g.scratchLen then .ok (c.g.rank rank, off) else trapAt .scratchBounds addr
    | none => trapAt .scratchBounds addr

/-- An acquire or a fence at cluster scope or wider invalidates the core's L1 (R108). -/
def State.acquire (s : State) (core : Nat) (sc : Scope) : State :=
  match sc with
  | .thr => s
  | .grp => s
  | _ => s.clearL1 core

/-! ## Conversion (R247) -/

/-- Conv on one element: its bytes in the target format, with its events. -/
def convUnit (df sf : LFmt) (bs : List Byte) : List Byte × RRes :=
  let r := convert df.num sf.num .rn false (leNat bs)
  (leBytes df.eb r.bits, r)

/-- An element that is moved as it is: only its NaN counts (R91). -/
def plainUnit (f : LFmt) (bs : List Byte) : List Byte × RRes :=
  let nan := match f.num with | .flt g => (g.read (leNat bs)).isNan | .int _ _ => false
  (bs, ⟨leNat bs, 0, false, false, nan && f.plain⟩)

/-- A value read for each unit of a box, or zeros for one out of bounds. -/
def assign (n : Nat) : List (Nat × Option Nat) → List Byte → List (Nat × List Byte)
  | [], _ => []
  | (ix, none) :: us, bs => (ix, List.replicate n 0) :: assign n us bs
  | (ix, some _) :: us, bs => (ix, bs.take n) :: assign n us (bs.drop n)

/-- The addresses of the bytes of the units that are in bounds. -/
def unitAddrs (n : Nat) (us : List (Nat × Option Nat)) : List Nat :=
  us.flatMap fun u => match u.2 with | some va => byteAddrs va n | none => []

/-- NaN elements of a DX box: `es` its units, `xs` its exponent halfwords, both by index; `inb` the units in bounds. -/
def dxNans (dx4 : Bool) (es xs : List (Nat × List Byte)) : List RRes :=
  es.flatMap fun e =>
    let codes := if dx4 then [leNat e.2 % 16, leNat e.2 / 16] else [leNat e.2]
    let blk := (if dx4 then 2 * e.1 else e.1) / 32
    let x := match xs.find? (fun x => x.1 == blk) with | some x => leNat x.2 | none => 0
    codes.map fun k => ⟨k, 0, false, false, (dxVal dx4 k (x % 256) (x / 256)).isNan⟩

/-- Scratchpad writes: (offset, bytes). -/
def State.scratchPuts (s : State) (gi : Nat) (ws : List (Nat × List Byte)) : State :=
  s.setGrp gi fun g => { g with scratch := ws.foldl (fun m w => cWrite m w.1 w.2) g.scratch }

/-- Page types of copy sources and of CPYO's targets (R246, R248). -/
def copyType (t : MType) : Bool := t == .normal || t == .row || t == .peer
def isHost (t : MType) : Bool := t == .host

/-- A box read from memory: what to place, and the events of its elements. -/
def State.boxIn (s : State) (o : EngOp) (accept : MType → Bool) (f : Option LFmt) (t : Bool) (c : List Nat) (l : Layout) (rf : LFmt) :
    State × Except EngFail (List (Nat × List Byte) × List RRes) :=
  let us := l.units rf c t
  let xs := l.exps rf c
  match s.engRead (s.opDie o) o.asid accept (unitAddrs rf.eb us ++ unitAddrs 2 xs) with
  | (s, .error e) => (s, .error e)
  | (s, .ok bs) =>
    let n := rf.eb * (us.countP fun u => u.2.isSome)
    let es := assign rf.eb us (bs.take n)
    let hs := assign 2 xs (bs.drop n)
    match f with
    | some df =>
      let rs := es.map fun e => (df.eb * e.1, convUnit df rf e.2)
      (s, .ok (rs.map (fun r => (r.1, r.2.1)), rs.map fun r => r.2.2))
    | none =>
      let rs := es.map fun e => (rf.eb * e.1, plainUnit rf e.2)
      (s, .ok (rs.map (fun r => (r.1, r.2.1)) ++ hs.map (fun h => (l.dataBytes rf + 2 * h.1, h.2)),
        if rf.dx then dxNans (rf == .dx4) es hs else rs.map fun r => r.2.2))

/-- A box written to memory from the group's scratchpad (CPYO, CPYH.TO): the elements by ascending position, then the exponents, so that
of two at one address the later stays (DESIGN CHOICE, log entry 104: R248 gives no order). -/
def State.boxOut (s : State) (o : EngOp) (accept : MType → Bool) (f : Option LFmt) (t : Bool) (src : Nat) (c : List Nat)
    (l : Layout) (rf : LFmt) : State × Except EngFail (List RRes) :=
  let us := (l.units rf c t).filterMap fun u => u.2.map fun va => (u.1, va)
  let xs := (l.exps rf c).filterMap fun u => u.2.map fun va => (u.1, va)
  let sf := f.getD rf
  let es := us.map fun u =>
    let bs := s.scratchRead o.grp (src + sf.eb * u.1) sf.eb
    (u, if f.isSome then convUnit rf sf bs else plainUnit rf bs)
  let hs := xs.map fun u => (u, s.scratchRead o.grp (src + l.dataBytes rf + 2 * u.1) 2)
  let ws := (es.flatMap fun e => (byteAddrs e.1.2 rf.eb).zip e.2.1) ++ (hs.flatMap fun h => (byteAddrs h.1.2 2).zip h.2)
  match s.engWrite (s.opDie o) o.asid accept ws with
  | (s, .error e) => (s, .error e)
  | (s, .ok _) =>
    (s, .ok (if rf.dx && f.isNone then dxNans (rf == .dx4) (es.map fun e => (e.1.1, e.2.1)) (hs.map fun h => (h.1.1, h.2))
      else es.map fun e => e.2.2))

/-! ## Bitmap-sparse boxes (R83, R249) -/

/-- The blocks of a box: index of the first element, and the addresses of bitmap and slot when in bounds. -/
def Layout.sparseBlocks (l : Layout) (f : LFmt) (c : List Nat) : List (Nat × Option (Nat × Nat)) :=
  let b : Box := ⟨1, l.tl 0 / 32, l.tl 1, l.tl 2, l.tl 3⟩
  b.positions.map fun p =>
    let i0 := c.getD 0 0 + 32 * p.1; let i1 := c.getD 1 0 + p.2.1; let i2 := c.getD 2 0 + p.2.2.1; let i3 := c.getD 3 0 + p.2.2.2
    (32 * b.index false p, if l.inBounds i0 i1 i2 i3 then
      some ((l.plane.toNat + 4 * l.blk i0 i1 i2 i3) % 2 ^ 64, (l.row i1 i2 i3 + i0 / 32 * f.slotBytes) % 2 ^ 64) else none)

/-- The 32 values of a block from its bitmap and slot; none when more than 16 bits are set. -/
def sparseVals (eb : Nat) (bm : Nat) (slot : List Byte) : Option (List Nat) :=
  if ((List.range 32).countP fun i => bit bm i) > 16 then none
  else some ((List.range 32).map fun i =>
    if bit bm i then leNat ((slot.drop (eb * ((List.range i).countP fun j => bit bm j))).take eb) else 0)

/-- Values of every block of a box: (index of the first element, 32 values), zeros for a block out of bounds. -/
def sparseAssign (f : LFmt) : List (Nat × Option (Nat × Nat)) → List Byte → Option (List (Nat × List Nat))
  | [], _ => some []
  | (ix, none) :: us, bs => (sparseAssign f us bs).map ((ix, List.replicate 32 0) :: ·)
  | (ix, some _) :: us, bs =>
    match sparseVals f.denseBytes (leNat (bs.take 4)) ((bs.drop 4).take f.slotBytes),
      sparseAssign f us (bs.drop (4 + f.slotBytes)) with
    | some vs, some rest => some ((ix, vs) :: rest)
    | _, _ => none

def State.sparseIn (s : State) (o : EngOp) (accept : MType → Bool) (c : List Nat) (l : Layout) (f : LFmt) :
    State × Except EngFail (List (Nat × List Nat)) :=
  let us := l.sparseBlocks f c
  let vas := us.flatMap fun u => match u.2 with
    | some (bm, sl) => byteAddrs bm 4 ++ byteAddrs sl f.slotBytes
    | none => []
  match s.engRead (s.opDie o) o.asid accept vas with
  | (s, .error e) => (s, .error e)
  | (s, .ok bs) =>
    match sparseAssign f us bs with
    | some vs => (s, .ok vs)
    | none => (s, .error (.fail rMALFORMED))

/-! ## Performing a copy operation -/

/-- Bytes placed in the scratchpad of each target, with the arrivals they make. -/
def State.place (s : State) (o : EngOp) (targets : List Nat) (dst : Nat) (ws : List (Nat × List Byte)) : State :=
  let n := (ws.map fun w => w.2.length).sum
  (targets.foldl (fun s t => s.scratchPuts t (ws.map fun w => (dst + w.1, w.2))) s).countCore (s.opCore o) 7 (some o.asid)
    (n * targets.length)
def wsBytes (ws : List (Nat × List Byte)) : Nat := (ws.map fun w => w.2.length).sum

/-- The completion address of CPYO and CPYH. -/
def EngKind.word : EngKind → Option Dword
  | .cpyo _ _ _ _ cw => some cw
  | .cpyhTo _ _ _ _ cw => some cw
  | .cpyhFrom _ _ _ _ cw => some cw
  | _ => none

/-- The page of a completion word is absent. -/
def State.wordAbsent (s : State) (o : EngOp) : Option Nat :=
  o.kind.word.bind fun cw => if s.check o.asid cw.toNat .write isNormal = .absent then some cw.toNat else none

/-- A copy with a well-formed record moves its whole box, or waits, or ends with its reason. An element placed in several ranks counts
its events once (DESIGN CHOICE, log entry 89: R91 counts for each output element, and does not say whether a multicast makes one or
several). -/
def State.moveBox (s : State) (o : EngOp) (g : Group) (l : Layout) (rf : LFmt) : State :=
  match o.kind with
  | .cpy f t mask dst c bar =>
    match s.boxIn o copyType f t c l rf with
    | (s, .error e) => s.failOp o e
    | (s, .ok (ws, rs)) =>
      let ts := g.targets o.grp mask
      let s := (s.place o ts dst ws).tallyOp o l.tid rs
      (ts.foldl (fun s t => s.arrive t bar (wsBytes ws) 0) s).closeOp o
  | .cpyo f t src c cw =>
    match s.boxOut o copyType f t src c l rf with
    | (s, .error e) => s.failOp o e
    | (s, .ok rs) => ((s.tallyOp o l.tid rs).signalWord o.grp o.asid cw (engWord 0)).closeOp o
  | .cpyhTo f t src c cw =>
    match s.boxOut o isHost f t src c l rf with
    | (s, .error e) => s.failOp o e
    | (s, .ok rs) => ((s.tallyOp o l.tid rs).signalWord o.grp o.asid cw (engWord 0)).closeOp o
  | .cpyhFrom f t dst c cw =>
    match s.boxIn o isHost f t c l rf with
    | (s, .error e) => s.failOp o e
    | (s, .ok (ws, rs)) => (((s.place o [o.grp] dst ws).tallyOp o l.tid rs).signalWord o.grp o.asid cw (engWord 0)).closeOp o
  | .cpyx mask dst c dbar sbar =>
    match s.sparseIn o copyType c l rf with
    | (s, .error e) => s.failOp o e
    | (s, .ok vs) =>
      let eb := rf.denseBytes
      let ws := vs.map fun v => (eb * v.1, v.2.flatMap (leBytes eb))
      let ts := g.targets o.grp mask
      let df : LFmt := if rf == .sb16 then .b16 else .e4m3
      let rs := vs.flatMap fun v => v.2.map fun x => (plainUnit df (leBytes eb x)).2
      let s := (s.place o ts dst ws).tallyOp o l.tid rs
      let inb := (l.sparseBlocks rf c).countP fun u => u.2.isSome
      let s := ts.foldl (fun s t => s.arrive t dbar (wsBytes ws) 0) s
      -- blocks out of bounds consume nothing: without a block in bounds there is no arrival (R249)
      (if inb = 0 then s else s.arrive o.grp sbar (inb * (4 + rf.slotBytes)) 0).closeOp o
  | _ => s

/-- A forked copy operation; it waits first for its completion word's page, so that a wait comes before every access. -/
def State.runCopy (s : State) (o : EngOp) (g : Group) : State :=
  match s.wordAbsent o with
  | some cw => s.failOp o (.absent cw true)
  | none =>
    match o.layout with
    | none => s.endOp o o.bad
    | some l =>
      match l.format with
      | none => s.endOp o rMALFORMED
      | some rf => s.moveBox o g l rf

/-- The operations of COPY_OPERATION. -/
def EngKind.isCopy : EngKind → Bool
  | .cpy _ _ _ _ _ _ => true
  | .cpyo _ _ _ _ _ => true
  | .cpyhTo _ _ _ _ _ => true
  | .cpyhFrom _ _ _ _ _ => true
  | .cpyx _ _ _ _ _ => true
  | _ => false

/-! ## Instructions -/

/-- The record with the instruction's own conditions (R237, R246 to R249): MALFORMED when it breaks one of them. -/
def copyRec (l : Except Nat Layout) (f : Option LFmt) (t : Bool) (c : List Nat) (sparse : Bool) : Except Nat Layout :=
  match l with
  | .error r => .error r
  | .ok l =>
    match l.format with
    | none => .error rMALFORMED
    | some rf => if l.badBox c t || rf.sparse != sparse || (f.isSome && !rf.plain) then .error rMALFORMED else .ok l

/-- The scratchpad extent of a box: its offset alone when the record is not good (R239). -/
def boxExtent (l : Except Nat Layout) (f : Option LFmt) : Nat :=
  match l with
  | .error _ => 1
  | .ok l =>
    match l.format, f with
    | some _, some df => df.eb * (l.tl 0 * l.tl 1 * l.tl 2 * l.tl 3)
    | some rf, none =>
      if rf.sparse then rf.denseBytes * (l.tl 0 * l.tl 1 * l.tl 2 * l.tl 3) else l.extent rf
    | none, _ => 1

def execCpy (h : Hdr) (f : Option LFmt) (t : Bool) (mask : BitVec 4) (d n q b : DReg) (s : State) :=
  issue (.cpy h f t mask d n q b) s fun c s => Eff.of do
    let dst := (c.r d).toNat
    let bar := (c.r b).toNat
    aligned dst 64
    aligned bar 8
    let (s, l) ← s.recordAt c.g (c.rr n)
    let l := copyRec l f t (c.quad q) false
    ranksExist c.g mask dst
    let ts := c.g.targets c.ref.grp mask
    s.inScratches ts dst (boxExtent l f)
    s.inScratches ts bar 8
    .ok (.done (s.fork c.ref.grp (.cpy f t mask dst (c.quad q) bar) l) [])

/-- The checks of CPYO and CPYH: the state after its record is read, the record, the scratchpad offset. -/
def copyHome (s : State) (c : Ctx) (f : Option LFmt) (t : Bool) (o n q w : DReg) : Except Eff (State × Except Nat Layout) := do
  let off := (c.r o).toNat
  aligned off 64
  aligned (c.rr w).toNat 8
  let (s, l) ← s.recordAt c.g (c.rr n)
  s.wordAt c.g.asid (c.rr w)
  let l := copyRec l f t (c.quad q) false
  inScratch c.g off (boxExtent l f)
  .ok (s, l)

def execCpyo (h : Hdr) (f : Option LFmt) (t : Bool) (o n q w : DReg) (s : State) :=
  issue (.cpyo h f t o n q w) s fun c s => Eff.of do
    let (s, l) ← copyHome s c f t o n q w
    .ok (.done (s.fork c.ref.grp (.cpyo f t (c.r o).toNat (c.quad q) (c.rr w)) l) [])
def execCpyhTo (h : Hdr) (f : Option LFmt) (t : Bool) (o n q w : DReg) (s : State) :=
  issue (.cpyhTo h f t o n q w) s fun c s => Eff.of do
    let (s, l) ← copyHome s c f t o n q w
    .ok (.done (s.fork c.ref.grp (.cpyhTo f t (c.r o).toNat (c.quad q) (c.rr w)) l) [])
def execCpyhFrom (h : Hdr) (f : Option LFmt) (t : Bool) (d n q w : DReg) (s : State) :=
  issue (.cpyhFrom h f t d n q w) s fun c s => Eff.of do
    let (s, l) ← copyHome s c f t d n q w
    .ok (.done (s.fork c.ref.grp (.cpyhFrom f t (c.r d).toNat (c.quad q) (c.rr w)) l) [])

def execCpyx (h : Hdr) (mask : BitVec 4) (d n q b : DReg) (s : State) :=
  issue (.cpyx h mask d n q b) s fun c s => Eff.of do
    let dst := (c.r d).toNat
    let dbar := (c.t.dreg b.toNat).toNat
    let sbar := (c.t.dreg (b.toNat + 1)).toNat
    aligned dst 64
    aligned dbar 8
    aligned sbar 8
    let (s, l) ← s.recordAt c.g (c.rr n)
    let l := copyRec l none false (c.quad q) true
    ranksExist c.g mask dst
    let ts := c.g.targets c.ref.grp mask
    s.inScratches ts dst (boxExtent l none)
    s.inScratches ts dbar 8
    inScratch c.g sbar 8
    .ok (.done (s.fork c.ref.grp (.cpyx mask dst (c.quad q) dbar sbar) l) [])

/-! ### Arrival barriers -/

/-- The barrier word that an address names (R244). -/
def State.arvAt (s : State) (c : Ctx) (rm : Bool) (a : DReg) : Except Eff (Nat × Nat) := do
  let addr := (c.r a).toNat
  aligned addr 8
  if rm then s.remoteAt c addr 8 else ownAt c addr 8
def State.arvWord (s : State) (p : Nat × Nat) : Dword := BitVec.ofNat 64 (leNat (s.scratchRead p.1 p.2 8))

def execArvInit (h : Hdr) (rm : Bool) (a : DReg) (b : Src) (s : State) :=
  issue (.arvInit h rm a b) s fun c s => Eff.of do
    let p ← s.arvAt c rm a
    .ok (.done (s.scratchWrite p.1 p.2 (leBytes 8 (c.w b).toNat)) [])
/-- ARV.ADD (R244), a release at cluster scope (R114). -/
def execArvAdd (h : Hdr) (rm : Bool) (a : DReg) (b : Src) (s : State) :=
  issue (.arvAdd h rm a b) s fun c s => Eff.of do
    let p ← s.arvAt c rm a
    .ok (.done ((s.clearL1 c.g.core).arrive p.1 p.2 (c.w b).toNat 0) [])
def execArvWait (h : Hdr) (rm : Bool) (d a : DReg) (s : State) :=
  issue (.arvWait h rm d a) s fun c s => Eff.of do
    let p ← s.arvAt c rm a
    let w := s.arvWord p
    .ok (if arvComplete w then .done (s.acquire c.g.core .clu) (toPair d w) else .poll (.arrival p.1 p.2))
def execArvTest (h : Hdr) (rm : Bool) (q : QReg) (a : DReg) (s : State) :=
  issue (.arvTest h rm q a) s fun c s => Eff.of do
    let p ← s.arvAt c rm a
    let ok := arvComplete (s.arvWord p)
    .ok (.done (if ok then s.acquire c.g.core .clu else s) [predWrite q ok])

end Sys2Proof.Machine
end

