-- ==== Sys2Proof/Machine/FloatInstr.lean ====
section
/-! DEFINITION. Floating-point instructions (R146 to R152). -/

namespace Sys2Proof.Machine

/-- FTZ of %fmode. -/
def Ctx.ftz (c : Ctx) : Bool := c.t.fmode.getLsbD 3
/-- Mode() of R140. -/
def Ctx.mode (c : Ctx) (m : Rm) : RMode := rmMode m c.t.fmode

/-- A word result with its flags. -/
def toRes (h : Hdr) (d : DReg) (r : RRes) : List Write := toD d (BitVec.ofNat 32 r.bits) ++ toFlags h r.fl

/-- FSCALE (R148). -/
def fscale (m : RMode) (ftz : Bool) (a : Nat) (e : Int) : RRes :=
  let v := FFmt.f32.read (FFmt.f32.flushIn ftz a)
  -- beyond 1024 the exponent's exact value decides nothing
  let e := max (-1024) (min 1024 e)
  match v with
  | .fin q => finish .f32 m ftz [v] (.value (.fin (if q.n = 0 then q else q.scale e)))
  | v => finish .f32 m ftz [v] (.value v)

/-- FRINT (R148): no IX. -/
def frint (m : RMode) (ftz : Bool) (a : Nat) : RRes :=
  let a := FFmt.f32.flushIn ftz a
  match FFmt.f32.read a with
  | .nan s => .nanOf .f32 (flagIf s fIO)
  | .inf _ => ⟨a, 0, false, false, false⟩
  | .fin q =>
    if q.n ≥ q.d * 2 ^ 23 then ⟨a, 0, false, false, false⟩
    else { roundQ .f32 .rn false ⟨q.neg, (onGrid m q 0).1, 1⟩ with fl := 0 }

/-- FFRAC (R148). -/
def ffrac (ftz : Bool) (a : Nat) : RRes :=
  match FFmt.f32.read (FFmt.f32.flushIn ftz a) with
  | .nan s => .nanOf .f32 (flagIf s fIO)
  | .inf _ => .nanOf .f32 fIO
  | .fin q => { roundQ .f32 .rn false ⟨q.neg, q.n % q.d, q.d⟩ with fl := 0 }

/-- FCLASS (R150). -/
def fclass (a : Nat) : Nat :=
  match FFmt.f32.read a with
  | .nan s => if s then 2 ^ 8 else 2 ^ 9
  | .inf neg => if neg then 1 else 2 ^ 7
  | .fin q =>
    if q.n = 0 then (if q.neg then 2 ^ 3 else 2 ^ 4)
    else if FFmt.f32.isSub a then (if q.neg then 2 ^ 2 else 2 ^ 5)
    else if q.neg then 2 ^ 1 else 2 ^ 6

/-- A transcendental's input under FTZ (R96). -/
def unary (f : Bool → FVal → RRes) (ftz : Bool) (a : Nat) : RRes := f ftz (FFmt.f32.read (FFmt.f32.flushIn ftz a))

/-- Two 16-bit lanes, each by one operation (R152). -/
def lanes (f : Nat → Nat → Nat → RRes) (a b k : Word) : RRes :=
  let lo := f (bits a.toNat 15 0) (bits b.toNat 15 0) (bits k.toNat 15 0)
  let hi := f (bits a.toNat 31 16) (bits b.toNat 31 16) (bits k.toNat 31 16)
  ⟨hi.bits * 2 ^ 16 + lo.bits, lo.fl ||| hi.fl, false, false, false⟩
def laneFmt (bf : Bool) : FFmt := if bf then .b16 else .f16

/-! ## Instructions -/

def execFadd (h : Hdr) (rm : Rm) (d : DReg) (a b : Src) (s : State) :=
  regOp (.fadd h rm d a b) s fun c => toRes h d (fltAdd .f32 (c.mode rm) c.ftz (c.w a).toNat (c.w b).toNat)
def execFsub (h : Hdr) (rm : Rm) (d : DReg) (a b : Src) (s : State) :=
  regOp (.fsub h rm d a b) s fun c => toRes h d (fltSub .f32 (c.mode rm) c.ftz (c.w a).toNat (c.w b).toNat)
def execFmul (h : Hdr) (rm : Rm) (d : DReg) (a b : Src) (s : State) :=
  regOp (.fmul h rm d a b) s fun c => toRes h d (fltMul .f32 (c.mode rm) c.ftz (c.w a).toNat (c.w b).toNat)
def execFfma (h : Hdr) (rm : Rm) (d : DReg) (a b k : Src) (s : State) :=
  regOp (.ffma h rm d a b k) s fun c =>
    toRes h d (fltFma .f32 (c.mode rm) c.ftz (c.w a).toNat (c.w b).toNat (c.w k).toNat)
def execFdiv (h : Hdr) (rm : Rm) (d : DReg) (a b : Src) (s : State) :=
  regOp (.fdiv h rm d a b) s fun c => toRes h d (fltDiv .f32 (c.mode rm) c.ftz (c.w a).toNat (c.w b).toNat)

/-- FMIN and FMAX under FTZ. -/
def fminmax (isMax ftz : Bool) (a b : Nat) : RRes :=
  let r := fltMinMax .f32 isMax (FFmt.f32.flushIn ftz a) (FFmt.f32.flushIn ftz b)
  ⟨r.1, r.2, false, false, false⟩
def execFmin (h : Hdr) (d : DReg) (a b : Src) (s : State) :=
  regOp (.fmin h d a b) s fun c => toRes h d (fminmax false c.ftz (c.w a).toNat (c.w b).toNat)
def execFmax (h : Hdr) (d : DReg) (a b : Src) (s : State) :=
  regOp (.fmax h d a b) s fun c => toRes h d (fminmax true c.ftz (c.w a).toNat (c.w b).toNat)

def execFcmp (h : Hdr) (cc : FCc) (q : QReg) (a b : Src) (s : State) :=
  regOp (.fcmp h cc q a b) s fun c =>
    let x := FFmt.f32.read (FFmt.f32.flushIn c.ftz (c.w a).toNat)
    let y := FFmt.f32.read (FFmt.f32.flushIn c.ftz (c.w b).toNat)
    predWrite q (fltCmp cc x y) :: toFlags h (sigIO [x, y])
def execFsel (h : Hdr) (pn : Bool) (pq : QReg) (d : DReg) (a b : Src) (s : State) :=
  regOp (.fsel h pn pq d a b) s fun c => toD d (if c.q pq != pn then c.w a else c.w b)
def execFclass (h : Hdr) (d : DReg) (a : Src) (s : State) :=
  regOp (.fclass h d a) s fun c => toD d (BitVec.ofNat 32 (fclass (c.w a).toNat))
def execFscale (h : Hdr) (rm : Rm) (d : DReg) (a b : Src) (s : State) :=
  regOp (.fscale h rm d a b) s fun c => toRes h d (fscale (c.mode rm) c.ftz (c.w a).toNat (c.w b).toInt)
def execFrint (h : Hdr) (rm : Rm) (d : DReg) (a : Src) (s : State) :=
  regOp (.frint h rm d a) s fun c => toRes h d (frint (c.mode rm) c.ftz (c.w a).toNat)
def execFfrac (h : Hdr) (d : DReg) (a : Src) (s : State) :=
  regOp (.ffrac h d a) s fun c => toRes h d (ffrac c.ftz (c.w a).toNat)
def execFrcp (h : Hdr) (d : DReg) (a : Src) (s : State) :=
  regOp (.frcp h d a) s fun c => toRes h d (unary frcpV c.ftz (c.w a).toNat)
def execFrsq (h : Hdr) (d : DReg) (a : Src) (s : State) :=
  regOp (.frsq h d a) s fun c => toRes h d (unary frsqV c.ftz (c.w a).toNat)
def execFex2 (h : Hdr) (d : DReg) (a : Src) (s : State) :=
  regOp (.fex2 h d a) s fun c => toRes h d (unary fex2V c.ftz (c.w a).toNat)
def execFlg2 (h : Hdr) (d : DReg) (a : Src) (s : State) :=
  regOp (.flg2 h d a) s fun c => toRes h d (unary flg2V c.ftz (c.w a).toNat)
def execHadd2 (h : Hdr) (rm : Rm) (bf : Bool) (d : DReg) (a b : Src) (s : State) :=
  regOp (.hadd2 h rm bf d a b) s fun c =>
    toRes h d (lanes (fun x y _ => fltAdd (laneFmt bf) (c.mode rm) c.ftz x y) (c.w a) (c.w b) 0)
def execHmul2 (h : Hdr) (rm : Rm) (bf : Bool) (d : DReg) (a b : Src) (s : State) :=
  regOp (.hmul2 h rm bf d a b) s fun c =>
    toRes h d (lanes (fun x y _ => fltMul (laneFmt bf) (c.mode rm) c.ftz x y) (c.w a) (c.w b) 0)
def execHfma2 (h : Hdr) (rm : Rm) (bf : Bool) (d : DReg) (a b k : Src) (s : State) :=
  regOp (.hfma2 h rm bf d a b k) s fun c =>
    toRes h d (lanes (fltFma (laneFmt bf) (c.mode rm) c.ftz) (c.w a) (c.w b) (c.w k))

end Sys2Proof.Machine
end

