-- ==== Sys2Proof/Machine/Integer.lean ====
section
/-! DEFINITION. Integer, 64-bit and address arithmetic (R141 to R145). -/

namespace Sys2Proof.Machine

/-! ## Results -/

/-- The high word of the product (R141). -/
def mulHigh (u : Bool) (a b : Word) : Word :=
  if u then BitVec.ofNat 32 (a.toNat * b.toNat / 2 ^ 32) else BitVec.ofInt 32 (floorShift (a.toInt * b.toInt) 32)
/-- IMADW. -/
def mulWide (u : Bool) (a b : Word) (c : Dword) : Dword :=
  (if u then BitVec.ofNat 64 (a.toNat * b.toNat) else BitVec.ofInt 64 (a.toInt * b.toInt)) + c
def lessW (u : Bool) (a b : Word) : Bool := if u then decide (a.toNat < b.toNat) else decide (a.toInt < b.toInt)
def absW (a : Word) : Word := if a.toInt < 0 then -a else a
def shlW (a b : Word) : Word := if b.toNat ≥ 32 then 0 else a <<< b.toNat
def shrW (a b : Word) : Word := if b.toNat ≥ 32 then (if a.getLsbD 31 then 0xFFFFFFFF else 0) else a.sshiftRight b.toNat
def lsrW (a b : Word) : Word := if b.toNat ≥ 32 then 0 else a >>> b.toNat
def rotW (a b : Word) : Word := a.rotateLeft (b.toNat % 32)
def popW (a : Word) : Word := BitVec.ofNat 32 ((List.range 32).countP fun i => a.getLsbD i)
def clzW (a : Word) : Word := if a = 0 then 32 else BitVec.ofNat 32 (31 - Nat.log2 a.toNat)
def revBits (n v : Nat) : Nat := (List.range n).foldl (fun x i => 2 * x + b2n (bit v i)) 0
/-- IBFE (R142). -/
def bfe (u : Bool) (a b : Word) : Word :=
  let pos := bits b.toNat 7 0
  let len := min (bits b.toNat 15 8) 32
  let f := (List.range len).foldl (fun x i =>
    x + 2 ^ i * b2n (if pos + i ≤ 31 then a.getLsbD (pos + i) else if u then false else a.getLsbD 31)) 0
  if len = 0 then 0
  else if u || !bit f (len - 1) then BitVec.ofNat 32 f else BitVec.ofInt 32 ((f : Int) - 2 ^ len)
/-- IBFI (R142). -/
def bfi (a b c : Word) : Word :=
  let pos := bits b.toNat 7 0
  let len := min (bits b.toNat 15 8) 32
  let m := BitVec.ofNat 32 ((2 ^ len - 1) * 2 ^ pos)
  (c &&& ~~~m) ||| (BitVec.ofNat 32 (a.toNat * 2 ^ pos) &&& m)
/-- R143. -/
def divW (u : Bool) (a b : Word) : Word :=
  if b = 0 then 0xFFFFFFFF
  else if u then BitVec.ofNat 32 (a.toNat / b.toNat) else BitVec.ofInt 32 (Int.tdiv a.toInt b.toInt)
def remW (u : Bool) (a b : Word) : Word :=
  if b = 0 then a
  else if u then BitVec.ofNat 32 (a.toNat % b.toNat) else BitVec.ofInt 32 (Int.tmod a.toInt b.toInt)
/-- The relation of ICMP (R144). -/
def cmpW (cc : ICc) (a b : Word) : Bool :=
  match cc with
  | .eq => a == b
  | .ne => a != b
  | .lt => lessW false a b
  | .le => !lessW false b a
  | .gt => lessW false b a
  | .ge => !lessW false a b
  | .ltu => lessW true a b
  | .leu => !lessW true b a
  | .gtu => lessW true b a
  | .geu => !lessW true a b
def shlL (a : Dword) (b : Word) : Dword := if b.toNat ≥ 64 then 0 else a <<< b.toNat
def shrL (u : Bool) (a : Dword) (b : Word) : Dword :=
  if b.toNat ≥ 64 then (if !u && a.getLsbD 63 then 0xFFFFFFFFFFFFFFFF else 0)
  else if u then a >>> b.toNat else a.sshiftRight b.toNat

/-! ## Instructions -/

def execIadd (h : Hdr) (d : DReg) (a b : Src) (s : State) := regOp (.iadd h d a b) s fun c => toD d (c.w a + c.w b)
def execIsub (h : Hdr) (d : DReg) (a b : Src) (s : State) := regOp (.isub h d a b) s fun c => toD d (c.w a - c.w b)
def execImul (h : Hdr) (d : DReg) (a b : Src) (s : State) := regOp (.imul h d a b) s fun c => toD d (c.w a * c.w b)
def execImulh (h : Hdr) (u : Bool) (d : DReg) (a b : Src) (s : State) :=
  regOp (.imulh h u d a b) s fun c => toD d (mulHigh u (c.w a) (c.w b))
def execImad (h : Hdr) (d : DReg) (a b k : Src) (s : State) :=
  regOp (.imad h d a b k) s fun c => toD d (c.w a * c.w b + c.w k)
def execImadw (h : Hdr) (u : Bool) (d : DReg) (a b k : Src) (s : State) :=
  regOp (.imadw h u d a b k) s fun c => toPair d (mulWide u (c.w a) (c.w b) (c.l k))
def execIneg (h : Hdr) (d : DReg) (a : Src) (s : State) := regOp (.ineg h d a) s fun c => toD d (-(c.w a))
def execIabs (h : Hdr) (d : DReg) (a : Src) (s : State) := regOp (.iabs h d a) s fun c => toD d (absW (c.w a))
def execImin (h : Hdr) (u : Bool) (d : DReg) (a b : Src) (s : State) :=
  regOp (.imin h u d a b) s fun c => toD d (if lessW u (c.w b) (c.w a) then c.w b else c.w a)
def execImax (h : Hdr) (u : Bool) (d : DReg) (a b : Src) (s : State) :=
  regOp (.imax h u d a b) s fun c => toD d (if lessW u (c.w a) (c.w b) then c.w b else c.w a)
def execIshl (h : Hdr) (d : DReg) (a b : Src) (s : State) := regOp (.ishl h d a b) s fun c => toD d (shlW (c.w a) (c.w b))
def execIshr (h : Hdr) (d : DReg) (a b : Src) (s : State) := regOp (.ishr h d a b) s fun c => toD d (shrW (c.w a) (c.w b))
def execIlsr (h : Hdr) (d : DReg) (a b : Src) (s : State) := regOp (.ilsr h d a b) s fun c => toD d (lsrW (c.w a) (c.w b))
def execIrot (h : Hdr) (d : DReg) (a b : Src) (s : State) := regOp (.irot h d a b) s fun c => toD d (rotW (c.w a) (c.w b))
def execIand (h : Hdr) (d : DReg) (a b : Src) (s : State) := regOp (.iand h d a b) s fun c => toD d (c.w a &&& c.w b)
def execIor (h : Hdr) (d : DReg) (a b : Src) (s : State) := regOp (.ior h d a b) s fun c => toD d (c.w a ||| c.w b)
def execIxor (h : Hdr) (d : DReg) (a b : Src) (s : State) := regOp (.ixor h d a b) s fun c => toD d (c.w a ^^^ c.w b)
def execIandn (h : Hdr) (d : DReg) (a b : Src) (s : State) := regOp (.iandn h d a b) s fun c => toD d (c.w a &&& ~~~(c.w b))
def execInot (h : Hdr) (d : DReg) (a : Src) (s : State) := regOp (.inot h d a) s fun c => toD d (~~~(c.w a))
def execIpopc (h : Hdr) (d : DReg) (a : Src) (s : State) := regOp (.ipopc h d a) s fun c => toD d (popW (c.w a))
def execIclz (h : Hdr) (d : DReg) (a : Src) (s : State) := regOp (.iclz h d a) s fun c => toD d (clzW (c.w a))
def execIbrev (h : Hdr) (d : DReg) (a : Src) (s : State) :=
  regOp (.ibrev h d a) s fun c => toD d (BitVec.ofNat 32 (revBits 32 (c.w a).toNat))
def execIbfe (h : Hdr) (u : Bool) (d : DReg) (a b : Src) (s : State) :=
  regOp (.ibfe h u d a b) s fun c => toD d (bfe u (c.w a) (c.w b))
def execIbfi (h : Hdr) (d : DReg) (a b k : Src) (s : State) :=
  regOp (.ibfi h d a b k) s fun c => toD d (bfi (c.w a) (c.w b) (c.w k))
def execIdiv (h : Hdr) (u : Bool) (d : DReg) (a b : Src) (s : State) :=
  regOp (.idiv h u d a b) s fun c => toD d (divW u (c.w a) (c.w b))
def execIrem (h : Hdr) (u : Bool) (d : DReg) (a b : Src) (s : State) :=
  regOp (.irem h u d a b) s fun c => toD d (remW u (c.w a) (c.w b))
def execIsel (h : Hdr) (pn : Bool) (pq : QReg) (d : DReg) (a b : Src) (s : State) :=
  regOp (.isel h pn pq d a b) s fun c => toD d (if c.q pq != pn then c.w a else c.w b)
def execIcmp (h : Hdr) (cc : ICc) (q : QReg) (a b : Src) (s : State) :=
  regOp (.icmp h cc q a b) s fun c => [predWrite q (cmpW cc (c.w a) (c.w b))]
def execLadd (h : Hdr) (bw : Bw) (d : DReg) (a b : Src) (s : State) :=
  regOp (.ladd h bw d a b) s fun c => toPair d (c.l a + c.bw bw b)
def execLsub (h : Hdr) (bw : Bw) (d : DReg) (a b : Src) (s : State) :=
  regOp (.lsub h bw d a b) s fun c => toPair d (c.l a - c.bw bw b)
def execLmul (h : Hdr) (bw : Bw) (d : DReg) (a b : Src) (s : State) :=
  regOp (.lmul h bw d a b) s fun c => toPair d (c.l a * c.bw bw b)
def execLshl (h : Hdr) (d : DReg) (a b : Src) (s : State) := regOp (.lshl h d a b) s fun c => toPair d (shlL (c.l a) (c.w b))
def execLshr (h : Hdr) (u : Bool) (d : DReg) (a b : Src) (s : State) :=
  regOp (.lshr h u d a b) s fun c => toPair d (shrL u (c.l a) (c.w b))
def execAadd (h : Hdr) (u : Bool) (sh : BitVec 4) (d : DReg) (a b : Src) (s : State) :=
  regOp (.aadd h u sh d a b) s fun c => toPair d (c.l a + (ext64 u (c.w b) <<< sh.toNat))
def execAlea (h : Hdr) (u : Bool) (d : DReg) (a b k : Src) (s : State) :=
  regOp (.alea h u d a b k) s fun c => toPair d (c.l a + ext64 u (c.w b) * (c.w k).setWidth 64)

end Sys2Proof.Machine
end

