-- ==== Sys2Proof/Machine/Access.lean ====
section
/-! DEFINITION. Accesses of threads to memory of every type but IO and SIBLING (R103, R108, R210, R298, R322), and the new value
of an atomic operation (R169). -/

namespace Sys2Proof.Machine

/-- A read at its point of performance, or from the core's L1 for a NORMAL page read at a scope narrower than cluster
(R108). A read at the home leaves no older copy of its bytes in the core's L1. -/
def State.memRead (s : State) (core asid : Nat) (near : Bool) (pa : Nat) (t : MType) (e n : Nat) : State × List Byte :=
  match t with
  | .host => (s.portFlits (some (core / 48)) (some asid) false 0 n, s.hostRead pa n)
  | .peer =>
    if s.peerUp (pteDev e) then
      (s.portFlits (some (core / 48)) (some asid) true 0 n, cRead s.peerMem (peerAddr (pteDev e) pa) n)
    else (s.logError (some asid) 4 (pteDev e), List.replicate n 0xFF)
  | .normal =>
    match (if near then s.l1Hit core pa n else none) with
    | some bs => (s, bs)
    | none =>
      let (s, bs) := s.readFrom (some (core / 48)) (some asid) true pa n
      ((s.dropL1 core pa n).countCore core 5 (some asid) (b2n near), bs)
  | _ => s.readFrom (some (core / 48)) (some asid) false pa n

/-- A write at its point of performance (R108: L1 is write-through). -/
def State.memWrite (s : State) (core asid : Nat) (pa : Nat) (t : MType) (e : Nat) (bs : List Byte) : State :=
  match t with
  | .host => (s.portFlits (some (core / 48)) (some asid) false bs.length 0).hostPut pa bs
  | .peer =>
    if s.peerUp (pteDev e) then
      { s.portFlits (some (core / 48)) (some asid) true bs.length 0 with peerMem := cWrite s.peerMem (peerAddr (pteDev e) pa) bs }
    else s.logError (some asid) 4 (pteDev e)
  | _ => (s.writeFrom (some (core / 48)) (some asid) (t == .normal) pa bs).dropL1 core pa bs.length

/-- One indivisible read and write (R115, R170): the old value, and the new one unless `f` writes none. -/
def State.memRmw (s : State) (core asid : Nat) (pa : Nat) (t : MType) (e n : Nat) (f : Nat → Option Nat) : State × Nat :=
  match t with
  | .peer =>
    if s.peerUp (pteDev e) then
      let old := leNat (cRead s.peerMem (peerAddr (pteDev e) pa) n)
      let s := s.portFlits (some (core / 48)) (some asid) true n n
      (match f old with
        | some v => { s with peerMem := cWrite s.peerMem (peerAddr (pteDev e) pa) (leBytes n v) }
        | none => s, old)
    else (s.logError (some asid) 4 (pteDev e), 2 ^ (8 * n) - 1)
  | .host =>
    let old := leNat (s.hostRead pa n)
    let s := s.portFlits (some (core / 48)) (some asid) false n n
    (match f old with | some v => s.hostPut pa (leBytes n v) | none => s, old)
  | t =>
    let (s, bs) := s.memRead core asid false pa t e n
    let old := leNat bs
    (match f old with | some v => (s.poke pa (leBytes n v)).dropL1 core pa n | none => s, old)

/-- Page types of ordinary loads and stores; IO at 32 and 64 bits only (R103). -/
def accessType (n : Nat) (t : MType) : Bool :=
  match t with
  | .sibling => false
  | .io => n == 4 || n == 8
  | _ => true

/-- Page types of an ATOM or RED (R171). -/
def atomType (atom : Bool) (op : AtomOp) (t : MType) : Bool :=
  match t with
  | .normal => true
  | .row => true
  | .peer => true
  | .host => match op with | .add => true | .exch => atom | .cas => atom | _ => false
  | _ => false

/-- F32 or F64 by width. -/
def fltOf (w64 : Bool) : FFmt := if w64 then .f64 else .f32

/-- The new value of R169; none when CAS does not write. -/
def atomNew (op : AtomOp) (w64 nsg : Bool) (old b cmp : Nat) : Option Nat :=
  let w := if w64 then 64 else 32
  let less (x y : Nat) : Bool := if nsg then decide (x < y) else decide (sgn w x < sgn w y)
  match op with
  | .add => some ((old + b) % 2 ^ w)
  | .min => some (if less b old then b else old)
  | .max => some (if less old b then b else old)
  | .and => some (old &&& b)
  | .or => some (old ||| b)
  | .xor => some (old ^^^ b)
  | .exch => some b
  | .cas => if old = cmp then some b else none
  | .fadd => some (fltAdd (fltOf w64) .rn false old b).bits
  | .fmin => some (fltMinMaxNan (fltOf w64) false old b).1
  | .fmax => some (fltMinMaxNan (fltOf w64) true old b).1

/-- Registers of an access of `n` bytes, from the lower address on (R164). -/
def loadWords (w : LdW) (bs : List Byte) : List Word :=
  match w with
  | .s8 => [(BitVec.ofNat 8 (leNat bs)).signExtend 32]
  | .s16 => [(BitVec.ofNat 16 (leNat bs)).signExtend 32]
  | w => (List.range w.regs).map fun k => BitVec.ofNat 32 (leNat ((bs.drop (4 * k)).take 4))
/-- The bytes of a store's registers (R164). -/
def storeBytes (w : StW) (t : Thread) (d : Nat) : List Byte :=
  ((List.range w.regs).flatMap fun k => leBytes 4 (t.dreg (d + k)).toNat).take w.bytes

/-- An order's acquire part (R110). -/
def Order.acquires : Order → Bool
  | .acq => true | .ar => true | .sc => true | _ => false
/-- An order's release part (R110), which an operation that writes nothing does not have (R170). -/
def Order.releases : Order → Bool
  | .rel => true | .ar => true | .sc => true | _ => false
/-- The effect of an operation's order on its core's L1; `wr` says that it has written. A release empties it at any scope: what the
thread has observed happens before its later reads (R114, R115), and before those of the threads of its group that acquire from it.
An acquire empties it at cluster scope or wider (R108). -/
def State.ordered (s : State) (core : Nat) (m : Mc) (wr : Bool) : State :=
  if wr && Order.releases m.order then s.clearL1 core
  else if Order.acquires m.order then s.acquire core m.scope else s

/-- Scopes narrower than cluster. -/
def nearScope (sc : Scope) : Bool := sc == .thr || sc == .grp

end Sys2Proof.Machine
end

