-- ==== Sys2Proof/Machine/Tile.lean ====
section
/-! DEFINITION. The tile engine (R251 to R259) and the cluster reduction unit (R260 to R263): the checks at issue, and the
performing of forked operations. -/

namespace Sys2Proof

/-- K of a format (R254, R256). -/
def LFmt.kOf : LFmt → Nat
  | .f16 => 32 | .b16 => 32 | .sb16 => 32 | .e4m3 => 64 | .e5m2 => 64 | .dx8 => 64 | .se4m3 => 64 | .dx4 => 128 | _ => 0

end Sys2Proof

namespace Sys2Proof.Machine

/-! ## Accumulator rows and weight slots (R251) -/

/-- The word of an accumulator element; an unlisted one is +0. -/
def accGet : List (Nat × Word) → Nat → Word
  | [], _ => 0
  | (a, v) :: t, x => if a = x then v else accGet t x

/-- Whole rows from `first` on replaced by words in order, the others kept; +0 is not listed. -/
def accRows (m : List (Nat × Word)) (first count : Nat) (ws : List Word) : List (Nat × Word) :=
  let lo := 128 * first
  let hi := 128 * (first + count)
  m.filter (fun x => x.1 < lo) ++ ((List.range' lo (hi - lo)).zip ws).filter (fun x => x.2 != 0) ++
    m.filter (fun x => hi ≤ x.1)

/-- ACC_OWNER (R251, R303). -/
def accOwned (ok : Bool) (what slot : Nat) : Except Eff Unit :=
  if ok then .ok () else .error (.trap (FCode.accOwner.detail what slot))

/-! ## Checks at issue (R239, steps 1 to 4) -/

def Ctx.quadW (c : Ctx) (q : DReg) (k : Nat) : Nat := (c.t.dreg (q.toNat + k)).toNat

/-- A stride that breaks its Values column (R254, R258); the record's ADDR is the stride (DESIGN CHOICE, log entry 106: a stride is no
address, and R254 raises MISALIGN for it exactly as for an offset). -/
def strideOk (v least : Nat) : Except Eff Unit := if v % 64 = 0 ∧ least ≤ v then .ok () else trapAt .misalign v

/-- The operation an MMA describes (R254). -/
def mmaKind (f : LFmt) (d0 d1 d2 d3 bar : Nat) : EngKind :=
  .mma f d0 (bits d1 19 0) d2 (bits d3 31 16) (bits d3 12 8) (bits d3 2 0) bar
def mmaCheck (g : Group) (f : LFmt) (d0 d1 d2 d3 bar : Nat) : Except Eff Unit := do
  aligned d0 64
  strideOk (bits d1 19 0) 64
  if f == .dx8 || f == .dx4 then aligned d2 64
  aligned bar 8
  inScratch g d0 (63 * bits d1 19 0 + 64)
  if f == .dx8 || f == .dx4 then inScratch g d2 (64 * LFmt.kOf f / 16)
  inScratch g bar 8
  accOwned (64 * bits d3 2 0 + 64 ≤ g.accRows) (64 * bits d3 2 0) 0
  accOwned (bits d3 12 8 < g.accRows / 16) (bits d3 12 8) 1

/-- MMZ (R255). -/
def mmzKind (a bar : Nat) : EngKind := .mmz (bits a 8 0) (bits a 24 16 + 1) bar
def mmzCheck (g : Group) (a bar : Nat) : Except Eff Unit := do
  aligned bar 8
  inScratch g bar 8
  accOwned (bits a 8 0 + (bits a 24 16 + 1) ≤ g.accRows) (bits a 8 0) 0

/-- WBREL (R257). -/
def wbrelCheck (g : Group) (bar : Nat) : Except Eff Unit := do
  aligned bar 8
  inScratch g bar 8

/-- WBLD (R256): its record is only located here. -/
def wbldCheck (s : State) (g : Group) (slot : Nat) (lay : Dword) (bar : Nat) : Except Eff Unit := do
  aligned bar 8
  let _ ← s.recordAt g lay
  inScratch g bar 8
  accOwned (slot < g.accRows / 16) slot 1

/-- ACCLD and ACCST (R258). -/
def accCheck (g : Group) (f : LFmt) (d0 d1 d2 bar : Nat) : Except Eff Unit := do
  let n := bits d2 24 16 + 1
  aligned d0 64
  strideOk (bits d1 19 0) (128 * f.eb)
  aligned bar 8
  inScratch g d0 ((n - 1) * bits d1 19 0 + 128 * f.eb)
  inScratch g bar 8
  accOwned (bits d2 8 0 + n ≤ g.accRows) (bits d2 8 0) 0

/-! ## Performing a tile operation -/

/-- A's 64 elements, or 32, or 128, of one row (R254). -/
def aRow (f : LFmt) (row exps : List Byte) : List FVal :=
  match f with
  | .f16 => (List.range 32).map fun k => FFmt.f16.read (leNat ((row.drop (2 * k)).take 2))
  | .b16 => (List.range 32).map fun k => FFmt.b16.read (leNat ((row.drop (2 * k)).take 2))
  | .e4m3 => row.map fun b => FFmt.e4m3.read b.toNat
  | .e5m2 => row.map fun b => FFmt.e5m2.read b.toNat
  | .dx8 => (List.range 64).map fun k =>
      dxVal false (row.getD k 0).toNat (exps.getD (2 * (k / 32)) 0).toNat (exps.getD (2 * (k / 32) + 1) 0).toNat
  | .dx4 => (List.range 128).map fun k =>
      dxVal true ((row.getD (k / 2) 0).toNat / 16 ^ (k % 2) % 16) (exps.getD (2 * (k / 32)) 0).toNat
        (exps.getD (2 * (k / 32) + 1) 0).toNat
  | _ => []

/-- Column `col` of a slot, as exact F32 values. -/
def slotCol (vals : List (Nat × Word)) (k col : Nat) : List FVal :=
  (List.range k).map fun i => FFmt.f32.read (accGet vals (128 * i + col)).toNat

/-- One output element (R95, R254). -/
def mmaElem (lv : Nat) (a b : List FVal) (acc : Word) : RRes :=
  tileAcc acc.toNat lv ((a.zip b).map fun p => prodRN p.1 p.2)

/-- The operations of the tile order (R252). -/
def EngKind.isTile : EngKind → Bool
  | .mma _ _ _ _ _ _ _ _ => true
  | .mmz _ _ _ => true
  | .wbrel _ => true
  | .accld _ _ _ _ _ _ _ => true
  | .accst _ _ _ _ _ _ _ => true
  | _ => false

/-- The group's first operation in the tile order. -/
def State.tileTurn (s : State) (o : EngOp) : Bool :=
  (s.ops.find? fun x => x.grp == o.grp && x.kind.isTile).map EngOp.id == some o.id

/-- A tile operation is performed (R253 to R258). -/
def State.runTile (s : State) (o : EngOp) (g : Group) : State :=
  let core := s.core g.core
  match o.kind with
  | .mma f aoff astride aexp tid slot ag bar =>
    let sl := core.slots.getD (g.accBase / 16 + slot) WSlot.empty
    let k := f.kOf
    if (sl.tag.map LFmt.kOf) != some k then s.endOp o rFORMAT else
    let lv := Nat.log2 k
    let cols := (List.range 128).map fun col => slotCol sl.vals k col
    let first := g.accBase + 64 * ag
    let rs := (List.range 64).flatMap fun r =>
      let a := aRow f (g.rd (aoff + r * astride) 64) (g.rd (aexp + 2 * (r * (k / 32))) (2 * (k / 32)))
      (List.range 128).map fun col => mmaElem lv a (cols.getD col []) (accGet core.acc (128 * (first + r) + col))
    let s := s.setCore g.core fun c => { c with acc := accRows c.acc first 64 (rs.map fun r => BitVec.ofNat 32 r.bits) }
    (((s.tallyOp o tid (rs.map fun r => { r with sat := false })).arrive o.grp bar 32768 0).countCore g.core 6 (some o.asid) 1).closeOp o
  | .mmz first count bar =>
    let s := s.setCore g.core fun c => { c with acc := accRows c.acc (g.accBase + first) count [] }
    ((s.arrive o.grp bar (512 * count) 0).countCore g.core 6 (some o.asid) 1).closeOp o
  | .wbrel bar => ((s.arrive o.grp bar 8192 0).countCore g.core 6 (some o.asid) 1).closeOp o
  | .accld f soff sstride count first tid bar =>
    let rs := (List.range count).flatMap fun i => (List.range 128).map fun e =>
      convert (.flt .f32) f.num .rn false (g.rdNat (soff + i * sstride + f.eb * e) f.eb)
    let s := s.setCore g.core fun c =>
      { c with acc := accRows c.acc (g.accBase + first) count (rs.map fun r => BitVec.ofNat 32 r.bits) }
    (((s.tallyOp o tid (rs.map fun r => { r with sat := false, flush := false })).arrive o.grp bar (512 * count) 0).countCore
      g.core 6 (some o.asid) 1).closeOp o
  | .accst f soff sstride count first tid bar =>
    let rs := (List.range count).flatMap fun i => (List.range 128).map fun e =>
      (soff + i * sstride + f.eb * e,
        convert f.num (.flt .f32) .rn false (accGet core.acc (128 * (g.accBase + first + i) + e)).toNat)
    let s := s.scratchPuts o.grp (rs.map fun r => (r.1, leBytes f.eb r.2.bits))
    (((s.tallyOp o tid (rs.map fun r => r.2)).arrive o.grp bar (128 * f.eb * count) 0).countCore g.core 6 (some o.asid) 1).closeOp o
  | _ => s

/-! ## Weight loads (R256) -/

/-- A DX element of a slot as F32. -/
def dx32 (dx4 : Bool) (code x : Nat) : Word := BitVec.ofNat 32 (rn32 (dxVal dx4 code (x % 256) (x / 256)))

/-- A slot receives its values, by 128*k + col. -/
def slotVals (k : Nat) (val : Nat → Nat → Word) : List (Nat × Word) :=
  ((List.range (128 * k)).map fun i => (i, val (i / 128) (i % 128))).filter fun x => x.2 != 0

/-- The value of element (k, col) of a dense box read in units of L(p) = k' + t0 * col. -/
def denseVal (f : LFmt) (es xs : List (Nat × List Byte)) (k col : Nat) : Word :=
  let kk := f.kOf
  let unit (i : Nat) : Nat := leNat ((es.getD i (0, [])).2)
  match f with
  | .dx8 => dx32 false (unit (k + kk * col)) (leNat ((xs.getD ((k + kk * col) / 32) (0, [])).2))
  | .dx4 => dx32 true (unit ((k + kk * col) / 2) / 16 ^ (k % 2) % 16) (leNat ((xs.getD ((k + kk * col) / 32) (0, [])).2))
  | f => BitVec.ofNat 32 (convert (.flt .f32) f.num .rn false (unit (k + kk * col))).bits

/-- Values of a slot with the NaN elements among them (R91): every NaN placed counts. -/
def nanCount (vs : List (Nat × Word)) : Nat := vs.countP fun v => (FFmt.f32.read v.2.toNat).isNan

/-- What a slot reads as where its tag is not the format that its data were loaded in: not architected (R251), a free value of load
`n`. Its numbers from 16384 on are for data that arrive under another tag. -/
def staleVals (n first : Nat) : List (Nat × Word) :=
  ((List.range 16384).map fun i => (i, Config.staleWeight n (first + i))).filter fun x => x.2 != 0

/-- Load `n` writes a slot's tag, as of its fork (R256): not over the tag of a load that forked later. -/
def State.tagSlot (s : State) (core slot n : Nat) (f : Option LFmt) : State :=
  s.setCore core fun k => { k with slots := k.slots.modify slot fun (w : WSlot) =>
    if n < w.load then w else if w.tag = f then { w with load := n } else ⟨f, staleVals n 0, n⟩ }

/-- The data of load `n` arrive in a slot, whose tag stays as the forks and the errors have left it (R256). -/
def State.fillSlot (s : State) (core slot n : Nat) (f : LFmt) (vs : List (Nat × Word)) : State :=
  s.setCore core fun k => { k with slots := k.slots.modify slot fun (w : WSlot) =>
    if w.tag.isNone then w else { w with vals := if w.tag = some f then vs else staleVals n 16384 } }

/-- A weight load forks; its record is read then when its page is there (R239, R256). Else the tag is written once the record has been
read (DESIGN CHOICE, log entry 49). -/
def State.forkWbld (s : State) (gi : Nat) (sparse : Bool) (slot : Nat) (lay : Dword) (c : List Nat) (bar : Nat) : State :=
  match s.groups[gi]? with
  | none => s
  | some g =>
    match s.engRead (some (g.core / 48)) g.asid isNormal (byteAddrs lay.toNat 64) with
    | (s, .error _) => s.fork gi (.wbld sparse slot lay c bar) noRec
    | (s, .ok bs) =>
      let l := Layout.ofBytes bs
      (s.fork gi (.wbld sparse slot lay c bar) (.ok l)).tagSlot g.core (g.accBase / 16 + slot) s.nextOp l.format

/-- A weight load with its record fills its slot, or waits, or ends with its reason. A format that it does not accept gives FORMAT
also where its box breaks R237 (DESIGN CHOICE, log entry 74: R256 gives no order between the two). -/
def State.wbldBox (s : State) (o : EngOp) (g : Group) (sparse : Bool) (slot : Nat) (c : List Nat) (bar : Nat) (l : Layout) : State :=
  if l.malformed then s.endOp o rMALFORMED else
  match l.format with
  | none => s.endOp o rMALFORMED
  | some f =>
    if f.kOf == 0 || f.sparse != sparse then s.endOp o rFORMAT
    else if l.badBox c false || l.tl 0 != f.kOf || l.tl 1 != 128 || l.tl 2 != 1 || l.tl 3 != 1 then s.endOp o rMALFORMED
    else
      let accept (t : MType) : Bool := t == .normal || t == .row
      let put (s : State) (vs : List (Nat × Word)) : State :=
        let s := (s.fillSlot g.core (g.accBase / 16 + slot) o.id f vs).tally o.asid o.launch l.tid 0 0 (nanCount vs)
        ((s.arrive o.grp bar 8192 0).countCore g.core 6 (some o.asid) 1).closeOp o
      if sparse then
        match s.sparseIn o accept c l f with
        | (s, .error e) => s.failOp o e
        | (s, .ok vs) =>
          let nf : NFmt := if f == .sb16 then .flt .b16 else .flt .e4m3
          let col (j : Nat) : List Nat := (vs.filter fun v => v.1 / f.kOf == j).flatMap fun v => v.2
          put s (slotVals f.kOf fun k j => BitVec.ofNat 32 (convert (.flt .f32) nf .rn false ((col j).getD k 0)).bits)
      else
        let us := l.units f c false
        let xs := l.exps f c
        match s.engRead (s.opDie o) o.asid accept (unitAddrs f.eb us ++ unitAddrs 2 xs) with
        | (s, .error e) => s.failOp o e
        | (s, .ok bs) =>
          let n := f.eb * (us.countP fun u => u.2.isSome)
          put s (slotVals f.kOf (denseVal f (assign f.eb us (bs.take n)) (assign 2 xs (bs.drop n))))

/-- A weight load is performed (R256); it reads its record first when its fork found the record's page absent. -/
def State.runWbld (s : State) (o : EngOp) (g : Group) : State :=
  match o.kind with
  | .wbld sparse slot lay c bar =>
    match o.layout with
    | some l => s.wbldBox o g sparse slot c bar l
    | none =>
      match s.engRead (s.opDie o) o.asid isNormal (byteAddrs lay.toNat 64) with
      | (s, .error e) => s.failOp o e
      | (s, .ok bs) =>
        let l := Layout.ofBytes bs
        ({ s with ops := s.ops.map fun (x : EngOp) => if x.id = o.id then { x with layout := some l } else x }.tagSlot
          g.core (g.accBase / 16 + slot) o.id l.format).wbldBox o g sparse slot c bar l
  | _ => s

/-! ## Cluster reductions (R260 to R263) -/

/-- Records of F32 words combined (R261, R262), participants in ascending rank. -/
def fold32 (step : Nat → Nat → Nat) : List Nat → Nat
  | [] => 0
  | a :: t => t.foldl step (canon .f32 a).1

def smxMax (a b : Nat) : Nat :=
  if (FFmt.f32.read a).isNan || (FFmt.f32.read b).isNan then FFmt.f32.nanBits else (fltMinMax .f32 true a b).1

/-- CRED.SMX (R261). Of one participant alone whose m is an infinity or a NaN the pseudocode of R261 is followed, where m = -infinity
gives w = +0, and not its closing sentence, by which w is 1 and the record passes unchanged (DESIGN CHOICE, log entry 91). -/
def credSmxOf (recs : List (List Nat)) : List Nat :=
  let ms := recs.map fun r => r.getD 0 0
  let m := fold32 smxMax ms
  let ws := ms.map fun x => if x = 0xFF800000 then 0 else fex2Bits (fltSub .f32 .rn false x m).bits
  let n := (recs.headD []).length
  m :: (List.range' 1 (n - 1)).map fun e =>
    match (recs.zip ws).map fun p => (mul32 (p.1.getD e 0) p.2).bits with
    | [] => 0
    | a :: t => t.foldl (fun r x => (add32 r x).bits) a

/-- CRED.SUM and CRED.MAX (R262). -/
def credFold (op : CredOp) (recs : List (List Nat)) : List Nat :=
  match op with
  | .smx => credSmxOf recs
  | .sum => (List.range (recs.headD []).length).map fun e => fold32 (fun r x => (add32 r x).bits) (recs.map fun r => r.getD e 0)
  | .max => (List.range (recs.headD []).length).map fun e =>
      fold32 (fun r x => (fltMinMax .f32 true r x).1) (recs.map fun r => r.getD e 0)

/-- Words of a record (R260). -/
def credWords (op : CredOp) (n : Nat) : Nat := if op = .smx then n + 2 else n

/-- The checks of a contribution (R260): offsets of result, source and barrier, and the control word. -/
def credCheck (s : State) (g : Group) (op : CredOp) (d src bar k : Nat) : Except Eff Unit := do
  let n := bits k 6 0 + 1
  let part := BitVec.ofNat 4 (bits k 19 16)
  let recv := BitVec.ofNat 4 (bits k 23 20)
  aligned d 4
  aligned src 4
  aligned bar 8
  inScratch g src (4 * credWords op n)
  if !part.getLsbD g.cid then trapAt .scratchBounds src
  ranksExist g part src
  ranksExist g recv d
  let ts := ((List.range 4).filter fun r => recv.getLsbD r).map g.rank
  s.inScratches ts d (4 * credWords op n)
  s.inScratches ts bar 8

/-- Two contributions differ (R263). -/
def Contrib.differs (a b : Contrib) : Bool := a.op != b.op || a.part != b.part || a.n != b.n

/-- Every rank named has contributed (R260). -/
def CredOne.complete (x : CredOne) : Bool :=
  !x.contribs.isEmpty && (List.range 4).all fun r =>
    !(x.contribs.any fun c => !c.late && c.part.getLsbD r) || x.contribs.any fun c => !c.late && c.rank == r

/-- A contribution reaches its instance; the record is read here, at the fork, a release pattern (R118, R260). -/
def State.contribute (s : State) (gi : Nat) (op : CredOp) (d src bar k : Nat) : State :=
  match s.groups[gi]? with
  | none => s
  | some g =>
    let chan := bits k 11 8
    let n := bits k 6 0 + 1
    let kth := g.credK.getD chan 0
    let c : Contrib :=
      { rank := g.cid, grp := gi, op, part := BitVec.ofNat 4 (bits k 19 16), recv := BitVec.ofNat 4 (bits k 23 20), n
        dOff := d, bOff := bar, answered := false, late := false
        data := (List.range (credWords op n)).map fun i => BitVec.ofNat 32 (g.rdNat (src + 4 * i) 4) }
    let s := (s.clearL1 g.core).setGrp gi fun g => { g with credK := g.credK.set chan (kth + 1) }
    let lead := g.rank 0
    let same (x : CredOne) : Bool := x.lead == lead && x.chan == chan && x.k == kth
    if s.creds.any same then
      { s with creds := s.creds.map fun (x : CredOne) =>
          if same x then
            if !x.mismatch && x.complete then { x with contribs := x.contribs ++ [{ c with late := true }] }
            else { x with contribs := x.contribs ++ [c], mismatch := x.mismatch || x.contribs.any c.differs }
          else x }
    else
      { s with creds := s.creds ++ [⟨s.nextOp, lead, chan, kth, [c], false⟩], nextOp := s.nextOp + 1 }

/-- CRED_RESULT_WRITE: contributions of a mismatched instance, and those that came after completion, are answered (R263); a
complete instance's result goes to the receivers of its lowest rank (R260). -/
def State.runCred (s : State) (x : CredOne) : State :=
  let bad := x.contribs.filter fun c => !c.answered && (x.mismatch || c.late)
  let s := bad.foldl (fun s c => s.answerCred c rMISMATCH) s
  let isDone := !x.mismatch && x.complete
  let ps := (List.range 4).flatMap fun r => x.contribs.filter fun c => !c.late && c.rank == r
  let fresh := isDone && ps.any fun c => !c.answered
  let s := match ps with
    | [] => s
    | low :: _ =>
      if !fresh then s else
      let out := (credFold low.op (ps.map fun (c : Contrib) => c.data.map BitVec.toNat)).flatMap (leBytes 4)
      match s.groups[low.grp]? with
      | none => s
      | some g => (((List.range 4).filter fun r => low.recv.getLsbD r).map g.rank).foldl
          (fun s t => (s.scratchPuts t [(low.dOff, out)]).arrive t low.bOff out.length 0) s
  { s with creds := s.creds.map fun (y : CredOne) =>
      if y.id = x.id then
        { y with contribs := y.contribs.map fun (c : Contrib) => if y.mismatch || c.late || isDone then { c with answered := true } else c }
      else y }

end Sys2Proof.Machine
end

