-- ==== Sys2Proof/Machine/Grammar.lean ====
section
/-! DEFINITION. Delivery of a convergence instance (R188), and the grammar engine (R265 to R277): segments, their order, and
the evaluation of streams. -/

namespace Sys2Proof.Machine

/-! ## Delivery of an instance (R188) -/

/-- A participant receives its result: its window's (R59 to R61), or the end of its wait (R33). -/
def Thread.receive (t : Thread) (c : Nat) (ws : List Write) : Thread :=
  match t.status with
  | .exited => t
  | .blocked (.set k) _ =>
    if k = c ∧ t.held.isNone then { t.putAll ws with status := .ready, held := none } else t.resolve (.set c) fun _ => ws
  | _ => t.resolve (.set c) fun _ => ws

/-- An instance completes: each participant receives its result, and the register is free again. -/
def State.deliverSet (s : State) (gi c : Nat) (res : Sig → List Write) : State :=
  s.setGrp gi fun g =>
    match g.cvs[c]? with
    | none => g
    | some cv =>
      { g with
        cvs := g.cvs.set c { cv with pend := false, signed := 0, sigs := [] }
        threads := cv.sigs.foldl (fun ts x => ts.modify x.tid fun t => t.receive c (res x)) g.threads }

/-! ## Symbols (R265) -/

/-- A symbol of a stream. -/
inductive Symbol where
  | term (col code : Nat)
  | ref (rule : Nat)
  | close (row : Option Nat)
  /-- a reserved kind, or a reserved field that is not 0. -/
  | bad
  deriving DecidableEq, Repr

def Symbol.ofWord (y : Nat) : Symbol :=
  match bits y 31 30 with
  | 0 => .term (bits y 29 8) (bits y 7 0)
  | 1 => if bits y 29 12 != 0 then .bad else .ref (bits y 11 0)
  | 2 =>
    if bits y 28 22 != 0 || (!bit y 29 && bits y 21 0 != 0) then .bad
    else .close (if bit y 29 then some (bits y 21 0) else none)
  | _ => .bad

/-! ## Evaluation (R269) -/

/-- Registers of an evaluation: rules completed, and depth, length and sums of the rule in progress. -/
structure GramRun where
  rules : List Rule
  dep : Nat
  len : Nat
  sums : List Word
  deriving DecidableEq, Repr

def sumW (a b : Word) : Word := BitVec.ofNat 32 (add32 a.toNat b.toNat).bits
def prodW (a b : Word) : Word := BitVec.ofNat 32 (mul32 a.toNat b.toNat).bits
def zeroSums (nv : Nat) : List Word := List.replicate nv 0

/-- Element `col` of bound vector `b` as F32 (R273). -/
def Binding.elem (x : Binding) (g : Group) (b col : Nat) : Word :=
  if x.b16 then BitVec.ofNat 32 (g.rdNat (x.off + b * x.vstride + 2 * col) 2 * 2 ^ 16)
  else BitVec.ofNat 32 (g.rdNat (x.off + b * x.vstride + 4 * col) 4)

/-- A codebook entry as exact F32. -/
def cbWord (h : Half) : Word := BitVec.ofNat 32 (convert (.flt .f32) (.flt .f16) .rn false h.toNat).bits

/-- One symbol: the registers afterwards, or the code of a stream fault. -/
def gramStep (x : Segment) (b : Binding) (g : Group) (r : GramRun) (y : Nat) : Except FCode GramRun :=
  if r.rules.length > 4095 then .error .rvfRange else
  match Symbol.ofWord y with
  | .bad => .error .grammarOrder
  | .term col code =>
    match x.cbook[code]? with
    | none => .error .grammarOrder
    | some k =>
      if b.len ≤ col then .error .scratchBounds
      else .ok { r with len := r.len + 1, sums := r.sums.zipIdx.map fun p => sumW p.1 (prodW (cbWord k) (b.elem g p.2 col)) }
  | .ref rule =>
    match r.rules[rule]? with
    | none => .error .grammarOrder
    | some u => .ok { r with len := r.len + 1, dep := max r.dep u.depth, sums := r.sums.zipWith sumW u.vals }
  | .close row =>
    if r.dep + 1 > 15 then .error .ruleDepth
    else .ok ⟨r.rules ++ [Rule.mk r.sums (r.dep + 1) row], 0, 0, zeroSums b.nv⟩

/-- How an evaluation ends: every symbol read, a stream fault at symbol i of rule n, or a failed access. -/
inductive GramEnd where
  | all (r : GramRun)
  | stop (code : FCode) (i n : Nat) (rules : List Rule)
  | fail (e : EngFail)
  deriving DecidableEq, Repr

/-- Page types of a stream (R274). -/
def streamType (t : MType) : Bool := t == .normal || t == .row

/-- Symbols from number `i` on, `k` of them. -/
def State.gramLoop (asid : Nat) (x : Segment) (b : Binding) (g : Group) : Nat → Nat → State → GramRun → State × GramEnd
  | 0, i, s, r => (s, if r.len != 0 then .stop .grammarOrder i r.rules.length r.rules else .all r)
  | k + 1, i, s, r =>
    match s.engRead (some (g.core / 48)) asid streamType (byteAddrs (x.stream.toNat + 4 * i) 4) with
    | (s, .error e) => (s, .fail e)
    | (s, .ok bs) =>
      match gramStep x b g r (leNat bs) with
      | .error code => (s, .stop code i r.rules.length r.rules)
      | .ok r => State.gramLoop asid x b g k (i + 1) (s.countCore g.core 8 (some asid) 1) r

/-! ## The order of grammar operations (R277) -/

/-- The group has a forked GRUN or GOUT that has not ended. -/
def State.gramBusy (s : State) (gi : Nat) : Bool :=
  s.ops.any fun o => o.grp == gi && match o.kind with | .grun _ => true | .gout => true | _ => false
/-- It is the first of its group. -/
def State.gramTurn (s : State) (o : EngOp) : Bool :=
  (s.ops.find? fun x => x.grp == o.grp && match x.kind with | .grun _ => true | .gout => true | _ => false).map EngOp.id == some o.id
/-- A GSEG of the group waits for an absent page. -/
def State.segWaits (s : State) (gi : Nat) : Bool :=
  s.parked.any fun p => match p.who with | .seg g _ => g == gi | _ => false
/-- A core's engine is held by the segment of a resident group other than `but`, open or being opened (R268). -/
def State.engineUsed (s : State) (core : Nat) (but : Option Nat) : Bool :=
  (List.range s.groups.length).any fun k =>
    some k != but && match s.groups[k]? with
      | some h => h.core == core && h.resident && (h.seg.isSome || s.segWaits k)
      | none => false
/-- The core's engine is held by another group. -/
def State.engineHeld (s : State) (gi : Nat) : Bool :=
  match s.groups[gi]? with
  | none => false
  | some g => s.engineUsed g.core (some gi)

/-- Status words of R271. -/
def gDONE : Nat := 0
def gBUSY : Nat := 1
def gNOSEG : Nat := 3
def gNOVEC : Nat := 4
def gREFUSED (reason : Nat) : Nat := 2 + 256 * reason
def gERROR (reason : Nat) : Nat := 5 + 256 * reason

/-- The d register that a grammar instruction writes. -/
def gramDst : Instr → Nat
  | .gseg _ d _ _ => d.toNat
  | .gvec _ d _ _ => d.toNat
  | .grun _ d _ => d.toNat
  | .gout _ d _ => d.toNat
  | .gwait _ d => d.toNat
  | _ => 0

/-- The status reaches every participant. -/
def State.deliverGram (s : State) (gi c status : Nat) : State :=
  s.deliverSet gi c fun x => [.reg (.d (gramDst x.instr)) (BitVec.ofNat 32 status)]

def State.closeSeg (s : State) (gi : Nat) : State := s.setGrp gi fun g => { g with seg := none }

/-- Opening (R272): the segment, the status of a refusal, or an absent page. -/
def State.openSeg (s : State) (core asid : Nat) (addr : Nat) : State × Except EngFail (Except Nat Segment) :=
  match s.engRead (some (core / 48)) asid isNormal (byteAddrs addr 32) with
  | (s, .error e) => (s, .error e)
  | (s, .ok bs) =>
    let w := leNat bs
    let f (lo n : Nat) : Nat := w / 2 ^ (8 * lo) % 2 ^ (8 * n)
    let ncode := f 28 2
    let nsym := f 24 4
    if f 30 2 != 0 || ncode == 0 || ncode > 256 || nsym == 0 || nsym > 2 ^ 28 || f 16 8 % 64 != 0 || f 8 8 % 2 != 0 || f 0 8 % 4 != 0
    then (s, .ok (.error (gREFUSED rMALFORMED)))
    else
      match s.engRead (some (core / 48)) asid isNormal (byteAddrs (f 16 8) 64) with
      | (s, .error e) => (s, .error e)
      | (s, .ok lb) =>
        let l := Layout.ofBytes lb
        if l.malformed || !(l.format == some .f32 || l.format == some .b16) || l.ndim > 2
        then (s, .ok (.error (gREFUSED rMALFORMED)))
        else
          match s.engRead (some (core / 48)) asid isNormal (byteAddrs (f 8 8) (2 * ncode)) with
          | (s, .error e) => (s, .error e)
          | (s, .ok cb) =>
            (s, .ok (.ok
              { stream := BitVec.ofNat 64 (f 0 8), cbookAddr := BitVec.ofNat 64 (f 8 8), outlay := BitVec.ofNat 64 (f 16 8), nsym
                cbook := (List.range ncode).map fun k => BitVec.ofNat 16 (leNat ((cb.drop (2 * k)).take 2))
                out := l, binding := none, rules := [], lastNv := 0, fault := none }))

/-- A completed GSEG is performed, its core's L1 keeping nothing older than its reads (R115); true when it is over. One that has waited for a page has closed its group's segment and holds
the engine: it opens without asking again whether the engine is held (R268, R272). -/
def State.performSeg (s : State) (gi c : Nat) (g : Group) (addr : Nat) (again : Bool) : State × Bool :=
  if addr = 0 then ((s.closeSeg gi).deliverGram gi c gDONE, true)
  else if !again && s.engineHeld gi then (s.deliverGram gi c gBUSY, true)
  else
    match ((s.closeSeg gi).clearL1 g.core).openSeg g.core g.asid addr with
    | (s, .error (.absent va w)) => (s.parkEngine g.asid va g.core g.launch w (.seg gi c), false)
    | (s, .error (.fail r)) => (s.deliverGram gi c (gREFUSED r), true)
    | (s, .error (.peer _)) => (s.deliverGram gi c (gREFUSED rMEMTYPE), true)
    | (s, .ok (.error st)) => (s.deliverGram gi c st, true)
    | (s, .ok (.ok x)) => ((s.setGrp gi fun g => { g with seg := some x }).deliverGram gi c gDONE, true)

/-- GRUN and GOUT fork, and their operation joins the group's list (R276). -/
def State.forkGram (s : State) (gi c : Nat) (k : EngKind) : State :=
  let id := s.nextOp
  let s := (s.fork gi k noRec).setGrp gi fun g =>
    { g with gram := g.gram ++ [GramOp.mk id ((g.cvs[c]?.map Conv.signed).getD 0) none] }
  s.deliverGram gi c gDONE

/-- The binding of a GVEC's quad (R273). -/
def bindingOf (vals : List Word) : Binding :=
  let w (k : Nat) : Nat := (vals.getD k 0).toNat
  ⟨w 0, bits (w 1) 19 0, bits (w 2) 21 0 + 1, bit (w 3) 8, bits (w 3) 2 0 + 1⟩

/-- The descriptor address that a GSEG's participant signed with. -/
def segAddr (x : Sig) : Nat := (pairOf (x.vals.getD 0 0) (x.vals.getD 1 0)).toNat

/-- A completed GSEG, GVEC, GRUN or GOUT is performed in its turn; true when it is over, false while it waits. -/
def State.performGram (s : State) (gi c : Nat) : State × Bool :=
  match s.groups[gi]? with
  | none => (s, true)
  | some g =>
    match (g.cvs[c]?).bind fun cv => cv.sigs.head? with
    | none => (s, true)
    | some x =>
      match x.instr with
      | .gseg _ _ _ _ =>
        if s.gramBusy gi || s.segWaits gi then (s, false)
        else s.performSeg gi c g (segAddr x) false
      | .gvec _ _ _ _ =>
        match g.seg with
        | none => (s.deliverGram gi c gNOSEG, true)
        | some _ =>
          ((s.setGrp gi fun g => { g with seg := g.seg.map fun z => { z with binding := some (bindingOf x.vals) } }).deliverGram gi c gDONE,
            true)
      | .grun _ _ _ =>
        match g.seg with
        | none => (s.deliverGram gi c gNOSEG, true)
        | some z =>
          match z.binding with
          | none => (s.deliverGram gi c gNOVEC, true)
          | some b => (s.forkGram gi c (.grun b), true)
      | .gout _ _ _ =>
        match g.seg with
        | none => (s.deliverGram gi c gNOSEG, true)
        | some _ => (s.forkGram gi c .gout, true)
      | _ => (s, true)

/-- Instances that wait for their turn are performed as far as they can be. -/
def State.drainFuel : Nat → State → Nat → State
  | 0, s, _ => s
  | k + 1, s, gi =>
    match (s.groups[gi]?).bind fun g => g.gramQ.head? with
    | none => s
    | some c =>
      match s.performGram gi c with
      | (s, true) => State.drainFuel k (s.setGrp gi fun g => { g with gramQ := g.gramQ.tail }) gi
      | (s, false) => s
def State.drainGram (s : State) (gi : Nat) : State :=
  State.drainFuel ((s.groups[gi]?.map fun g => g.gramQ.length).getD 0) s gi

/-- A GSEG whose page is there now goes on (R240, R272), and what waits behind it. -/
def State.reopenSeg (s : State) (gi c : Nat) : State :=
  match s.groups[gi]? with
  | none => s
  | some g =>
    match (g.cvs[c]?).bind fun cv => cv.sigs.head? with
    | none => s
    | some x =>
      match s.performSeg gi c g (segAddr x) true with
      | (s, true) => (s.setGrp gi fun g => { g with gramQ := g.gramQ.tail }).drainGram gi
      | (s, false) => s

/-! ## GRUN and GOUT operations -/

/-- An operation ends with its outcome, and what waits for it goes on. -/
def State.closeGram (s : State) (o : EngOp) (r : EngRes) : State :=
  ((s.closeOp o).setGrp o.grp fun g => g.endGram o.id r).drainGram o.grp

/-- The end of a grammar operation with an ENGINE_ERROR reason, or its wait for a page (R240). -/
def State.failGram (s : State) (o : EngOp) (e : EngFail) : State := (s.failOp o e).drainGram o.grp

/-- GRUN (R269, R274). What its reads may have made stale leaves the core's L1, as at GOUT, before the GWAIT that joins it (R115,
R276). -/
def State.runGrun (s : State) (o : EngOp) (g : Group) (b : Binding) : State :=
  match g.seg with
  | none => s.closeGram o .ok
  | some x =>
    match x.fault with
    | some r => s.closeGram o r
    | none =>
      let keep (s : State) (rules : List Rule) : State :=
        s.setGrp o.grp fun g => { g with seg := g.seg.map fun z => { z with rules, lastNv := b.nv } }
      match State.gramLoop o.asid x b g x.nsym 0 (s.clearL1 g.core) ⟨[], 0, 0, zeroSums b.nv⟩ with
      | (s, .all r) => (keep s r.rules).closeGram o .ok
      | (s, .stop code i n rules) => (keep s rules).closeGram o (.stream code i n)
      | (s, .fail e) => s.failGram o e

/-- Rule k supplies its row's output: no later rule names the same row (R275). -/
def rowRules : List Rule → List (Nat × List Word)
  | [] => []
  | r :: rs =>
    match r.row with
    | some i => if rs.any (fun q => q.row == some i) then rowRules rs else (i, r.vals) :: rowRules rs
    | none => rowRules rs

/-- GOUT (R275). Its elements are written in the order of their rules, then of their vectors: of two that share bytes the later stays
(DESIGN CHOICE, log entry 92: R275 gives no order). -/
def State.runGout (s : State) (o : EngOp) (g : Group) : State :=
  match g.seg with
  | none => s.closeGram o .ok
  | some x =>
    match x.fault with
    | some r => s.closeGram o r
    | none =>
      let f : LFmt := if x.out.format = some .b16 then .b16 else .f32
      let es := (rowRules x.rules).flatMap fun r =>
        ((List.range x.lastNv).filter fun b => x.out.inBounds r.1 b 0 0).map fun b =>
          ((x.out.row b 0 0 + r.1 * f.eb) % 2 ^ 64,
            if f = .b16 then convert (.flt .b16) (.flt .f32) .rn false (r.2.getD b 0).toNat
            else { (plainUnit .f32 (leBytes 4 (r.2.getD b 0).toNat)).2 with bits := (r.2.getD b 0).toNat })
      match s.engWrite (s.opDie o) o.asid copyType (es.flatMap fun e => (byteAddrs e.1 f.eb).zip (leBytes f.eb e.2.bits)) with
      | (s, .error e) => s.failGram o e
      | (s, .ok _) => (((s.tallyOp o x.out.tid (es.map fun e => { e.2 with sat := false })).clearL1 g.core)).closeGram o .ok

end Sys2Proof.Machine
end

