-- ==== Sys2Proof/Machine/Sets.lean ====
section
/-! DEFINITION. Convergence sets: signing, completion and delivery (R185 to R192), named barriers (R193, R194), hand-off queues
(R195 to R197), and the exit of a thread (R184). -/

namespace Sys2Proof.Machine

/-! ## Results of the data set instructions (R191, R192) -/

/-- The identity of an integer fold. -/
def foldIdentity (op : FoldOp) (ty : FoldTy) : Word :=
  match ty, op with
  | .f32, .min => 0x7F800000
  | .f32, .max => 0xFF800000
  | .f32, _ => 0
  | _, .and => 0xFFFFFFFF
  | .i32, .min => 0x7FFFFFFF
  | .i32, .max => 0x80000000
  | .n32, .min => 0xFFFFFFFF
  | _, _ => 0

/-- One step of a fold on integers. -/
def foldInt (op : FoldOp) (u : Bool) (a b : Word) : Word :=
  match op with
  | .add => a + b
  | .min => if lessW u b a then b else a
  | .max => if lessW u a b then b else a
  | .and => a &&& b
  | .or => a ||| b
  | .xor => a ^^^ b

/-- One step of a fold on F32 with its flags. -/
def foldFlt (op : FoldOp) (a b : Word) : Word × Flags :=
  let r := match op with
    | .min => fminmax false false a.toNat b.toNat
    | .max => fminmax true false a.toNat b.toNat
    | _ => add32 a.toNat b.toNat
  (BitVec.ofNat 32 r.bits, r.fl)

/-- Fold of R192 over the operands in ascending rank; no operand at all gives the identity. -/
def fold (op : FoldOp) (ty : FoldTy) : List Word → Word × Flags
  | [] => (foldIdentity op ty, 0)
  | a :: t =>
    match ty with
    | .i32 => (t.foldl (foldInt op false) a, 0)
    | .n32 => (t.foldl (foldInt op true) a, 0)
    | .f32 =>
      if t.isEmpty then let r := canon .f32 a.toNat; (BitVec.ofNat 32 r.1, r.2)
      else t.foldl (fun x b => let r := foldFlt op x.1 b; (r.1, x.2 ||| r.2)) (a, 0)

/-- Operand k that a participant recorded. -/
def Sig.val (x : Sig) (k : Nat) : Word := x.vals.getD k 0

/-- The rank that SHFL reads (R191). -/
def shflRank (op : ShflOp) (j : Nat) (b : Word) : Int :=
  match op with
  | .idx => b.toNat
  | .up => (j : Int) - b.toNat
  | .down => (j : Int) + b.toNat
  | .xor => ((BitVec.ofNat 32 j ^^^ b).toNat : Int)

/-- The block that a DXPACK instance forms: each position of SET supplies its signer's value, or +0 (R155). -/
def dxBlockOf (dx4 : Bool) (cv : Conv) : DxBlock :=
  dxChoose dx4 ((tsList cv.set).map fun t =>
    FFmt.f32.read (match cv.sigs.find? (fun x => x.tid == t) with | some x => (x.val 0).toNat | none => 0))

/-- The result of participant `x` of an instance. -/
def setResult (cv : Conv) (x : Sig) : List Write :=
  let all := cv.sigs
  let j := all.findIdx fun y => y.tid == x.tid
  match x.instr with
  | .shfl _ op d _ _ _ =>
    let k := shflRank op j (x.val 1)
    toD d (if 0 ≤ k ∧ k < all.length then (all.getD k.toNat x).val 0 else x.val 0)
  | .voteAll _ _ q _ _ => [predWrite q (all.all fun y => y.val 0 != 0)]
  | .voteAny _ _ q _ _ => [predWrite q (all.any fun y => y.val 0 != 0)]
  | .voteBallot _ _ d _ _ _ =>
    let base := 32 * ((x.val 1).toNat % 32)
    toD d (BitVec.ofNat 32 ((List.range 32).foldl (fun n i =>
      match all[base + i]? with | some y => if y.val 0 != 0 then n + 2 ^ i else n | none => n) 0))
  | .redux h op ty d _ _ =>
    let r := fold op ty (all.map fun y => y.val 0)
    toD d r.1 ++ (if ty = .f32 then toFlags h r.2 else [])
  | .scan h op ty ex d _ _ =>
    let r := fold op ty ((all.take (if ex then j else j + 1)).map fun y => y.val 0)
    toD d r.1 ++ (if ty = .f32 then toFlags h r.2 else [])
  | .dxpack h dx4 d _ _ =>
    let b := dxBlockOf dx4 cv
    let pos := (tsList cv.set).findIdx (· == x.tid)
    toD d (BitVec.ofNat 32 (b.b * 2 ^ 24 + b.a * 2 ^ 16 + b.codes.getD pos 0)) ++ toFlags h b.fl
  | _ => []

/-! ## Signing and completion (R187 to R189) -/

/-- Live threads of a group. -/
def Group.liveSet (g : Group) : TSet := (List.range g.threads.length).foldl (fun m t => setMem m t (g.live t)) 0

/-- Tag(X): the opcode and VARIANT with TY and EX of REDUX and SCAN (R187), with MOD for tile and CRED instructions (R239),
the opcode alone for grammar instructions (R271) and GSWAP (R313). -/
def tagOf (i : Instr) : Nat :=
  match toRaw i with
  | none => 0
  | some r =>
    let op := r.op.toNat * 2 ^ 20
    let ov := op + r.var.toNat * 2 ^ 16
    match i with
    | .redux _ _ _ _ _ _ => ov + bits r.mod.toNat 8 6 * 64
    | .scan _ _ _ _ _ _ _ => ov + bits r.mod.toNat 8 6 * 64
    | .gseg _ _ _ _ => op
    | .gvec _ _ _ _ => op
    | .grun _ _ _ => op
    | .gout _ _ _ => op
    | .gswap _ _ _ => op
    | .mma _ _ _ _ _ => ov + r.mod.toNat
    | .mmz _ _ _ _ => ov + r.mod.toNat
    | .wbld _ _ _ _ _ _ => ov + r.mod.toNat
    | .wbldSparse _ _ _ _ _ _ => ov + r.mod.toNat
    | .wbrel _ _ _ => ov + r.mod.toNat
    | .accld _ _ _ _ _ => ov + r.mod.toNat
    | .accst _ _ _ _ _ => ov + r.mod.toNat
    | .credSmx _ _ _ _ _ _ => ov + r.mod.toNat
    | .credSum _ _ _ _ _ _ => ov + r.mod.toNat
    | .credMax _ _ _ _ _ _ => ov + r.mod.toNat
    | _ => ov

/-- The instance is complete: every thread of SET has signed it or exited. -/
def Conv.over (cv : Conv) (live : TSet) : Bool := cv.pend && (cv.set &&& ~~~cv.signed &&& live) == 0

/-- Operand words 0 to k as numbers. -/
def Sig.nat (x : Sig) (k : Nat) : Nat := (x.val k).toNat

/-- The tile operation that participant 0's operands describe (R239). -/
def tileKind (x : Sig) : Option EngKind :=
  match x.instr with
  | .mma _ f _ _ _ => some (mmaKind f (x.nat 0) (x.nat 1) (x.nat 2) (x.nat 3) (x.nat 4))
  | .mmz _ _ _ _ => some (mmzKind (x.nat 0) (x.nat 1))
  | .wbrel _ _ _ => some (.wbrel (x.nat 0))
  | .accld _ f _ _ _ =>
    some (.accld f (x.nat 0) (bits (x.nat 1) 19 0) (bits (x.nat 2) 24 16 + 1) (bits (x.nat 2) 8 0) (bits (x.nat 3) 31 16) (x.nat 4))
  | .accst _ f _ _ _ =>
    some (.accst f (x.nat 0) (bits (x.nat 1) 19 0) (bits (x.nat 2) 24 16 + 1) (bits (x.nat 2) 8 0) (bits (x.nat 3) 31 16) (x.nat 4))
  | _ => none

/-- A started group of a launch with a quantum waits for a slot: one that is swapped out, or one not yet placed, since every
group of such a launch counts as started (R39). -/
def State.slotWaiter (s : State) (asid lid : Nat) : Bool :=
  (s.groups.any fun g => g.asid == asid && g.launch == lid && g.handler.isNone && g.status == .swapped) ||
  match s.launch? asid lid with | some l => !l.cancelled && l.nextGid < l.lr.ngroups | none => false

/-- GSWAP's result (R313): a status at once, or none while the swap is to come. -/
def State.gswapNow (s : State) (g : Group) : Option Nat :=
  if g.quant = 0 then some 2 else if s.slotWaiter g.asid g.launch then none else some 1

/-- The d register that GSWAP writes. -/
def gswapDst : Instr → Nat
  | .gswap _ d _ => d.toNat
  | _ => 0
def State.deliverGswap (s : State) (gi c status : Nat) : State :=
  s.deliverSet gi c fun x => [.reg (.d (gswapDst x.instr)) (BitVec.ofNat 32 status)]

/-- Complete(c) of R188. -/
def State.completeSet (s : State) (gi c : Nat) (g : Group) (cv : Conv) : State :=
  match cv.sigs with
  | [] => s.deliverSet gi c fun _ => []
  | x :: _ =>
    match x.instr with
    | .wbld _ _ _ _ _ _ =>
      (s.forkWbld gi false (x.nat 0) (pairOf (x.val 1) (x.val 2)) [x.nat 3, x.nat 4, x.nat 5, x.nat 6] (x.nat 7)).deliverSet gi c fun _ => []
    | .wbldSparse _ _ _ _ _ _ =>
      (s.forkWbld gi true (x.nat 0) (pairOf (x.val 1) (x.val 2)) [x.nat 3, x.nat 4, x.nat 5, x.nat 6] (x.nat 7)).deliverSet gi c fun _ => []
    | .credSmx _ _ _ _ _ _ => (s.contribute gi .smx (x.nat 0) (x.nat 1) (x.nat 2) (x.nat 3)).deliverSet gi c fun _ => []
    | .credSum _ _ _ _ _ _ => (s.contribute gi .sum (x.nat 0) (x.nat 1) (x.nat 2) (x.nat 3)).deliverSet gi c fun _ => []
    | .credMax _ _ _ _ _ _ => (s.contribute gi .max (x.nat 0) (x.nat 1) (x.nat 2) (x.nat 3)).deliverSet gi c fun _ => []
    | .gseg _ _ _ _ => (s.setGrp gi fun g => { g with gramQ := g.gramQ ++ [c] }).drainGram gi
    | .gvec _ _ _ _ => (s.setGrp gi fun g => { g with gramQ := g.gramQ ++ [c] }).drainGram gi
    | .grun _ _ _ => (s.setGrp gi fun g => { g with gramQ := g.gramQ ++ [c] }).drainGram gi
    | .gout _ _ _ => (s.setGrp gi fun g => { g with gramQ := g.gramQ ++ [c] }).drainGram gi
    | .gswap _ _ _ =>
      match s.gswapNow g with
      | some st => s.deliverGswap gi c st
      | none => s.setGrp gi fun g => { g with gswap := g.gswap ++ [c] }
    | .dxpack _ dx4 _ _ _ =>
      let b := dxBlockOf dx4 cv
      (s.tally g.asid g.launch 0 b.sats b.flushes b.nans).deliverSet gi c (setResult cv)
    | _ =>
      match tileKind x with
      | some k => (s.fork gi k noRec).deliverSet gi c fun _ => []
      | none => s.deliverSet gi c (setResult cv)

/-- The completion test of R187, of an instance that is not already waiting to be performed. -/
def State.testSet (s : State) (gi c : Nat) : State :=
  match s.groups[gi]? with
  | none => s
  | some g =>
    match g.cvs[c]? with
    | none => s
    | some cv => if cv.over g.liveSet && !g.gramQ.contains c && !g.gswap.contains c then s.completeSet gi c g cv else s

/-- A signature in its place, ascending %tid. -/
def insertSig (x : Sig) : List Sig → List Sig
  | [] => [x]
  | y :: t => if x.tid < y.tid then x :: y :: t else y :: insertSig x t

/-- The steps of R187 for the thread of a context, its operands given. A signature is a release, after which the core's L1 keeps
nothing (R114, R187). `look` tells an instruction that may carry L, whose
result comes through a window (R188). `size` is DXPACK's test at the opening of an instance (R155). -/
def State.sign (s : State) (c : Ctx) (i : Instr) (cn : Nat) (vals : List Word) (size : Bool) : Eff :=
  match c.g.cvs[cn]? with
  | none => .trap (FCode.convSet.detail cn 0)
  | some cv =>
    let t := c.ref.tid
    let live := c.g.liveSet
    -- a thread that has waited for PEND = 0 goes on below the first check
    let again := c.t.held.isSome && match c.t.status with | .blocked (.again k _) _ => k == cn | _ => false
    if !again && ((cv.members &&& live) == 0 || !cv.members.getLsbD t) then .trap (FCode.convSet.detail cn 0)
    else if cv.pend && cv.signed.getLsbD t then .poll (.again cn t)
    else if !cv.pend && size && ((List.range 1024).countP fun k => (cv.members &&& live).getLsbD k) != 32 then
      .trap (FCode.convSet.detail cn 0)
    else if cv.pend && cv.tag != tagOf i then .trap (FCode.convSet.detail cn 0)
    else
      let cv := if cv.pend then cv else { cv with pend := true, tag := tagOf i, set := cv.members &&& live, signed := 0, sigs := [] }
      let cv := { cv with signed := setMem cv.signed t true, sigs := insertSig ⟨t, i, vals, c.next⟩ cv.sigs }
      let s := (s.clearL1 c.g.core).setGrp c.ref.grp fun g => { g with cvs := g.cvs.set cn cv }
      let s := if mayLook i then s.setThr c.ref fun u => u.completeLook c.next (lookOf i) (destSet i) (.set cn)
        else s.block c.ref (.set cn) c.next
      .raw (s.testSet c.ref.grp cn)

/-! ## Named barriers (R194) -/

/-- Check() of R194. -/
def State.barCheck (s : State) (gi n : Nat) : State :=
  match s.groups[gi]? with
  | none => s
  | some g =>
    match g.bars[n]? with
    | none => s
    | some b =>
      let need := if b.count = 0 then g.liveCount else b.count
      if b.arrived > 0 && b.arrived ≥ need then
        let s := s.setGrp gi fun g => { g with bars := g.bars.set n ⟨0, b.count, b.phase + 1, 0⟩ }
        (tsList b.waiters).foldl (fun s t => s.wake ⟨gi, t⟩ []) s
      else s

/-- An arrival; the first of a phase fixes COUNT. -/
def Bar.arrive (b : Bar) (cnt : Option Word) : Bar :=
  { b with
    count := if b.arrived = 0 then (match cnt with | some v => max 1 (min v.toNat 1024) | none => 0) else b.count
    arrived := b.arrived + 1 }

/-! ## Hand-off queues (R197) -/

def HQueue.sent (q : HQueue) (t : Nat) : Nat := q.entries.countP fun e => e.2 == t
def HQueue.full (q : HQueue) (t : Nat) : Bool := q.entries.length == q.depth || q.sent t == q.allow

/-- What a pop writes. -/
def popWrites (src : Bool) (d : Nat) (e : Word × Nat) : List Write :=
  dWrites d (if src then [e.1, BitVec.ofNat 32 e.2] else [e.1])

/-- A blocked operation on queue h that can proceed. -/
def queueReady (q : HQueue) (h t : Nat) (th : Thread) : Bool :=
  match th.status with
  | .blocked (.push k _) _ => k == h && !q.full t
  | .blocked (.pop k _ _) _ => k == h && !q.entries.isEmpty
  | _ => false

/-- Blocked operations are retried in ascending %tid. -/
def State.queueRetry : Nat → State → Nat → Nat → State
  | 0, s, _, _ => s
  | k + 1, s, gi, h =>
    match s.groups[gi]? with
    | none => s
    | some g =>
      match g.hqs[h]? with
      | none => s
      | some q =>
        match (List.range g.threads.length).find? fun t => match g.threads[t]? with | some th => queueReady q h t th | none => false with
        | none => s
        | some t =>
          match (g.threads[t]?).map Thread.status, q.entries with
          | some (.blocked (.push _ v) _), es =>
            State.queueRetry k ((s.setGrp gi fun g => { g with hqs := g.hqs.set h { q with entries := es ++ [(v, t)] } }).wake ⟨gi, t⟩ []) gi h
          | some (.blocked (.pop _ src d) _), e :: es =>
            State.queueRetry k ((s.setGrp gi fun g => { g with hqs := g.hqs.set h { q with entries := es } }).wake ⟨gi, t⟩ (popWrites src d e)) gi h
          | _, _ => s

/-- A queue receives a new state, and its blocked operations are retried. -/
def State.setQueue (s : State) (gi h : Nat) (q : HQueue) : State :=
  let s := s.setGrp gi fun g => { g with hqs := g.hqs.set h q }
  State.queueRetry ((s.groups[gi]?.map fun g => g.threads.length + 1).getD 0) s gi h

/-! ## Exit (R184, R189, R194) -/

def Thread.exit (t : Thread) : Thread :=
  { t.deliverAll with windows := [], status := .exited, depth := 0, stack := [], held := none }

/-- A thread exits; convergence instances and barriers of its group are tested again. -/
def State.exitThread (s : State) (r : ThreadRef) : State :=
  let s := s.setThr r Thread.exit
  let s := (List.range 16).foldl (fun s c => s.testSet r.grp c) s
  (List.range 16).foldl (fun s b => s.barCheck r.grp b) s

end Sys2Proof.Machine
end

