-- ==== Sys2Proof/Machine/Control.lean ====
section
/-! DEFINITION. Control transfer, the call stack and the end of a thread (R24 to R26, R182 to R184). -/

namespace Sys2Proof.Machine

/-- next + 4·SignExtend(offset), modulo 2^57 (R182). -/
def Ctx.target (c : Ctx) (off : Word) : Dword := pcAddr (c.next + (4 * off.signExtend 57))

def execBra (h : Hdr) (off : Word) (s : State) := issue (.bra h off) s fun c s => .jump s (c.target off)
def execBraU (h : Hdr) (off : Word) (s : State) := issue (.braU h off) s fun c s => .jump s (c.target off)
def execBrx (h : Hdr) (n : DReg) (s : State) := issue (.brx h n) s fun c s => .jump s (c.rr n)

/-- CALLSTACK_SPILL with the depth. -/
def spillFault (d : Nat) : Eff := .trap (FCode.callstackSpill.detail d 0)

/-- The address of spilled entry i (R24). -/
def Ctx.spillAt (c : Ctx) (i : Nat) : Dword := c.g.stk c.ref.tid + BitVec.ofNat 64 (8 * i)

/-- A call to an address (R25). -/
def State.pushCall (s : State) (c : Ctx) (target : Dword) : Except Eff Eff := do
  let d := c.t.depth
  let push (s : State) (keep : List Dword) : State :=
    s.setThr c.ref fun t => { t with depth := d + 1, stack := c.next.setWidth 64 :: keep }
  if d < 4 then .ok (.jump (push s c.t.stack) target)
  else if d - 4 ≥ c.g.espill then .error (spillFault d)
  else
    let (pa, t, e) ← s.global c.g.asid (c.spillAt (d - 4)) .write isNormal
    let s := s.memWrite c.g.core c.g.asid pa t e (leBytes 8 (c.t.stack.getD 3 0).toNat)
    .ok (.jump (push s (c.t.stack.take 3)) target)

def execCall (h : Hdr) (off : Word) (s : State) := issue (.call h off) s fun c s => Eff.of (s.pushCall c (c.target off))
def execCallx (h : Hdr) (n : DReg) (s : State) := issue (.callx h n) s fun c s => Eff.of (s.pushCall c (c.rr n))

/-- The return of R25. A reload needs a page that is readable (R299) and writable (R25). -/
def State.popCall (s : State) (c : Ctx) : Except Eff Eff := do
  let d := c.t.depth
  if d = 0 then .error (spillFault 0)
  else
    let ra := pcAddr ((c.t.stack.headD 0).extractLsb' 0 57)
    let pop (s : State) (old : List Dword) : State :=
      s.setThr c.ref fun t => { t with depth := d - 1, stack := c.t.stack.tail ++ old }
    if d < 5 then .ok (.jump (pop s []) ra)
    else
      let (pa, t, e) ← s.global c.g.asid (c.spillAt (d - 5)) .both isNormal
      let (s, bs) := s.memRead c.g.core c.g.asid true pa t e 8
      .ok (.jump (pop s [BitVec.ofNat 64 (leNat bs)]) ra)

def execRet (h : Hdr) (s : State) := issue (.ret h) s fun c s => Eff.of (s.popCall c)
def execExit (h : Hdr) (s : State) := issue (.exit h) s fun c s =>
  .raw ((s.setThr c.ref fun t => { t with pc := c.next }).exitThread c.ref)
def execNop (h : Hdr) (s : State) := regOp (.nop h) s fun _ => []
/-- YIELD only ends the run (R34), which is the issuing gang's matter. -/
def execYield (h : Hdr) (s : State) := regOp (.yield h) s fun _ => []

end Sys2Proof.Machine
end

