-- ==== Sys2Proof/Machine/Convert.lean ====
section
/-! DEFINITION. Conversions (R153 to R157); DXPACK stands with the set instructions. -/

namespace Sys2Proof.Machine

/-- The number format of a CVT code (R153). -/
def cvtNum : CvtFmt → NFmt
  | .i8 => .int true 8 | .i16 => .int true 16 | .i32 => .int true 32 | .f16 => .flt .f16 | .b16 => .flt .b16
  | .f32 => .flt .f32 | .e4m3 => .flt .e4m3 | .e5m2 => .flt .e5m2 | .n8 => .int false 8 | .n16 => .int false 16
  | .n32 => .int false 32 | .i64 => .int true 64 | .n64 => .int false 64 | .f64 => .flt .f64

/-- A result pattern as a destination register holds it: signed integers sign-extended, every other format zero-extended. -/
def NFmt.toWord (f : NFmt) (v : Nat) : Word :=
  match f with
  | .int true w => (BitVec.ofNat w v).signExtend 32
  | _ => BitVec.ofNat 32 v

/-- Rounding of CVT (R154): under RS, key B, element index %tid, hop 0. -/
def Ctx.cvtMode (c : Ctx) (m : CvtMode) (b : Src) : RMode :=
  match m with
  | .rm r => c.mode r
  | .rs => .rs (c.w b) (BitVec.ofNat 32 c.ref.tid) 0

/-- Counts of an instruction's own results (R91): tensor id 0. -/
def State.tallyRes (s : State) (c : Ctx) (rs : List RRes) : State :=
  s.tally c.g.asid c.g.launch 0 (rs.countP RRes.sat) (rs.countP RRes.flush) (rs.countP RRes.nan)

def execCvt (h : Hdr) (m : CvtMode) (df sf : CvtFmt) (d : DReg) (a b : Src) (s : State) :=
  issue (.cvt h m df sf d a b) s fun c s =>
    let x := if sf.wide then (c.l a).toNat else (c.w a).toNat
    let r := convert (cvtNum df) (cvtNum sf) (c.cvtMode m b) c.ftz x
    .done (s.tallyRes c [r])
      ((if df.wide then toPair d (BitVec.ofNat 64 r.bits) else toD d ((cvtNum df).toWord r.bits)) ++ toFlags h r.fl)

/-- DXUNPACK (R94, R156): the exact value as F32; only FTZ can change it. The exponents are B[7:0] and B[15:8], as R156 gives them; a
DXPACK result (R155) holds them 16 bits higher, so that one passed as both sources unpacks its element only once B is shifted down
(DESIGN CHOICE, log entry 90: R156 says that it does as it stands). It sends R91 no counts (DESIGN CHOICE, log entry 102). -/
def execDxunpack (h : Hdr) (dx4 : Bool) (d : DReg) (a b : Src) (s : State) :=
  regOp (.dxunpack h dx4 d a b) s fun c =>
    toRes h d (roundV .f32 .rn c.ftz
      (dxVal dx4 (bits (c.w a).toNat (if dx4 then 3 else 7) 0) (bits (c.w b).toNat 7 0) (bits (c.w b).toNat 15 8)))

/-- Cv of PACK (R157). -/
def packHalf (f : PackFmt) (v : Nat) : RRes :=
  match f with
  | .i16 => convert (.int true 16) (.int true 32) .rn false v
  | .f16 => convert (.flt .f16) (.flt .f32) .rn false v
  | .b16 => convert (.flt .b16) (.flt .f32) .rn false v

def execPack (h : Hdr) (f : PackFmt) (d : DReg) (a b : Src) (s : State) :=
  issue (.pack h f d a b) s fun c s =>
    let x := packHalf f (c.w a).toNat
    let y := packHalf f (c.w b).toNat
    .done (s.tallyRes c [x, y]) (toD d (BitVec.ofNat 32 (y.bits * 2 ^ 16 + x.bits)) ++ toFlags h (x.fl ||| y.fl))

/-- Wd of UNPACK (R157). -/
def unpackHalf (f : PackFmt) (v : Nat) : RRes :=
  match f with
  | .i16 => convert (.int true 32) (.int true 16) .rn false v
  | .f16 => convert (.flt .f32) (.flt .f16) .rn false v
  | .b16 => convert (.flt .f32) (.flt .b16) .rn false v

/-- UNPACK (R157). It sends R91 no counts: R91 counts conversions, and names CVT, DXPACK and PACK for tensor id 0, not UNPACK and DXUNPACK
(DESIGN CHOICE, log entry 102). -/
def execUnpack (h : Hdr) (f : PackFmt) (d : DReg) (a : Src) (s : State) :=
  regOp (.unpack h f d a) s fun c =>
    let x := unpackHalf f (bits (c.w a).toNat 15 0)
    let y := unpackHalf f (bits (c.w a).toNat 31 16)
    dWrites d.toNat [BitVec.ofNat 32 x.bits, BitVec.ofNat 32 y.bits] ++ toFlags h (x.fl ||| y.fl)

end Sys2Proof.Machine
end

