-- ==== Sys2Proof/Machine/Coop.lean ====
section
/-! DEFINITION. Cooperation: convergence registers and the data set instructions (R186 to R191), DXPACK (R155), named barriers
(R194) and hand-off queues (R196, R197). -/

namespace Sys2Proof.Machine

/-! ## Convergence registers -/

/-- The threads `lo` to `hi - 1`. -/
def tsRange (lo hi : Nat) : TSet := (List.range' lo (hi - lo)).foldl (fun m t => setMem m t true) 0

/-- The members that CVSET gives (R186). -/
def cvMembers (m : CvMode) (n : Nat) (a b : Word) : TSet :=
  match m with
  | .range => tsRange a.toNat (min (a.toNat + b.toNat) n)
  | .word => (List.range 32).foldl (fun k i =>
      let t := 32 * bits a.toNat 4 0 + i
      if b.getLsbD i && t < n then setMem k t true else k) 0
  | .clear => 0

/-- CVSET (R186), a release for the core's L1 (R114, R206). -/
def execCvset (h : Hdr) (m : CvMode) (k : BitVec 4) (a b : Src) (s : State) :=
  issue (.cvset h m k a b) s fun c s =>
    match c.g.cvs[k.toNat]? with
    | none => .trap (FCode.convSet.detail k.toNat 0)
    | some cv =>
      let new := cvMembers m c.g.nthreads (c.w a) (c.w b)
      if cv.pend then (if new = cv.members then .done (s.clearL1 c.g.core) [] else .trap (FCode.convSet.detail k.toNat 0))
      else .done ((s.clearL1 c.g.core).setGrp c.ref.grp fun g => { g with cvs := g.cvs.set k.toNat { cv with members := new } }) []

def execCvsign (h : Hdr) (k : BitVec 4) (s : State) :=
  issue (.cvsign h k) s fun c s => s.sign c (.cvsign h k) k.toNat [] false
def execShfl (h : Hdr) (op : ShflOp) (d : DReg) (a b : Src) (k : BitVec 4) (s : State) :=
  issue (.shfl h op d a b k) s fun c s => s.sign c (.shfl h op d a b k) k.toNat [c.w a, c.w b] false

/-- p of R191 as a word. -/
def Ctx.vote (c : Ctx) (na : Bool) (p : QReg) : Word := if c.q p != na then 1 else 0

def execVoteAll (h : Hdr) (na : Bool) (q p : QReg) (k : BitVec 4) (s : State) :=
  issue (.voteAll h na q p k) s fun c s => s.sign c (.voteAll h na q p k) k.toNat [c.vote na p] false
def execVoteAny (h : Hdr) (na : Bool) (q p : QReg) (k : BitVec 4) (s : State) :=
  issue (.voteAny h na q p k) s fun c s => s.sign c (.voteAny h na q p k) k.toNat [c.vote na p] false
def execVoteBallot (h : Hdr) (na : Bool) (d : DReg) (p : QReg) (b : Src) (k : BitVec 4) (s : State) :=
  issue (.voteBallot h na d p b k) s fun c s => s.sign c (.voteBallot h na d p b k) k.toNat [c.vote na p, c.w b] false
def execRedux (h : Hdr) (op : FoldOp) (ty : FoldTy) (d : DReg) (a : Src) (k : BitVec 4) (s : State) :=
  issue (.redux h op ty d a k) s fun c s => s.sign c (.redux h op ty d a k) k.toNat [c.w a] false
def execScan (h : Hdr) (op : FoldOp) (ty : FoldTy) (ex : Bool) (d : DReg) (a : Src) (k : BitVec 4) (s : State) :=
  issue (.scan h op ty ex d a k) s fun c s => s.sign c (.scan h op ty ex d a k) k.toNat [c.w a] false
def execDxpack (h : Hdr) (dx4 : Bool) (d : DReg) (a : Src) (k : BitVec 4) (s : State) :=
  issue (.dxpack h dx4 d a k) s fun c s => s.sign c (.dxpack h dx4 d a k) k.toNat [c.w a] true

/-! ## Named barriers -/

/-- A barrier changed, with the waiter's bit when the thread is to wait. -/
def State.barUpdate (s : State) (gi n : Nat) (f : Bar → Bar) : State :=
  s.setGrp gi fun g => { g with bars := g.bars.modify n f }

/-- A thread arrives at a barrier: a release for the core's L1 (R114, R206). -/
def State.barArrive (s : State) (c : Ctx) (n : Nat) (cnt : Option Word) : State :=
  (s.clearL1 c.g.core).barUpdate c.ref.grp n fun b => b.arrive cnt

def execBarArrive (h : Hdr) (n : BitVec 4) (cnt : Option Src) (s : State) :=
  issue (.barArrive h n cnt) s fun c s =>
    .done ((s.barArrive c n.toNat (cnt.map c.w)).barCheck c.ref.grp n.toNat) []

/-- The thread waits on the barrier, which is then checked. -/
def State.barWait (s : State) (c : Ctx) (n : Nat) : State :=
  ((s.barUpdate c.ref.grp n fun b => { b with waiters := setMem b.waiters c.ref.tid true }).block c.ref (.barrier n) c.next).barCheck
    c.ref.grp n

def execBarWait (h : Hdr) (n : BitVec 4) (s : State) :=
  issue (.barWait h n) s fun c s => .raw (s.barWait c n.toNat)
def execBarSync (h : Hdr) (n : BitVec 4) (cnt : Option Src) (s : State) :=
  issue (.barSync h n cnt) s fun c s =>
    .raw ((s.barArrive c n.toNat (cnt.map c.w)).barWait c n.toNat)

/-! ## Hand-off queues -/

def queueFault (h : Nat) : Eff := .trap (FCode.queueCfg.detail h 0)

/-- A thread of the group is blocked on a queue. -/
def Group.queueBlocks (g : Group) (h : Nat) : Bool :=
  g.threads.any fun t => match t.status with
    | .blocked (.push k _) _ => k == h
    | .blocked (.pop k _ _) _ => k == h
    | _ => false

def execQcfg (h : Hdr) (n : BitVec 3) (a b : Src) (s : State) :=
  issue (.qcfg h n a b) s fun c s =>
    match c.g.hqs[n.toNat]? with
    | none => queueFault n.toNat
    | some q =>
      let dp := (c.w a).toNat
      let al := (c.w b).toNat
      let put (q : HQueue) : Eff := .done (s.setGrp c.ref.grp fun g => { g with hqs := g.hqs.set n.toNat q }) []
      if !q.entries.isEmpty || c.g.queueBlocks n.toNat then queueFault n.toNat
      else if dp = 0 then put ⟨0, 0, []⟩
      else if dp > 32 || al = 0 || al > dp then queueFault n.toNat
      else put ⟨dp, al, []⟩

/-- QPUSH (R197); a push is a release for the core's L1, also one that has to wait for room (R114, R206). -/
def execQpush (h : Hdr) (tr : Bool) (p : QReg) (n : BitVec 3) (b : Src) (s : State) :=
  issue (.qpush h tr p n b) s fun c s =>
    match c.g.hqs[n.toNat]? with
    | none => queueFault n.toNat
    | some q =>
      if q.depth = 0 then queueFault n.toNat
      else if q.full c.ref.tid then
        if tr then .done s [predWrite p false]
        else .raw ((s.clearL1 c.g.core).block c.ref (.push n.toNat (c.w b)) c.next)
      else
        .done ((s.clearL1 c.g.core).setQueue c.ref.grp n.toNat { q with entries := q.entries ++ [(c.w b, c.ref.tid)] })
          (if tr then [predWrite p true] else [])

def execQpop (h : Hdr) (tr : Bool) (p : QReg) (src : Bool) (d : DReg) (n : BitVec 3) (s : State) :=
  issue (.qpop h tr p src d n) s fun c s =>
    match c.g.hqs[n.toNat]? with
    | none => queueFault n.toNat
    | some q =>
      if q.depth = 0 then queueFault n.toNat
      else match q.entries with
        | [] =>
          if tr then .done s [predWrite p false]
          else .raw (s.block c.ref (.pop n.toNat src d.toNat) c.next)
        | e :: es =>
          .done (s.setQueue c.ref.grp n.toNat { q with entries := es })
            (popWrites src d.toNat e ++ (if tr then [predWrite p true] else []))

end Sys2Proof.Machine
end

