-- ==== Sys2Proof/Machine/Dict.lean ====
section
/-! DEFINITION. Decode dictionaries: images and their checks (R64, R68, R69), slots (R70), loads (R69, R203), the expansion of
shorts (R65) and DICT.READ (R204). -/

namespace Sys2Proof.Machine

/-- The fields of an entry (R64) from its 32 bytes as a number. -/
structure DictEntry where
  tmpl : Nat
  map : Nat
  rest : Nat
  deriving DecidableEq, Repr

def DictEntry.ofNat (w : Nat) : DictEntry := ⟨w % 2 ^ 128, w / 2 ^ 128 % 2 ^ 32, w / 2 ^ 160⟩
def DictEntry.valid (e : DictEntry) : Bool := bit e.map 31
/-- Hole k is used, and its lowest template bit. -/
def DictEntry.used (e : DictEntry) (k : Nat) : Bool := bit e.map (24 + k)
def DictEntry.pos (e : DictEntry) (k : Nat) : Nat := bits e.map (8 * k + 7) (8 * k)

/-- Two ranges of bits, of 7 at `p` and of `n` at `q`, overlap. -/
def holeMeets (p q n : Nat) : Bool := p < q + n && q < p + 7

/-- The first reason of R69 that rejects a valid entry. -/
def DictEntry.reason (e : DictEntry) : Option Nat :=
  let len := match e.tmpl % 4 with | 1 => 64 | 2 => 96 | _ => 128
  let op := bits e.tmpl 19 12
  if e.tmpl % 4 = 0 then some 1
  else if 0xCC ≤ op && op ≤ 0xCF then some 2
  else if e.tmpl / 2 ^ len != 0 then some 3
  else if [0, 1, 2].any fun k => e.used k &&
      (e.pos k + 7 > len || holeMeets (e.pos k) 0 3 || holeMeets (e.pos k) 12 8 ||
        [0, 1, 2].any fun j => j != k && e.used j && holeMeets (e.pos k) (e.pos j) 7) then some 4
  else if bits e.map 30 27 != 0 || e.rest != 0 || [0, 1, 2].any (fun k => !e.used k && e.pos k != 0) then some 5
  else none

/-- Entry `i` of an image's bytes. -/
def imageEntry (img : List Host.Cell) (i : Nat) : DictEntry := .ofNat (leNat (cRead img (32 * i) 32))

/-- The first entry that the checks reject, with its reason. -/
def imageFault (img : List Host.Cell) : Option (Nat × Nat) :=
  (List.range' 1 255).findSome? fun i =>
    let e := imageEntry img i
    if e.valid then (e.reason).map fun r => (i, r) else none

/-- The entries that a re-read makes undefined (R73). -/
def imageUndef (img : List Host.Cell) : BitVec 256 :=
  (List.range' 1 255).foldl (fun m i =>
    let e := imageEntry img i
    if e.valid && e.reason.isSome then m ||| BitVec.ofNat 256 (2 ^ i) else m) 0

/-- An image's bytes; entry 0 is never read (R68). -/
def imageOf (bs : List Byte) : List Host.Cell := cWrite [] 32 (bs.drop 32)

/-! ## Slots (R70) -/

/-- The resident groups of a core other than `gi` that have a selection. -/
def State.dictUsers (s : State) (core : Nat) (gi : Option Nat) : List Group :=
  (s.groups.zipIdx.filter fun x => some x.2 != gi && x.1.core == core && x.1.resident && x.1.sel.isSome).map Prod.fst

/-- The job's binding reserves a dictionary slot on every core (R280). -/
def Job.dictReserve (j : Job) : Bool := j.handler.any fun r => r.dict != 0

/-- The jobs whose reserves a placement leaves untouched (R280): of an ordinary group (`own` none) all jobs, of a handler group those
bound before its own, since a reserve is made of what stands free at the binding (DESIGN CHOICE, log entry 108). -/
def State.reservers (s : State) (own : Option Nat) : List Job := s.jobs.takeWhile fun j => some j.desc.asid != own

/-- A handler group uses its job's reserve of a dictionary slot; what any other group selects is taken from the rest. -/
def State.ownsDict (s : State) (g : Group) : Bool := g.handler.isSome && (s.job g.asid).any Job.dictReserve

/-- Slots selected beside any reserve. -/
def State.dictOpen (s : State) (us : List Group) : List Nat := (us.filter fun g => !s.ownsDict g).filterMap Group.sel

/-- With the slots `plus` taken as well, those of them in `opened` by a group that uses no reserve, every reserve of the jobs that
count still has its slot: one that its handler group alone uses, or one that no group uses. -/
def State.dictRoom (s : State) (own : Option Nat) (us : List Group) (opened plus : List Nat) : Bool :=
  let opened := opened ++ s.dictOpen us
  let held (j : Job) : Bool := us.any fun g =>
    g.asid == j.desc.asid && s.ownsDict g && g.sel.any fun k => !opened.contains k
  ((plus ++ opened ++ us.filterMap Group.sel).dedup).length +
    (s.reservers own).countP (fun j => j.dictReserve && !held j) ≤ 8

/-- The slot that carries a tag. -/
def State.dictTagged (s : State) (core asid : Nat) (addr : Dword) : Option Nat :=
  (List.range 8).find? fun k => match (s.core core).dicts.getD k none with
    | some d => d.asid == asid && d.addr == addr
    | none => false

/-- A group may take slot `k`: it is its own, one that a group beside the reserves uses already, or one that leaves the reserves their
slots. A handler group, whose own reserve no slot is left for, takes what it finds free where others' reserves have gone already
(DESIGN CHOICE, log entry 108). -/
def State.dictMay (s : State) (own : Option Nat) (us : List Group) (sel : Option Nat) (k : Nat) : Bool :=
  sel == some k || (s.dictOpen us).contains k || s.dictRoom own us (if own.isNone then [k] else []) [k] ||
  (own.isSome && !(us.filterMap Group.sel).contains k && !s.dictRoom own us [] [])

/-- A slot for a load: the one that carries the tag, one not in use, or the group's own when no other group shares it; none is BUSY
(R70). A group that uses no reserve leaves the reserves their slots, a handler group those of other jobs (R280). -/
def State.dictSlot (s : State) (core asid : Nat) (addr : Dword) (gi : Option Nat) (sel : Option Nat) (hand : Bool) : Option Nat :=
  let us := s.dictUsers core gi
  let own := if hand && (s.job asid).any Job.dictReserve then some asid else none
  let used := us.filterMap Group.sel
  match (s.dictTagged core asid addr).filter (s.dictMay own us sel) with
  | some k => some k
  | none =>
    match (List.range 8).find? fun k => !used.contains k && sel != some k && s.dictMay own us sel k with
    | some k => some k
    | none => sel.filter fun k => !used.contains k

/-- A slot takes an image and its tag, which an unused slot that carried it loses. -/
def State.setDict (s : State) (core k : Nat) (d : DictSlot) : State :=
  s.setCore core fun c => { c with
    dicts := (c.dicts.map fun (o : Option DictSlot) => o.filter fun x => !(x.asid == d.asid && x.addr == d.addr)).set k (some d) }

/-- A load of an image's bytes into a group: the state, and the status word of R69. -/
def State.dictLoad (s : State) (gi : Nat) (g : Group) (addr : Dword) (bs : List Byte) : State × Nat :=
  let img := imageOf bs
  match imageFault img with
  | some (i, r) => (s, 2 + 256 * i + 65536 * r)
  | none =>
    match s.dictSlot g.core g.asid addr (some gi) g.sel g.handler.isSome with
    | none => (s, 1)
    | some k => ((s.setDict g.core k ⟨g.asid, addr, img, 0⟩).setGrp gi fun g => { g with sel := some k }, 0)

/-! ## Expansion of a short (R65) -/

/-- A hole's value inserted into a template. -/
def putHole (t : BitVec 128) (pos : Nat) (v : BitVec 7) : BitVec 128 :=
  (t &&& ~~~(BitVec.ofNat 128 (127 * 2 ^ pos))) ||| BitVec.ofNat 128 (v.toNat * 2 ^ pos)

/-- The expansion of a short; none where it raises DICT_UNDEFINED. -/
def State.expand (s : State) (g : Group) (b : Bool) (idx : Nat) (h : List (BitVec 7)) : Option (BitVec 128) :=
  match g.sel.bind fun k => (s.core g.core).dicts.getD k none with
  | none => none
  | some d =>
    let e := imageEntry d.img idx
    if !e.valid || d.undef.getLsbD idx then none
    else
      let t := [0, 1, 2].foldl (fun t k => if e.used k then putHole t (e.pos k) (h.getD k 0) else t) (BitVec.ofNat 128 e.tmpl)
      some ((t &&& ~~~(4#128)) ||| BitVec.ofNat 128 (4 * b2n b))

/-! ## Instructions -/

/-- The two pages of an image read at their home for a group: all but entry 0, which is never read (R68). -/
def State.readImage (s : State) (g : Group) (pa0 pa1 : Nat) : State × List Byte :=
  let x := s.readFor g.core g.asid (pa0 + 32) 4064
  let y := x.1.readFor g.core g.asid pa1 4096
  (y.1, List.replicate 32 0 ++ x.2 ++ y.2)

/-- The pages of an image: the translation faults of each come before the MEMTYPE of either (R165, R203). -/
def State.imagePages (s : State) (asid : Nat) (a : Dword) : Except Eff (Nat × Nat) := do
  let _ ← s.global asid a .read fun _ => true
  let _ ← s.global asid (a + 4096) .read fun _ => true
  let (pa0, _, _) ← s.global asid a .read isNormal
  let (pa1, _, _) ← s.global asid (a + 4096) .read isNormal
  .ok (pa0, pa1)

/-- DICT.LOAD (R203), a release by its thread (R71, R114). -/
def execDictLoad (h : Hdr) (d n : DReg) (s : State) :=
  issue (.dictLoad h d n) s fun c s => Eff.of do
    let a := c.rr n
    aligned a.toNat 8192
    let (pa0, pa1) ← s.imagePages c.g.asid a
    let (s, bs) := s.readImage c.g pa0 pa1
    let (s, st) := s.dictLoad c.ref.grp c.g a bs
    .ok (.done (s.clearL1 c.g.core) (toD d (BitVec.ofNat 32 st)))

/-- Bytes 16k to 16k + 15 of the selection as DICT.READ gives them: an undefined entry with VALID 0 (R204). -/
def State.dictBytes (s : State) (g : Group) (k : Nat) : List Byte :=
  match g.sel.bind fun j => (s.core g.core).dicts.getD j none with
  | none => List.replicate 16 0
  | some d =>
    let bs := cRead d.img (16 * k) 16
    if d.undef.getLsbD (k / 2) && k % 2 = 1 then bs.set 3 ((bs.getD 3 0) &&& 0x7F) else bs

def execDictRead (h : Hdr) (d : DReg) (b : Src) (s : State) :=
  issue (.dictRead h d b) s fun c s =>
    let bs := s.dictBytes c.g ((c.w b).toNat % 512)
    .done s (dWrites d.toNat ((List.range 4).map fun k => BitVec.ofNat 32 (leNat ((bs.drop (4 * k)).take 4))))

/-- FENCE.F (R205): the model keeps nothing fetched beyond the current instruction. -/
def execFenceF (h : Hdr) (s : State) := regOp (.fenceF h) s fun _ => []

end Sys2Proof.Machine
end

