-- ==== Sys2Proof/Machine/Start.lean ====
section
/-! DEFINITION. Placement of groups (R29, R45, R280, R286) and group start: parameters, prologue, dictionary (R20, R30, R72,
R167, R168, R287, R304). -/

namespace Sys2Proof.Machine

/-! ## Placement -/

/-- Resident groups of a core. -/
def State.residents (s : State) (core : Nat) : List Group := s.groups.filter fun g => g.core == core && g.resident

/-- What a group takes of a core: threads, registers a thread, scratchpad, accumulator rows. -/
structure Take where
  threads : Nat
  regs : Nat
  scratch : Nat
  acc : Nat
  deriving DecidableEq, Repr

def Group.take (g : Group) : Take := ⟨g.nthreads, g.nregs, g.scratchLen, g.accRows⟩
def LaunchRec.take (r : LaunchRec) : Take := ⟨r.nthreads, r.nregs, r.scratch, r.acc⟩

/-- A core holds all of them at once (R29): groups, threads, registers on each partition, scratchpad, rows. -/
def coreHolds (ts : List Take) : Bool :=
  ts.length ≤ 32 && (ts.map Take.threads).sum ≤ 2048 && (ts.map Take.scratch).sum ≤ 393216 && (ts.map Take.acc).sum ≤ 512 &&
  (List.range 8).all fun p => (ts.map fun t => partThreads t.threads p * t.regs * 4).sum ≤ 65536

/-- A range of rows at `base` is free on a core (R251). -/
def State.accFree (s : State) (core base acc : Nat) : Bool :=
  base % 64 == 0 && base + acc ≤ 512 &&
  (s.residents core).all fun g => g.accRows == 0 || acc == 0 || base + acc ≤ g.accBase || g.accBase + g.accRows ≤ base

/-- The handler records of the jobs whose reserve on a core a placement leaves untouched, and none of whose handler groups is there
(R280). -/
def State.reserves (s : State) (own : Option Nat) (core : Nat) : List LaunchRec :=
  ((s.reservers own).filter fun j =>
    !((s.residents core).any fun g => g.asid == j.desc.asid && g.handler.isSome)).filterMap Job.handler

/-- Accumulator rows in blocks of 64: ranges of the lengths given can all stand beside the blocks in use (R251). -/
def rangesFit : List Nat → List Nat → Bool
  | [], _ => true
  | n :: ns, used => (List.range 9).any fun b =>
      b + n ≤ 8 && (List.range' b n).all (fun k => !used.contains k) && rangesFit ns (List.range' b n ++ used)

/-- The blocks of a range of rows. -/
def blocksOf (base acc : Nat) : List Nat := List.range' (base / 64) ((acc + 63) / 64)

/-- Once a group takes rows on a core, the handlers of the reserves have each its contiguous range (R280, R286). -/
def State.rowsReserved (s : State) (own : Option Nat) (p : Place) (acc : Nat) : Bool :=
  rangesFit ((s.reserves own p.core).map fun r => (r.acc + 63) / 64)
    (blocksOf p.acc acc ++ (s.residents p.core).flatMap fun g => blocksOf g.accBase g.accRows)

/-- Groups, threads, registers, scratchpad and rows of a core hold the reserves beside what is there and what comes (R29, R280). -/
def State.coreReserved (s : State) (own : Option Nat) (core : Nat) (ts : List Take) : Bool :=
  coreHolds (ts ++ (s.reserves own core).map LaunchRec.take ++ (s.residents core).map Group.take)

/-- A placement leaves the reserves, or, of a handler group, finds them gone already (DESIGN CHOICE, log entry 108). -/
def State.reservesKept (s : State) (own : Option Nat) (p : Place) (t : Take) : Bool :=
  (s.rowsReserved own p t.acc || (own.isSome && !s.rowsReserved own p 0)) &&
  (s.coreReserved own p.core [t] || (own.isSome && !s.coreReserved own p.core []))

/-- The job's quota on a core allows one more group (R280). -/
def State.quotaAllows (s : State) (asid core : Nat) (t : Take) : Bool :=
  match s.job asid with
  | none => false
  | some j =>
    let gs := (s.residents core).filter fun g => g.asid == asid && g.handler.isNone
    gs.length + 1 ≤ j.desc.qslots && (gs.map Group.regBytes).sum + t.threads * t.regs * 4 ≤ j.desc.qreg * 1024 &&
    (gs.map fun g => g.scratchLen).sum + t.scratch ≤ j.desc.qscr && (gs.map fun g => g.accRows).sum + t.acc ≤ j.desc.qacc

/-- A group can be placed (R286). An ordinary group leaves every handler's reserve untouched, a handler group those of the jobs bound
before its own (R280). -/
def State.placeOk (s : State) (asid : Nat) (t : Take) (dict : Option Dword) (hand : Bool) (p : Place) : Bool :=
  s.coreOn p.core && s.accFree p.core p.acc t.acc && coreHolds (t :: (s.residents p.core).map Group.take) &&
  s.reservesKept (if hand then some asid else none) p t && (hand || s.quotaAllows asid p.core t) &&
  match dict with
  | none => true
  | some a => (s.dictSlot p.core asid a none none hand).isSome

/-- A cluster's places: distinct cores of one quad (R31). -/
def clusterPlaces (n : Nat) (ps : List Place) : Bool :=
  ps.length == n && (ps.map Place.core).Nodup && ps.all fun p => p.core / 4 == ((ps.map Place.core).headD 0) / 4

/-- Some range of rows lets the group be placed on a core. -/
def State.fitsCore (s : State) (asid : Nat) (t : Take) (dict : Option Dword) (core : Nat) : Bool :=
  (List.range 9).any fun k => s.placeOk asid t dict false ⟨core, 64 * k⟩
/-- Some quad takes a cluster. -/
def State.fitsSomewhere (s : State) (asid n : Nat) (t : Take) (dict : Option Dword) : Bool :=
  (List.range (s.numCores / 4)).any fun q => n ≤ (s.quadCores q).countP fun c => s.fitsCore asid t dict c

/-- The dictionary a record names. -/
def LaunchRec.dict? (r : LaunchRec) : Option Dword := if r.dict = 0 then none else some r.dict

/-! ## A new group -/

/-- A thread as its group starts (R20, R24). -/
def Thread.fresh (nregs : Nat) (pc : Pc) : Thread where
  pc := pc
  badPc := none
  d := List.replicate nregs 0
  q := 0
  fstat := 0
  fmode := 0
  depth := 0
  stack := []
  windows := []
  status := .ready
  held := none
  age := 0

def Conv.fresh (m : TSet) : Conv := ⟨m, false, 0, 0, 0, []⟩

/-- A group as it is placed (R20, R30, R185, R193, R195). -/
def Group.fresh (r : LaunchRec) (asid launch gid cid : Nat) (cluster : List Nat) (p : Place) (handler : Option Nat)
    (sel : Option Nat) : Group where
  asid := asid
  launch := launch
  gid := gid
  cid := cid
  cluster := cluster
  core := p.core
  status := .starting 0
  nthreads := r.nthreads
  nregs := r.nregs
  scratchLen := r.scratch
  scratch := []
  accBase := p.acc
  accRows := r.acc
  entry := r.entry.extractLsb' 0 57
  espill := r.espill
  spill := r.spill
  quant := if handler.isSome then 0 else r.quant
  g := List.replicate 64 0
  prologueEnd := r.entry.extractLsb' 0 57
  prologue := []
  cvs := Conv.fresh (BitVec.ofNat 1024 (2 ^ r.nthreads - 1)) :: List.replicate 15 (Conv.fresh 0)
  bars := List.replicate 16 ⟨0, 0, 0, 0⟩
  hqs := List.replicate 8 ⟨0, 0, []⟩
  sel := sel
  selAddr := none
  threads := List.replicate r.nthreads (Thread.fresh r.nregs (r.entry.extractLsb' 0 57))
  handler := handler
  quanta := List.replicate 8 0
  swapReady := false
  startAt := none
  swapSeq := 0
  savedAcc := []
  savedSlots := []
  seg := none
  gram := []
  gramQ := []
  credK := List.replicate 16 0
  gswap := []

/-- A core as a group finds it: its rows +0, its slots empty (R251), and nothing cached that its start acquire must not see
(R123). -/
def State.clearRows (s : State) (p : Place) (acc : Nat) : State :=
  s.setCore p.core fun c => { c with
    l1 := []
    acc := accRows c.acc p.acc acc []
    slots := c.slots.mapIdx fun k w => if p.acc / 16 ≤ k && k < (p.acc + acc) / 16 then WSlot.empty else w }

/-- The dictionary slot that a group is to use, taken at its placement (R70). -/
def State.takeDict (s : State) (asid : Nat) (p : Place) (dict : Option Dword) (hand : Bool) : State × Option Nat :=
  match dict with
  | none => (s, none)
  | some a =>
    match s.dictSlot p.core asid a none none hand with
    | some k => (if s.dictTagged p.core asid a = some k then s else s.setDict p.core k ⟨asid, a, [], 0⟩, some k)
    | none => (s, none)

/-- A group is placed. -/
def State.addGroup (s : State) (r : LaunchRec) (asid launch gid cid : Nat) (cluster : List Nat) (p : Place) (handler : Option Nat) : State :=
  let (s, sel) := (s.clearRows p r.acc).takeDict asid p r.dict? handler.isSome
  { s with groups := s.groups ++ [Group.fresh r asid launch gid cid cluster p handler sel] }.countHub 3 (some asid) 1

/-! ## Group start (R287) -/

/-- The record that gave a group its shape. -/
def State.recOf (s : State) (g : Group) : Option LaunchRec :=
  if g.handler.isSome then (s.job g.asid).bind Job.handler else (s.launch? g.asid g.launch).map Launch.lr

/-- `n` words from a virtual address on, each checked as a load (R165). -/
def State.loadG (s : State) (asid core : Nat) : Nat → Nat → State × Except Eff (List Word)
  | _, 0 => (s, .ok [])
  | va, n + 1 =>
    match (do aligned va 4; s.global asid (BitVec.ofNat 64 va) .read isNormal) with
    | .error e => (s, .error e)
    | .ok (pa, t, e) =>
      match s.memRead core asid false pa t e 4 with
      | (s, bs) =>
        match State.loadG s asid core (va + 4) n with
        | (s, .error e) => (s, .error e)
        | (s, .ok ws) => (s, .ok (BitVec.ofNat 32 (leNat bs) :: ws))

/-- Words put into g registers from number `n` on. -/
def Group.putG (g : Group) (n : Nat) (ws : List Word) : Group := { g with g := (g.g.take n ++ ws ++ g.g.drop (n + ws.length)).take 64 }

/-- A fault of a start is one of the group's thread 0 (R168, R287): a trap at a pc, or a wait for a page. -/
def State.startFault (s : State) (gi : Nat) (g : Group) (pc : Pc) (insn : Option (BitVec 128)) (fetch : Bool) : Eff → State
  | .trap info => (s.setThr ⟨gi, 0⟩ fun t => { t with pc }).takeTrap ⟨gi, 0⟩ insn none info
  | .park addr _ => s.enterFault ⟨g.asid, addr.toNat % 2 ^ 57 / 4096 * 4096, kindBits false fetch false, g.core, g.launch, .start gi,
      none, none, addr, false⟩
  | _ => s

/-- Step 2 of R287: the parameters. -/
def State.startParams (s : State) (gi : Nat) (g : Group) (r : LaunchRec) : State × Bool :=
  match s.loadG g.asid g.core r.params.toNat r.nparam with
  | (_, .error e) => (s.startFault gi g g.entry none false e, false)
  | (s, .ok ws) => (s.setGrp gi fun g => { g.putG (if g.handler.isSome then 2 else 0) ws with status := .starting 1 }, true)

/-- What stands at the end of the prologue so far: a full-length LDP with its bits, or something else (R167). -/
inductive ProItem where
  | ldp (insn : BitVec 128)
  | other
  | absent (addr : Dword)
  deriving DecidableEq, Repr

/-- The core's own fetch of its next LDP. -/
def Group.proThread (g : Group) : Thread := Thread.fresh 0 g.prologueEnd

def State.proItem (s : State) (g : Group) : ProItem :=
  match s.fetch g.asid g.proThread with
  | .bits w => if lengthOf w != 4 && bits w.toNat 19 12 == 0x86 then .ldp w else .other
  | .trap _ => .other
  | .absent a => .absent a

/-- The prologue grows by an LDP. -/
def Group.addLdp (g : Group) (w : BitVec 128) : Group :=
  { g with prologue := g.prologue ++ [g.prologueEnd], prologueEnd := g.prologueEnd + BitVec.ofNat 57 (lengthOf w) }

/-- One LDP of the prologue; an encoding that is not allowed performs nothing here and faults when a thread executes it. The core
performs an LDP whatever its guard, since no thread executes it then (DESIGN CHOICE, log entry 75: R167 does not say). -/
def State.proLoad (s : State) (gi : Nat) (g : Group) (w : BitVec 128) : State × Bool :=
  match decode w with
  | .ok (.ldp _ n k m off) =>
    let va := (g.gpair m.toNat + off.signExtend 64).toNat
    match s.loadG g.asid g.core va (k.toNat + 1) with
    | (_, .error e) => (s.startFault gi g g.prologueEnd (some w) false e, false)
    | (s, .ok ws) => (s.setGrp gi fun g => (g.putG n.toNat ws).addLdp w, true)
  | _ => (s.setGrp gi fun g => g.addLdp w, true)

/-- Step 3 of R287, first part: the prologue, in address order. -/
def State.startPrologue : Nat → State → Nat → State × Bool
  | 0, s, _ => (s, false)
  | k + 1, s, gi =>
    match s.groups[gi]? with
    | none => (s, false)
    | some g =>
      let s := s.fetchBlock g.core g.asid g.proThread
      match s.proItem g with
      | .other => (s.setGrp gi fun g => { g with status := .starting 2 }, true)
      | .absent a => (s.startFault gi g g.entry none true (.park a false), false)
      | .ldp w =>
        match s.proLoad gi g w with
        | (s, true) => State.startPrologue k s gi
        | (s, false) => (s, false)

/-- A group begins to run. -/
def State.run (s : State) (gi : Nat) : State :=
  s.setGrp gi fun g => { g with
    status := .running
    threads := g.threads.map fun (t : Thread) => { t with pc := g.entry, badPc := none } }

/-- Step 3 of R287, second part: the dictionary (R72). A rejection ends the launch; a handler group, which has none, is stopped and ends
as one that made no RESUME (DESIGN CHOICE, log entry 101: R72, R287 and R305 do not say). -/
def State.startDict (s : State) (gi : Nat) (g : Group) (r : LaunchRec) : State :=
  match r.dict? with
  | none => s.run gi
  | some a =>
    match s.imagePages g.asid a with
    | .error e => s.startFault gi g g.entry none false e
    | .ok (pa0, pa1) =>
      let (s, bs) := s.readImage g pa0 pa1
      match s.dictLoad gi g a bs with
      | (s, 0) => s.run gi
      | (s, 1) => s
      | (s, _) =>
        if g.handler.isSome then s.stopGroups [gi]
        else (s.setLaunch g.asid g.launch fun l => { l with rejected := true }).cancelLaunch g.asid g.launch

/-- A start goes on from the stage it has reached, with nothing of it waiting. -/
def State.continueStart (s : State) (gi : Nat) : State :=
  match s.groups[gi]? with
  | none => s
  | some g =>
    match g.status, s.recOf g with
    | .starting n, some r =>
      let x := if n = 0 then s.startParams gi g r else (s, true)
      let x := if x.2 && n ≤ 1 then State.startPrologue (2 ^ 54) x.1 gi else x
      if x.2 then (match x.1.groups[gi]? with | some g => x.1.startDict gi g r | none => x.1) else x.1
    | _, _ => s

/-- Groups of a cluster are placed and start. -/
def State.startCluster (s : State) (r : LaunchRec) (asid launch gid : Nat) (ps : List Place) : State :=
  let n := s.groups.length
  let cluster := List.range' n ps.length
  let s := (ps.zipIdx).foldl (fun s p => s.addGroup r asid launch (gid + p.2) p.2 cluster p.1 none) s
  cluster.foldl State.continueStart s

/-- A handler group starts at a place, with the address of its record in g1:g0 (R304). -/
def State.startHandler (s : State) (r : LaunchRec) (asid : Nat) (p : Place) (trap : Nat) (slot : Dword) : State :=
  let n := s.groups.length
  let s := (s.addGroup r asid 0 0 0 [n] p (some trap)).setGrp n fun g => g.putG 0 [loWord slot, hiWord slot]
  s.continueStart n

/-- RESUME of a record that holds thread 0 of a starting group (R168, R287): the load is repeated, or the LDP passed over. -/
def State.resumeStart (s : State) (x : Trap) (r : ThreadRef) (skip : Bool) : State :=
  let s := s.setThr r fun t => { t with status := .ready, held := none }
  let s := if skip && x.tr.insnValid then
      s.setGrp r.grp fun g => g.addLdp x.tr.insn
    else s
  s.continueStart r.grp

end Sys2Proof.Machine
end

