-- ==== Sys2Proof/Machine/Window.lean ====
section
/-! DEFINITION. The management window BAR0 (R318): its registers, the commands (R319), the replay doorbell (R302), the start of
collective operations (R323), and what a stop of a collective's completion word means (R324). -/

namespace Sys2Proof.Machine

def State.setMgmt (s : State) (f : Mgmt → Mgmt) : State := { s with mgmt := f s.mgmt }
/-- BOOTSTAT is RUN. -/
def State.booted (s : State) : Bool := s.mgmt.boot == 1

/-! ## Features (R42, R43) -/

def State.numStacks (s : State) : Nat := if s.build.small then 4 else 8
def State.numDies (s : State) : Nat := if s.build.small then 2 else 4
def State.enabledCores (s : State) : Nat := (List.range s.numCores).countP s.coreOn

/-- FEAT0 to FEAT3 in RUN. -/
def State.feat (s : State) (k : Nat) : Word :=
  BitVec.ofNat 32 (match k with
    | 0 => 2 ^ 24 + b2n s.build.cxlm * 2 ^ 23 + b2n (!s.build.small) * 2 ^ 22 + s.numLinks * 2 ^ 17 + s.numStacks * 2 ^ 13 +
        s.numDies * 2 ^ 10 + s.enabledCores
    | 1 => 384 * 2 ^ 16 + (if s.build.small then 256 else 512)
    | 2 => s.build.units.toNat
    | _ => 8 * 2 ^ 28 + 512 * 2 ^ 18 + 32 * 2 ^ 12 + 2048)

/-- CMAPk in RUN. -/
def State.cmap (s : State) (k : Nat) : Word :=
  BitVec.ofNat 32 ((List.range 32).foldl (fun n i => if s.coreOn (32 * k + i) then n + 2 ^ i else n) 0)

/-! ## Counters (R330) -/

/-- A 4-byte offset lies in a counter that the part has. -/
def State.isCounter (s : State) (off : Nat) : Bool :=
  (0x20000 ≤ off && off < 0x20000 + 128 * s.numCores) || (0x26000 ≤ off && off < 0x26000 + 256 * s.numDies) ||
  (0x27000 ≤ off && off < 0x27000 + 128 * s.numStacks) || (0x27400 ≤ off && off < 0x27500)

def State.counter (s : State) (off : Nat) : Counter := (s.counters.find? fun c => c.off == off).getD ⟨off, 0, 0⟩
/-- A counter stored at its place, ascending offset. -/
def putCounter (k : Counter) : List Counter → List Counter
  | [] => [k]
  | c :: t => if k.off < c.off then k :: c :: t else if k.off = c.off then k :: t else c :: putCounter k t
def State.setCounter (s : State) (k : Counter) : State := { s with counters := putCounter k s.counters }

/-! ## Reads (R318) -/

def wordOf (bs : List Byte) : Word := BitVec.ofNat 32 (leNat bs)
/-- Word `k` of bytes. -/
def wordAtOf (bs : List Byte) (off : Nat) : Word := wordOf ((bs.drop off).take 4)
/-- One half of a double. -/
def half (v : Dword) (hi : Bool) : Word := if hi then hiWord v else loWord v
/-- A double with one half replaced. -/
def setHalf (v : Dword) (hi : Bool) (w : Word) : Dword := if hi then pairOf (loWord v) w else pairOf w (hiWord v)

/-- LMS signatures left (R327). -/
def State.sigsLeft (s : State) : Nat := 2 ^ 20 - s.nvIndex

/-- The 32-bit register at an offset that is a multiple of 4; a reserved one reads 0 (R9). -/
def State.regRead (s : State) (off : Nat) : Word :=
  let m := s.mgmt
  if off < 0x10 then (if s.booted then s.feat (off / 4) else 0)
  else if off < 0x28 then (if s.booted then s.cmap ((off - 0x10) / 4) else 0)
  else if off = 0x28 then m.boot.setWidth 32
  else if off = 0x2C then BitVec.ofNat 32 ((m.periods.map BitVec.toNat).foldl max 0)
  else if 0x40 ≤ off ∧ off < 0x60 then m.periods.getD ((off - 0x40) / 4) 0
  else if 0x1000 ≤ off ∧ off < 0x1800 then
    let q := s.queues.getD ((off - 0x1000) / 32) HubQueue.fresh
    match (off - 0x1000) % 32 with
    | 0x00 => loWord q.base
    | 0x04 => hiWord q.base
    | 0x08 => BitVec.ofNat 32 (b2n q.en * 2 ^ 31 + q.asid.toNat * 2 ^ 16 + q.log2n)
    | 0x0C => q.wr
    | 0x10 => q.rd
    | 0x14 => q.comp
    | _ => 0
  else if off = 0x2000 then loWord m.cmd
  else if off = 0x2004 then hiWord m.cmd
  else if off = 0x2008 then loWord m.carg
  else if off = 0x200C then hiWord m.carg
  else if off = 0x2010 then m.cstat
  else if off = 0x2018 then m.jreplay
  else if 0x8000 ≤ off ∧ off < 0x8800 then wordOf (cRead m.route (off - 0x8000) 4)
  else if off = 0x8800 then m.devnum.setWidth 32
  else if 0x9000 ≤ off ∧ off < 0x9400 then
    let e := s.elog.getD ((off - 0x9000) / 16) ⟨0, 0⟩
    match (off - 0x9000) % 16 with
    | 0 => loWord e.addr
    | 4 => hiWord e.addr
    | 8 => BitVec.ofNat 32 e.type
    | _ => 0
  else if off = 0x9400 then s.errovf
  else if 0xA000 ≤ off ∧ off < 0xA020 then wordAtOf m.nonce (off - 0xA000)
  else if off = 0xA020 then m.acmd
  else if off = 0xA024 then m.astat
  else if off = 0xA028 then BitVec.ofNat 32 s.sigsLeft
  else if 0xA100 ≤ off ∧ off < 0xA100 + 1900 then wordAtOf m.report (off - 0xA100)
  else if off = 0xB000 then m.skew
  else if off = 0xB004 then m.awin
  else if off = 0xB008 then m.cethresh
  else if off = 0xB00C then m.plimit
  else if off = 0xB010 then m.temp
  else if off = 0xB014 then m.power
  else if off = 0xC000 ∨ off = 0xC004 then (if s.build.small then 0xFFFFFFFF else half m.colldb (off == 0xC004))
  else if 0x10000 ≤ off ∧ off < 0x10480 then wordOf (cRead m.msixTable (off - 0x10000) 4)
  else if 0x10480 ≤ off ∧ off < 0x10490 then BitVec.ofNat 32 (m.msixPend.toNat / 2 ^ (8 * (off - 0x10480)))
  else if s.isCounter off then
    let c := s.counter (off / 16 * 16)
    match off % 16 with
    | 0 => c.sel
    | 8 => loWord c.val
    | 12 => hiWord c.val
    | _ => 0
  else 0

/-- A read of `n` bytes: aligned b32 and b64 only, any other reads all ones. -/
def State.bar0Read (s : State) (off n : Nat) : List Byte :=
  if n = 4 ∧ off % 4 = 0 then leBytes 4 (s.regRead off).toNat
  else if n = 8 ∧ off % 8 = 0 then leBytes 4 (s.regRead off).toNat ++ leBytes 4 (s.regRead (off + 4)).toNat
  else List.replicate n 0xFF

/-! ## Commands (R319) -/

/-- Status codes of R319. -/
def cDONE : Nat := 0
def cBADFIELD : Nat := 2
def cASIDBOUND : Nat := 3
def cNOJOB : Nat := 4
def cBADHANDLER : Nat := 5
def cBADOP : Nat := 6
def cSTATE : Nat := 7

/-- A command ends: its status, then vector 67. -/
def State.endCmd (s : State) (st : Nat) : State := (s.setMgmt fun m => { m with cstat := BitVec.ofNat 32 st }).sendMsix 67 none

/-- A job descriptor's fields (R279), with the reserved ones. -/
def JobDesc.ofBytes (bs : List Byte) : JobDesc × Bool :=
  let w := leNat bs
  let f (lo n : Nat) : Nat := w / 2 ^ (8 * lo) % 2 ^ (8 * n)
  let d : JobDesc :=
    { ptroot := f 0 8, fbuf := f 8 8, tape := f 16 8, traps := BitVec.ofNat 64 (f 24 8), hrec := BitVec.ofNat 64 (f 32 8)
      swap := f 40 8, swaplen := f 48 8, stop := f 56 8, fbcap := f 64 4, tapecap := f 68 4, dl1 := f 72 4, dl2 := f 76 4
      qscr := f 80 4, qreg := f 84 2, qacc := f 86 2, qslots := f 88 1, weight := f 89 1, hprio := f 90 1, asid := f 92 2 }
  (d, f 91 1 == 0 && f 94 34 == 0)

/-- The fields that SETQUOTA copies keep their Values column. -/
def JobDesc.quotaOk (d : JobDesc) : Bool :=
  d.weight ≥ 1 && d.qslots ≤ 31 && d.qacc ≤ 512 && d.qacc % 64 == 0 && d.qreg ≤ 512 && d.qscr ≤ 393216

/-- Every field keeps its Values column, and physical areas lie in device memory (R279). -/
def JobDesc.ok (d : JobDesc) (mem : Nat) : Bool :=
  d.quotaOk && d.hprio < 8 && d.asid < 4096 && d.fbcap ≥ 1 && d.fbcap ≤ 65536 && d.tapecap ≤ 65536 &&
  d.ptroot % 4096 == 0 && d.fbuf % 32 == 0 && d.tape % 128 == 0 && d.traps.toNat % 1024 == 0 && d.hrec.toNat % 128 == 0 &&
  d.swap % 4096 == 0 && d.swaplen % 4096 == 0 && d.stop % 128 == 0 &&
  d.ptroot + 4096 ≤ mem && d.fbuf + 32 * d.fbcap ≤ mem && d.tape + 128 * d.tapecap ≤ mem && d.swap + d.swaplen ≤ mem &&
  d.stop + 128 ≤ mem

/-- The handler record read through the job's tables (R279); none is BADHANDLER. -/
def State.bindHandler (s : State) (d : JobDesc) : State × Option (Option LaunchRec) :=
  if d.hrec = 0 then (s, some none)
  else if !canonical d.hrec.toNat then (s, none)
  else
    let va := d.hrec.toNat % 2 ^ 57
    match s.walkFrom d.asid va 4 d.ptroot with
    | .leaf t =>
      if !bit t.pte.toNat 2 || pteType t.pte.toNat != some .normal then (s, none)
      else
        let (s, bs) := s.homeRead (some d.asid) (t.pa + (va - t.va)) 128
        let r := LaunchRec.ofBytes bs
        if (s.recordReason d.asid r true).isSome then (s, none) else (s, some (some r))
    | _ => (s, none)

/-- Retained translations of an ASID dropped, all of them or those that cover an address (R300, R312). -/
def State.dropTlb (s : State) (asid : Nat) (va : Option Nat) : State :=
  { s with tlb := s.tlb.filter fun t => !(t.asid == asid && match va with
      | none => true
      | some a => canonical a && t.va ≤ a % 2 ^ 57 && a % 2 ^ 57 < t.va + t.size) }

def State.cmdBind (s : State) : State :=
  let a := s.mgmt.carg.toNat
  if a % 128 != 0 || a + 128 > s.memSize then s.endCmd cBADFIELD else
  let (s, bs) := s.homeRead none a 128
  let (d, clean) := JobDesc.ofBytes bs
  if !(clean && d.ok s.memSize) then s.endCmd cBADFIELD
  else if (s.job d.asid).isSome then s.endCmd cASIDBOUND
  else
    match s.bindHandler d with
    | (s, none) => s.endCmd cBADHANDLER
    | (s, some h) =>
      let s := s.dropTlb d.asid none
      let j : Job := { desc := d, handler := h, pre := none, stage2 := false, suspended := false, stopping := none,
                       stopped := false, nextId := 1, seq := 1, tapeN := 0 }
      { s with jobs := s.jobs ++ [j] }.endCmd cDONE

def State.cmdUnbind (s : State) (asid : Nat) (j : Job) : State :=
  if !j.stopped then s.endCmd cSTATE
  else
    { s with
      jobs := s.jobs.filter fun j => j.desc.asid != asid
      launches := s.launches.filter fun l => l.asid != asid
      insts := s.insts.filter fun i => i.asid != asid
      rowFns := s.rowFns.filter fun f => f.asid != asid
      traps := s.traps.filter fun t => t.asid != asid
      parked := s.parked.filter fun p => p.asid != asid }.endCmd cDONE

def State.cmdSetquota (s : State) (asid : Nat) : State :=
  let a := s.mgmt.carg.toNat
  if a % 128 != 0 || a + 128 > s.memSize then s.endCmd cBADFIELD else
  let (s, bs) := s.homeRead none a 128
  let (d, _) := JobDesc.ofBytes bs
  if !d.quotaOk then s.endCmd cBADFIELD
  else (s.setJob asid fun j => { j with desc := { j.desc with
      qslots := d.qslots, qreg := d.qreg, qscr := d.qscr, qacc := d.qacc, weight := d.weight } }).endCmd cDONE

/-- Commands that name a job. -/
def State.jobCmd (s : State) (op asid arg : Nat) (j : Job) : State :=
  match op with
  | 0x02 => s.cmdUnbind asid j
  | 0x03 =>
    if j.suspended || j.stopping.isSome then s.endCmd cSTATE
    else (s.setJob asid fun j => { j with pre := some (j.pre.getD s.hubClock) }).endCmd cDONE
  | 0x04 => if j.suspended then (s.setJob asid fun j => { j with suspended := false }).endCmd cDONE else s.endCmd cSTATE
  | 0x05 => (s.jobStop asid .cancel (List.replicate 64 0)).endCmd cDONE
  | 0x06 => s.cmdSetquota asid
  | _ =>
    if arg = 0 then (s.dropTlb asid none).endCmd cDONE
    else if arg = 1 then (s.dropTlb asid (some s.mgmt.carg.toNat)).endCmd cDONE
    else s.endCmd cBADFIELD

def State.setLink (s : State) (l : Nat) (f : Link → Link) : State := { s with links := s.links.modify l f }

/-- The command that the CMD register holds is carried out. -/
def State.runCommand (s : State) : State :=
  if !s.booted then s else
  let w := s.mgmt.cmd.toNat
  let op := bits w 63 56
  let asid := bits w 43 32
  let arg := bits w 31 0
  match op with
  | 0x01 => s.cmdBind
  | 0x08 => if arg ≥ s.numLinks then s.endCmd cBADFIELD else (s.setLink arg fun l => { l with fenced := true }).endCmd cDONE
  | 0x09 => if arg ≥ s.numLinks then s.endCmd cBADFIELD else (s.setLink arg fun l => { l with fenced := false }).endCmd cDONE
  | 0x0A => { s.endCmd cDONE with frozen := true }
  | 0x0B => { s with elog := List.replicate 64 ⟨0, 0⟩, errovf := 0 }.endCmd cDONE
  | _ =>
    if 2 ≤ op ∧ op ≤ 7 then
      match s.job asid with
      | none => s.endCmd cNOJOB
      | some j => s.jobCmd op asid arg j
    else s.endCmd cBADOP

/-- CMD written whole by the host. -/
def State.command (s : State) (op asid arg : Nat) : State :=
  ((s.hostFlits 8 0).setMgmt fun m => { m with cmd := BitVec.ofNat 64 (op * 2 ^ 56 + asid * 2 ^ 32 + arg) }).runCommand

/-! ## The replay doorbell (R302) -/

/-- A start whose access is refused by the pager (R302): the trap of the group's thread 0, or, for a fetch, the end of the
prologue. -/
def State.refuseStart (s : State) (gi : Nat) (p : Parked) : State :=
  match s.groups[gi]? with
  | none => s
  | some g =>
    if bit p.kind 1 then (s.setGrp gi fun g => { g with status := .starting 2 }).continueStart gi
    else
      let e : Eff := .trap (FCode.xlatePermission.at p.addr)
      match g.status, s.proItem g with
      | .starting 1, .ldp w => s.startFault gi g g.prologueEnd (some w) false e
      | _, _ => s.startFault gi g g.entry none false e

/-- A waiting operation ends with reason PERMISSION. -/
def State.refuseOp (s : State) (id : Nat) : State :=
  match s.ops.find? fun o => o.id == id with
  | some o => (s.endOp o rPERMISSION).drainGram o.grp
  | none => s

def State.setColl (s : State) (id : Nat) (f : Coll → Coll) : State :=
  { s with colls := s.colls.map fun c => if c.id = id then f c else c }
def State.dropColl (s : State) (id : Nat) : State := { s with colls := s.colls.filter fun c => c.id != id }

/-- A collective operation's access is refused by the pager: at its completion word that is a fault there (R324); an operation
whose descriptor cannot be read names no completion word. -/
def State.refuseColl (s : State) (c : Coll) (p : Parked) : State :=
  if c.desc.isSome then s.dropColl c.id
  else if p.addr = c.cword then s.jobStop c.asid .traparea (wordCause .xlatePermission c.cword)
  else s.setColl c.id fun c => { c with waiting := false, err := some (c.err.getD rPERMISSION) }

/-- The core that a replayed access is made for. -/
def State.whoCore (s : State) (w : Who) : Option Nat :=
  let grp : Option Nat := match w with
    | .thread r => some r.grp
    | .op id => (s.ops.find? fun o => o.id == id).map EngOp.grp
    | .start gi => some gi
    | .swapIn gi => some gi
    | .seg gi _ => some gi
    | .coll id => (s.colls.find? fun c => c.id == id).map Coll.grp
    | .stats _ _ => none
  (grp.bind fun gi => s.groups[gi]?).map Group.core

/-- One parked access is replayed with the pager's answer, an acquire for its core (R108, R302). -/
def State.replayOne (s : State) (p : Parked) (resp : Nat) : State :=
  let no := resp == 1
  let s := match s.whoCore p.who with | some k => s.clearL1 k | none => s
  match p.who with
  | .thread r =>
    match s.thr r with
    | none => s
    | some t =>
      if no then s.takeTrap r (t.held.map Held.insn) (t.held.bind Held.shortw) (FCode.xlatePermission.at p.addr)
      else s.setThr r fun t => { t with status := .ready }
  | .op id =>
    if no then s.refuseOp id
    else { s with ops := s.ops.map fun (o : EngOp) => if o.id = id then { o with waiting := false } else o }
  | .start gi => if no then s.refuseStart gi p else s.continueStart gi
  | .stats asid lid => if no then s.setLaunch asid lid fun l => { l with statsDone := true } else s
  | .swapIn gi => if no then s.setGrp gi fun g => { g with selAddr := none } else s
  | .seg gi c =>
    if no then ((s.deliverGram gi c (gREFUSED rPERMISSION)).setGrp gi fun g => { g with gramQ := g.gramQ.tail }).drainGram gi
    else s.reopenSeg gi c
  | .coll id =>
    match s.colls.find? fun c => c.id == id with
    | some c => if no then s.refuseColl c p else s.setColl id fun c => { c with waiting := false }
    | none => s

/-- The pager's answer to a parked access: of an entry cleared before, or of its entry, cleared now. -/
def State.answer (s : State) (j : Job) (p : Parked) : Option Nat :=
  match p.resp with
  | some r => some r
  | none => p.entry.bind fun k => let c := s.fbCtl j k; if bit c 7 then none else some (c % 4)

/-- The access is of a thread or of the start of a group that is swapped out: the group's context holds it (R293). -/
def State.away (s : State) (w : Who) : Bool :=
  let out (gi : Nat) : Bool := (s.groups[gi]?).any fun g => g.status == .swapped
  match w with | .thread r => out r.grp | .start gi => out gi | _ => false

/-- An access that still waits is replayed with the answer it has. -/
def State.replayParked (s : State) (p : Parked) : State :=
  if s.parked.contains p then { s with parked := s.parked.erase p }.replayOne p (p.resp.getD 0) else s

/-- The doorbell replays every access of the cleared entries; one of a group that is swapped out is replayed at its swap-in. -/
def State.replay (s : State) (asid : Nat) : State :=
  match s.job asid with
  | none => s
  | some j =>
    let ring (p : Parked) : Parked :=
      if p.asid = asid ∧ (s.answer j p).isSome then { p with entry := none, resp := s.answer j p, rung := true } else p
    let s := { s with parked := s.parked.map ring }
    (s.parked.filter fun p => p.rung && p.asid == asid && !s.away p.who).foldl State.replayParked s

/-! ## Collective operations: start and completion word (R323, R324) -/

/-- The fields of a descriptor put into an operation; a malformed one ends it with MALFORMED. -/
def Coll.ofDesc (c : Coll) (links : Nat) (bs : List Byte) : Coll :=
  let w := leNat bs
  let f (lo n : Nat) : Nat := w / 2 ^ (8 * lo) % 2 ^ (8 * n)
  let eb := match f 42 1 with | 4 => 2 | 5 => 4 | _ => 1
  let bad := f 44 20 != 0 || f 43 1 / 4 != 0 || f 42 1 < 4 || f 42 1 > 7 || f 24 4 == 0 || f 24 4 > 2 ^ 24 || f 16 8 % 8 != 0 ||
    f 8 8 % eb != 0 || f 0 8 % eb != 0 || f 36 3 / 2 ^ links != 0 || f 39 3 / 2 ^ links != 0 || (f 0 8 == 0 && f 36 3 == 0)
  { c with
    src := BitVec.ofNat 64 (f 0 8), dest := BitVec.ofNat 64 (f 8 8), cword := BitVec.ofNat 64 (f 16 8), count := f 24 4
    tag := BitVec.ofNat 32 (f 28 4), key := BitVec.ofNat 32 (f 32 4), inmask := BitVec.ofNat 24 (f 36 3)
    outmask := BitVec.ofNat 24 (f 39 3), fmt := f 42 1, isMax := bit (f 43 1) 0, rs := bit (f 43 1) 1, desc := none
    err := if bad then some rMALFORMED else c.err }

/-- An operation waits for an absent page. -/
def State.parkColl (s : State) (c : Coll) (va : Nat) (write : Bool) : State :=
  let core := match s.groups[c.grp]? with | some g => g.core | none => 0
  (s.setColl c.id fun c => { c with waiting := true }).parkEngine c.asid va core c.launch write (.coll c.id)

/-- The descriptor is read after the fork. One that cannot be read names no completion word: the operation ends unreported. -/
def State.readColl (s : State) (c : Coll) (va : Dword) : State :=
  if va.toNat % 64 != 0 then s.dropColl c.id else
  match s.engRead none c.asid isNormal (byteAddrs va.toNat 64) with
  | (s, .ok bs) => s.setColl c.id fun c => c.ofDesc s.numLinks bs
  | (s, .error (.absent a w)) => s.parkColl c a w
  | (s, .error _) => s.dropColl c.id

/-- A store to COLLDB by a thread of a group forks an operation, which COLLECTIVE_START then begins; the fork is a release pattern
(R114, R323). -/
def State.startColl (s : State) (gi : Nat) (va : Dword) : State :=
  if s.build.small then s else
  match s.groups[gi]? with
  | none => s
  | some g =>
    let c : Coll := ⟨s.nextOp, gi, g.asid, g.launch, 0, 0, 0, 0, 0, 0, 0, 0, 0, false, false, [], some va, false, none⟩
    ({ s.clearL1 g.core with colls := s.colls ++ [c], nextOp := s.nextOp + 1 }).setMgmt fun m => { m with colldb := va }

/-! ## Writes (R281, R318, R327, R332 to R335) -/

def State.setQueue' (s : State) (q : Nat) (f : HubQueue → HubQueue) : State := { s with queues := s.queues.modify q f }

/-- QCTL (R281). -/
def HubQueue.writeCtl (q : HubQueue) (v : Nat) : HubQueue :=
  if q.en && bit v 31 then q
  else { q with en := bit v 31, asid := BitVec.ofNat 12 (bits v 27 16), log2n := min (bits v 4 0) 16 }
/-- A half of QBASE. -/
def HubQueue.writeBase (q : HubQueue) (hi : Bool) (v : Word) : HubQueue :=
  if q.en then q else { q with base := setHalf q.base hi v &&& 0xFFFFFFFFFFFFFF80 }

/-- TDP of the variant (R335). -/
def State.tdp (s : State) : Nat := if s.build.small then 1300 else 2400

/-- A request to the attestation mailbox (R327). -/
def State.attest (s : State) (v : Word) : State :=
  if s.mgmt.astat = 1 then s else
  let s := s.setMgmt fun m => { m with acmd := v }
  if v ≠ 1 then s
  else s.setMgmt fun m => { m with astat := if s.sigsLeft = 0 then 3 else 1 }

/-- A message held pending is sent once its vector is no longer masked (PCIe, log entry 71). -/
def State.unmaskMsix (s : State) (v : Nat) : State :=
  if s.msixMasked v || !s.mgmt.msixPend.getLsbD v then s
  else (s.emitMsix v none).setMgmt fun m => { m with msixPend := m.msixPend &&& ~~~(BitVec.ofNat 72 (2 ^ v)) }
/-- A word of the MSI-X table written: the message address and data, and of the last word of an entry the mask bit, whose other
bits are reserved (R9). -/
def State.writeMsix (s : State) (off : Nat) (v : Word) : State :=
  (s.setMgmt fun m => { m with
    msixTable := cWrite m.msixTable off (leBytes 4 (if off % 16 = 12 then v &&& 1 else v).toNat) }).unmaskMsix (off / 16)

/-- Bytes replaced in a list. -/
def putBytes (l : List Byte) (off : Nat) (bs : List Byte) : List Byte := l.take off ++ bs ++ l.drop (off + bs.length)

/-- A b32 write of the register at an offset that is a multiple of 4; a reserved or read-only one ignores it. COLLDB is not
written here. -/
def State.regWrite (s : State) (off : Nat) (v : Word) : State :=
  let n := v.toNat
  if 0x1000 ≤ off ∧ off < 0x1800 then
    let q := (off - 0x1000) / 32
    match (off - 0x1000) % 32 with
    | 0x00 => s.setQueue' q fun x => x.writeBase false v
    | 0x04 => s.setQueue' q fun x => x.writeBase true v
    | 0x08 => s.setQueue' q fun x => x.writeCtl n
    | 0x0C => s.setQueue' q fun x => { x with wr := v }
    | _ => s
  else if off = 0x2000 then s.setMgmt fun m => { m with cmd := setHalf m.cmd false v }
  else if off = 0x2004 then (s.setMgmt fun m => { m with cmd := setHalf m.cmd true (v &&& 0xFF000FFF) }).runCommand
  else if off = 0x2008 then s.setMgmt fun m => { m with carg := setHalf m.carg false v }
  else if off = 0x200C then s.setMgmt fun m => { m with carg := setHalf m.carg true v }
  else if off = 0x2018 then (s.setMgmt fun m => { m with jreplay := v &&& 0xFFF }).replay (n % 4096)
  else if 0x8000 ≤ off ∧ off < 0x8800 then
    s.setMgmt fun m => { m with route := cWrite m.route (off - 0x8000) (leBytes 4 (v &&& 0x9F9F9F9F).toNat) }
  else if off = 0x8800 then s.setMgmt fun m => { m with devnum := v.extractLsb' 0 11 }
  else if 0x9000 ≤ off ∧ off < 0x9400 ∧ off % 16 = 8 ∧ n % 256 = 0 then
    { s with elog := s.elog.modify ((off - 0x9000) / 16) fun e => { e with type := 0 } }
  else if 0xA000 ≤ off ∧ off < 0xA020 then s.setMgmt fun m => { m with nonce := putBytes m.nonce (off - 0xA000) (leBytes 4 n) }
  else if off = 0xA020 then s.attest v
  else if off = 0xB000 then s.setMgmt fun m => { m with skew := v }
  else if off = 0xB004 then s.setMgmt fun m => { m with awin := v }
  else if off = 0xB008 then s.setMgmt fun m => { m with cethresh := BitVec.ofNat 32 (max 1 (min n 255)) }
  else if off = 0xB00C then s.setMgmt fun m => { m with plimit := BitVec.ofNat 32 (max (s.tdp / 2) (min n s.tdp)) }
  else if 0x10000 ≤ off ∧ off < 0x10480 then s.writeMsix (off - 0x10000) v
  else if s.isCounter off then
    let c := s.counter (off / 16 * 16)
    match off % 16 with
    | 0 => s.setCounter { c with sel := v &&& 0xCFFF00FF }
    | 8 => s.setCounter { c with val := setHalf c.val false v }
    | 12 => s.setCounter { c with val := setHalf c.val true v }
    | _ => s
  else s

/-- A write of `n` bytes by the host, or by a thread of a group: aligned b32 and b64 only. A b64 write of CMD starts one
command; COLLDB takes a thread's b64 store (R323), keeps its b32 stores as halves, and ignores the host. -/
def State.bar0Write (s : State) (grp : Option Nat) (off n : Nat) (v : Nat) : State :=
  let lo := BitVec.ofNat 32 v
  let hi := BitVec.ofNat 32 (v / 2 ^ 32)
  if n = 4 ∧ off % 4 = 0 then
    if off = 0xC000 ∨ off = 0xC004 then
      (if grp.isNone || s.build.small then s else s.setMgmt fun m => { m with colldb := setHalf m.colldb (off == 0xC004) lo })
    else s.regWrite off lo
  else if n = 8 ∧ off % 8 = 0 then
    if off = 0x2000 then (s.setMgmt fun m => { m with cmd := pairOf lo (hi &&& 0xFF000FFF) }).runCommand
    else if off = 0xC000 then (match grp with | some gi => s.startColl gi (pairOf lo hi) | none => s)
    else (s.regWrite off lo).regWrite (off + 4) hi
  else s

end Sys2Proof.Machine
end

