-- ==== Sys2Proof/Machine/Memory.lean ====
section
/-! DEFINITION. Loads, stores, atomics, fences and cache hints (R162 to R173). -/

namespace Sys2Proof.Machine

/-! ## Global memory -/

/-- Pair(dN) + offset, modulo 2^64 (R163). -/
def Ctx.addr (c : Ctx) (n : DReg) (off : Word) : Dword := c.rr n + off.signExtend 64
/-- u(dN + offset) modulo 2^32 (R163). -/
def Ctx.offset (c : Ctx) (n : DReg) (off : Word) : Nat := (c.r n + off).toNat

def execLd (h : Hdr) (w : LdW) (m : Mc) (d n : DReg) (off : Word) (s : State) :=
  issue (.ld h w m d n off) s fun c s => Eff.of do
    let a := c.addr n off
    aligned a.toNat w.bytes
    let (pa, t, e) ← s.global c.g.asid a .read (accessType w.bytes)
    match t with
    | .io => .ok (.done (s.ordered c.g.core m false) (dWrites d.toNat (loadWords w (s.bar0Read pa w.bytes))))
    | _ =>
      let (s, bs) := s.memRead c.g.core c.g.asid (nearScope m.scope) pa t e w.bytes
      .ok (.done (s.ordered c.g.core m false) (dWrites d.toNat (loadWords w bs)))

def execSt (h : Hdr) (w : StW) (m : Mc) (n : DReg) (off : Word) (sr : DReg) (s : State) :=
  issue (.st h w m n off sr) s fun c s => Eff.of do
    let a := c.addr n off
    let bs := storeBytes w c.t sr.toNat
    aligned a.toNat w.bytes
    let (pa, t, e) ← s.global c.g.asid a .write (accessType w.bytes)
    match t with
    | .io => .ok (.done ((s.ordered c.g.core m true).bar0Write (some c.ref.grp) pa w.bytes (leNat bs)) [])
    | _ => .ok (.done ((s.memWrite c.g.core c.g.asid pa t e bs).ordered c.g.core m true) [])

/-- The bytes of an operand register, a pair when W64 (R169). -/
def Ctx.operand (c : Ctx) (w64 : Bool) (b : DReg) : Nat := if w64 then (c.rr b).toNat else (c.r b).toNat

/-- The access of ATOM and RED (R170): the old value. A CAS that fails writes nothing. -/
def State.atomic (s : State) (c : Ctx) (op : AtomOp) (atom : Bool) (m : Mc) (n : DReg) (off : Word) (b cmp : DReg) :
    Except Eff (State × Nat) := do
  let a := c.addr n off
  let w := if m.w64 then 8 else 4
  aligned a.toNat w
  let (pa, t, e) ← s.global c.g.asid a .both (atomType atom op)
  let new (old : Nat) : Option Nat := atomNew op m.w64 m.nsg old (c.operand m.w64 b) (c.operand m.w64 cmp)
  let (s, old) := s.memRmw c.g.core c.g.asid pa t e w new
  .ok (s.ordered c.g.core m (new old).isSome, old)

def execAtom (h : Hdr) (op : AtomOp) (m : Mc) (d n : DReg) (off : Word) (b cmp : DReg) (s : State) :=
  issue (.atom h op m d n off b cmp) s fun c s => Eff.of do
    let (s, old) ← s.atomic c op true m n off b cmp
    .ok (.done s (if m.w64 then toPair d (BitVec.ofNat 64 old) else toD d (BitVec.ofNat 32 old)))

def execRed (h : Hdr) (op : AtomOp) (m : Mc) (n : DReg) (off : Word) (b : DReg) (s : State) :=
  issue (.red h op m n off b) s fun c s => Eff.of do
    let (s, _) ← s.atomic c op false m n off b b
    .ok (.done s [])

/-! ## Scratchpad (R106, R107) -/

/-- A load of scratchpad bytes. -/
def State.ldScratch (s : State) (c : Ctx) (w : LdW) (m : Mc) (d : DReg) (p : Nat × Nat) : Eff :=
  .done (s.ordered c.g.core m false) (dWrites d.toNat (loadWords w (s.scratchRead p.1 p.2 w.bytes)))
/-- A store of scratchpad bytes. -/
def State.stScratch (s : State) (c : Ctx) (w : StW) (m : Mc) (sr : DReg) (p : Nat × Nat) : Eff :=
  .done ((s.scratchWrite p.1 p.2 (storeBytes w c.t sr.toNat)).ordered c.g.core m true) []

def execLds (h : Hdr) (w : LdW) (m : Mc) (d n : DReg) (off : Word) (s : State) :=
  issue (.lds h w m d n off) s fun c s => Eff.of do
    aligned (c.offset n off) w.bytes
    let p ← ownAt c (c.offset n off) w.bytes
    .ok (s.ldScratch c w m d p)
def execSts (h : Hdr) (w : StW) (m : Mc) (n : DReg) (off : Word) (sr : DReg) (s : State) :=
  issue (.sts h w m n off sr) s fun c s => Eff.of do
    aligned (c.offset n off) w.bytes
    let p ← ownAt c (c.offset n off) w.bytes
    .ok (s.stScratch c w m sr p)
def execLdr (h : Hdr) (w : LdW) (m : Mc) (d n : DReg) (off : Word) (s : State) :=
  issue (.ldr h w m d n off) s fun c s => Eff.of do
    aligned (c.offset n off) w.bytes
    let p ← s.remoteAt c (c.offset n off) w.bytes
    .ok (s.ldScratch c w m d p)
def execStr (h : Hdr) (w : StW) (m : Mc) (n : DReg) (off : Word) (sr : DReg) (s : State) :=
  issue (.str h w m n off sr) s fun c s => Eff.of do
    aligned (c.offset n off) w.bytes
    let p ← s.remoteAt c (c.offset n off) w.bytes
    .ok (s.stScratch c w m sr p)

/-! ## Prologue loads as a thread executes them (R167) -/

/-- A pc lies in the prologue that the group performed. -/
def Group.inPrologue (g : Group) (pc : Pc) : Bool := g.prologue.contains pc

def execLdp (h : Hdr) (g : BitVec 6) (k : BitVec 4) (m : BitVec 6) (off : Word) (s : State) :=
  issue (.ldp h g k m off) s fun c s =>
    if s.cur.shortw.isNone && c.g.inPrologue c.t.pc then .done s [] else .trap (FCode.illegalVariant.at 0)

/-! ## Fences and hints -/

/-- FENCE (R172): of kind .acq an acquire, and of the other kinds a release, for the core's L1 (R108, R114). -/
def execFence (h : Hdr) (k : FenceKind) (sc : Scope) (s : State) :=
  issue (.fence h k sc) s fun c s => .done (if k = .acq then s.acquire c.g.core sc else s.clearL1 c.g.core) []

/-- Bytes left on the page of an address. -/
def pageLeft (va : Nat) : Nat := 4096 - va % 4096

/-- The bytes of a range of one page leave a core's L1, with the 64-byte lines they lie in. -/
def State.dropRange (s : State) (core asid : Nat) (va n : Nat) : State :=
  match s.check asid va .read isNormal with
  | .ok pa _ _ => s.dropL1 core (pa / 64 * 64) ((pa + n + 63) / 64 * 64 - pa / 64 * 64)
  | _ => s
/-- A range, page by page. -/
def State.cctl : Nat → State → Nat → Nat → Nat → Nat → State
  | 0, s, _, _, _, _ => s
  | k + 1, s, core, asid, va, n =>
    if n = 0 then s
    else State.cctl k (s.dropRange core asid va (min n (pageLeft va))) core asid (va + min n (pageLeft va)) (n - min n (pageLeft va))

def execCctlRange (h : Hdr) (n l : DReg) (s : State) :=
  issue (.cctlRange h n l) s fun c s =>
    .done (s.cctl ((c.r l).toNat / 4096 + 2) c.g.core c.g.asid (c.rr n).toNat (c.r l).toNat) []
def execCctlAll (h : Hdr) (s : State) := issue (.cctlAll h) s fun c s => .done (s.clearL1 c.g.core) []
/-- PREF (R173): a hint; what an L1 holds is filled and dropped by turns of its own (log entry 6). -/
def execPref (h : Hdr) (n : DReg) (off : Word) (s : State) := issue (.pref h n off) s fun _ s => .done s []

end Sys2Proof.Machine
end

