-- ==== Sys2Proof/Machine/SibInstr.lean ====
section
/-! DEFINITION. Sibling cells and their instructions (R124 to R130, R174 to R178). -/

namespace Sys2Proof.Machine

/-! ## Cells -/

/-- Check(pa) of R125. -/
def sibCheck (pa : Nat) : Word := mix (BitVec.ofNat 32 pa) (BitVec.ofNat 32 (bits pa 51 32)) 0
/-- The token of a cell (R125). -/
def SibCell.token (x : SibCell) : Dword := x.stamp ++ sibCheck x.pa

/-- Entries of the cell's slice that other cells use (R124). -/
def State.sliceUsed (s : State) (pa : Nat) : Nat :=
  ((s.cells.filter fun x => x.pa != pa && s.sliceOf x.pa == s.sliceOf pa).map fun x => x.sibs.length - 1).sum

/-- The cell at an address, as the first sibling operation that reaches it finds it (R124). -/
def State.cellAt (s : State) (pa : Nat) : SibCell :=
  (s.cells.find? fun x => x.pa == pa).getD ⟨pa, 0, 0, [⟨BitVec.ofNat 64 (s.peekNat pa 8), 0, 0xFFFF⟩]⟩
def State.putCell (s : State) (x : SibCell) : State := { s with cells := s.cells.filter (fun y => y.pa != x.pa) ++ [x] }

/-- A sibling operation of a core reaches its cell: the row is activated, and the operation is counted (R214, R331). -/
def State.sibReach (s : State) (core asid pa : Nat) : State :=
  let die := some (core / 48)
  let home := some (s.homeDie pa)
  (((s.overUcie die home (some asid) 8).overUcie home die (some asid) 8).demand (some asid) (rowOf pa)).countHome pa 5 (some asid)

/-- LIMIT of a SIBLING page (R297). -/
def pteLimit (e : Nat) : Nat := 2 ^ (bits e 10 9 + 1)

/-- The checks of a sibling access (R174), and the cell it reaches. -/
def State.sibling (s : State) (c : Ctx) (n : DReg) (need : Need) : Except Eff (State × SibCell × Nat) := do
  let a := c.rr n
  aligned a.toNat 8
  let (pa, _, e) ← s.global c.g.asid a need (· == .sibling)
  let s := s.sibReach c.g.core c.g.asid pa
  let x := s.cellAt pa
  .ok (s.putCell x, x, pteLimit e)

/-- DOMAIN of the writing thread (R124). -/
def Ctx.domain (c : Ctx) : Half := BitVec.ofNat 16 (c.g.core * 8 + c.ref.tid / 32 % 8)

/-- Statuses of R126. -/
def sDONE : Nat := 0
def sMISMATCH : Nat := 1
def sSTALE : Nat := 2
def sFULL : Nat := 3
def sEND : Nat := 4
/-- The sibling status word. -/
def sibWord (count flags status : Nat) : Word := BitVec.ofNat 32 (count * 2 ^ 24 + flags * 2 ^ 8 + status)

/-- The cell after a new sibling with the next stamp. -/
def SibCell.push (x : SibCell) (keep : List Sib) (v : Dword) (dom : Half) : SibCell :=
  { x with stamp := x.stamp + 1, sibs := keep ++ [Sib.mk v (x.stamp + 1) dom] }

/-- R126: the status and the cell after a store; a refused one changes nothing. -/
def SibCell.store (x : SibCell) (limit used : Nat) (v : Dword) (tok : Option Dword) (dom : Half) : SibCell × Nat :=
  if x.stamp = 0xFFFFFFFF then (x, sEND)
  else
    let r : List Sib × Nat := match tok with
      | none => (x.sibs, sMISMATCH)
      | some t =>
        if loWord t ≠ sibCheck x.pa ∨ x.stamp < hiWord t then (x.sibs, sMISMATCH)
        else if hiWord t < x.floor then (x.sibs, sSTALE)
        else (x.sibs.filter fun y => hiWord t < y.stamp, sDONE)
    if r.1.length + 1 > limit || used + r.1.length > 8192 then (x, sFULL) else (x.push r.1 v dom, r.2)

/-- A store is refused (R126). -/
def sibRefused (st : Nat) : Bool := st == sFULL || st == sEND

/-- The store of SST and SST.T: a release pattern, or, refused, an acquire pattern at device scope (R130); the core's L1 keeps nothing
after either (R108, R114). -/
def State.sstStore (s : State) (c : Ctx) (x : SibCell) (limit : Nat) (v : DReg) (tok : Option DReg) : State × SibCell × Nat :=
  let r := x.store limit (s.sliceUsed x.pa) (c.rr v) (tok.map c.rr) c.domain
  let s := if r.2 = sFULL then s.countHome x.pa 6 (some c.g.asid) else s
  ((s.clearL1 c.g.core).putCell r.1, r.1, r.2)

/-! ## RECON (R128) -/

/-- One step of a reconciliation: the result and its flags. -/
def reconStep (op : ReconOp) (ty : ReconTy) (a b : Nat) : Nat × Flags :=
  let int (u : Bool) : Nat := match op with
    | .sum => (a + b) % 2 ^ 64
    | .min => if (if u then decide (b < a) else decide (sgn 64 b < sgn 64 a)) then b else a
    | .max => if (if u then decide (a < b) else decide (sgn 64 a < sgn 64 b)) then b else a
    | .and => a &&& b
    | .or => a ||| b
  let flt (f : FFmt) (a b : Nat) : Nat × Flags := match op with
    | .sum => let r := fltAdd f .rn false a b; (r.bits, r.fl)
    | .max => fltMinMaxNan f true a b
    | _ => fltMinMaxNan f false a b
  match ty with
  | .i64 => (int false, 0)
  | .n64 => (int true, 0)
  | .f64 => flt .f64 a b
  | .f32 =>
    let lo := flt .f32 (a % 2 ^ 32) (b % 2 ^ 32)
    let hi := flt .f32 (a / 2 ^ 32) (b / 2 ^ 32)
    (hi.1 * 2 ^ 32 + lo.1, lo.2 ||| hi.2)

/-- A single sibling's value: a NaN lane becomes the canonical NaN. -/
def reconOne (ty : ReconTy) (a : Nat) : Nat × Flags :=
  match ty with
  | .f64 => canon .f64 a
  | .f32 =>
    let lo := canon .f32 (a % 2 ^ 32)
    let hi := canon .f32 (a / 2 ^ 32)
    (hi.1 * 2 ^ 32 + lo.1, lo.2 ||| hi.2)
  | _ => (a, 0)

/-- r and FLAGS of R128 over the siblings in ascending stamp. -/
def recon (op : ReconOp) (ty : ReconTy) : List Sib → Nat × Flags
  | [] => (0, 0)
  | [a] => reconOne ty a.val.toNat
  | a :: t => t.foldl (fun r b => let q := reconStep op ty r.1 b.val.toNat; (q.1, r.2 ||| q.2)) (a.val.toNat, 0)

/-! ## Instructions

SLD, RECON and RECON.SET are acquire patterns at device scope, refused or not (R130): each empties the core's L1 (R108). -/

def execSld (h : Hdr) (v : BitVec 4) (d n : DReg) (s : State) :=
  issue (.sld h v d n) s fun c s => Eff.of do
    let (s, x, limit) ← s.sibling c n .read
    let s := s.clearL1 c.g.core
    let vals := (List.range v.toNat).flatMap fun k =>
      let y := ((x.sibs[k]?).map Sib.val).getD 0
      [loWord y, hiWord y]
    .ok (.done s (dWrites d.toNat (vals ++ [loWord x.token, hiWord x.token,
      BitVec.ofNat 32 (x.sibs.length * 2 ^ 24 + limit * 2 ^ 16)])))

def execSst (h : Hdr) (sr n v : DReg) (tok : Option DReg) (s : State) :=
  issue (.sst h sr n v tok) s fun c s => Eff.of do
    let (s, x, limit) ← s.sibling c n .both
    let (s, x, st) := s.sstStore c x limit v tok
    .ok (.done s (toD sr (sibWord x.sibs.length 0 st)))

def execSstT (h : Hdr) (sr n v : DReg) (tok : Option DReg) (s : State) :=
  issue (.sstT h sr n v tok) s fun c s => Eff.of do
    let (s, x, limit) ← s.sibling c n .both
    let (s, x, st) := s.sstStore c x limit v tok
    let w := sibWord x.sibs.length 0 st
    if sibRefused st then .ok (.trapIn s ⟨.sibFull, w, 0, c.rr n⟩) else .ok (.done s (toD sr w))

def execRecon (h : Hdr) (op : ReconOp) (ty : ReconTy) (d n : DReg) (s : State) :=
  issue (.recon h op ty d n) s fun c s => Eff.of do
    let (s, x, _) ← s.sibling c n .both
    let s := s.clearL1 c.g.core
    if x.stamp = 0xFFFFFFFF then .ok (.done s (dWrites (d.toNat + 4) [sibWord x.sibs.length 0 sEND]))
    else
      let r := recon op ty x.sibs
      let y := x.push [] (BitVec.ofNat 64 r.1) c.domain
      let v := BitVec.ofNat 64 r.1
      .ok (.done (s.putCell y) (dWrites d.toNat [loWord v, hiWord v, loWord y.token, hiWord y.token, sibWord 1 r.2.toNat sDONE] ++
        toFlags h r.2))

def execReconSet (h : Hdr) (sr n v t : DReg) (s : State) :=
  issue (.reconSet h sr n v t) s fun c s => Eff.of do
    let (s, x, _) ← s.sibling c n .both
    let s := s.clearL1 c.g.core
    let tok := c.rr t
    let word (x : SibCell) (st : Nat) : List Write := toD sr (sibWord x.sibs.length 0 st)
    if x.stamp = 0xFFFFFFFF then .ok (.done s (word x sEND))
    else if loWord tok ≠ sibCheck x.pa then .ok (.done s (word x sMISMATCH))
    else if hiWord tok ≠ x.stamp then .ok (.done s (word x sSTALE))
    else
      let y := x.push [] (c.rr v) c.domain
      .ok (.done (s.putCell y) (word y sDONE))

end Sys2Proof.Machine
end

