-- ==== Sys2Proof/Machine/RowInstr.lean ====
section
/-! DEFINITION. Row functions: registration, requests, joins, queries and cancels (R207 to R224), and the acceptance of a
function by a bank (R214). -/

namespace Sys2Proof.Machine

/-! ## Registration (R212, R213, R220) -/

/-- The fields of a row descriptor (R212). -/
structure RowDesc where
  base : Nat
  len : Nat
  prog : Nat
  cword : Nat
  deriving DecidableEq, Repr

def RowDesc.ofNat (w : Nat) : RowDesc := ⟨bits w 63 0, bits w 95 64, bits w 191 128, bits w 255 192⟩

/-- The conditions of ROW_REGION (R220). -/
def badDesc (request : Bool) (w : Nat) : Bool :=
  let d := RowDesc.ofNat w
  d.base % 1024 != 0 || d.len == 0 || d.len % 1024 != 0 || d.len > 2 ^ 28 || bits w 127 96 != 0 || d.prog % 128 != 0 ||
  d.cword % 8 != 0 || (request && d.len != 1024)

/-- The rows of a range of 1 KiB chunks, each translated for writing to a ROW page, in ascending order (R208). The addresses of a
range that passes 2^64 go on from 0, as those of every address sum do (DESIGN CHOICE, log entry 81: R220 does not say). -/
def State.rangeRows (s : State) (asid : Nat) : Nat → Nat → Except Eff (List Nat)
  | _, 0 => .ok []
  | va, n + 1 => do
    let (pa, _, _) ← s.global asid (BitVec.ofNat 64 va) .write (· == .row)
    let rest ← State.rangeRows s asid (va + 1024) n
    .ok (rowOf pa :: rest)

/-- Registration slots in use in a stack, and request entries in a bank (R213). -/
def State.slotsUsed (s : State) (stack : Nat) : Nat :=
  s.rowFns.countP fun f => !f.request && f.rows.any fun r => s.stackOf r == stack
def State.entriesUsed (s : State) (bank : Nat) : Nat :=
  s.rowFns.countP fun f => f.request && f.rows.any fun r => s.bankOf r == bank
/-- BUSY of R213. -/
def State.rowBusy (s : State) (request : Bool) (rows : List Nat) : Bool :=
  if request then rows.any fun r => s.entriesUsed (s.bankOf r) ≥ 32 else rows.any fun r => s.slotsUsed (s.stackOf r) ≥ 256

/-- The words of an image, and whether a byte beyond K1 is not 0 (R226). -/
def imageWords (img : List Byte) : List Nat := (List.range 16).map fun k => leNat ((img.drop (4 * k)).take 4)
def imagePad (img : List Byte) : Bool := (img.drop 72).any fun b => b != 0

/-- A word that is neither 0 nor used, looked for upwards from a first one. -/
def freshWord : Nat → Word → List Word → Word
  | 0, w, _ => w
  | k + 1, w, used => if w = 0 ∨ w ∈ used then freshWord k (w + 1) used else w
/-- The handle assigned to a new function of a job (R217): a free value, unused in the job. -/
def State.rowName (s : State) (asid : Nat) : Word :=
  let used := (s.rowFns.filter fun f => f.asid == asid).map RowFn.name
  freshWord (used.length + 1) (Config.rowHandle s.nextHandle) used

/-- What a descriptor and an image become. -/
def RowFn.make (handle : Nat) (name : Word) (asid grp : Nat) (request : Bool) (img : List Byte) (cword : Option Nat)
    (banks rows : List Nat) : RowFn where
  handle := handle
  name := name
  asid := asid
  grp := grp
  request := request
  words := (imageWords img).map (BitVec.ofNat 32)
  k0 := BitVec.ofNat 32 (leNat ((img.drop 64).take 4))
  k1 := BitVec.ofNat 32 (leNat ((img.drop 68).take 4))
  cword := cword
  banks := banks
  rows := rows
  poisoned := 0
  flags := 0
  cancelled := false
  done := none
  later := 0

/-- ROWREG and ROWREQ (R220): the thread is held until every covering bank has accepted the function. -/
def State.register (s : State) (c : Ctx) (request : Bool) (d n : DReg) : Except Eff Eff := do
  let a := c.rr n
  let asid := c.g.asid
  aligned a.toNat 32
  let (pa, _, _) ← s.global asid a .read isNormal
  let (s, bs) := s.readFor c.g.core asid pa 32
  if badDesc request (leNat bs) then trapAt .rowRegion a.toNat
  else
    let x := RowDesc.ofNat (leNat bs)
    let rows ← s.rangeRows asid x.base (x.len / 1024)
    let (pi, _, _) ← s.global asid (BitVec.ofNat 64 x.prog) .read isNormal
    let cw ← if x.cword = 0 then pure none else do
      let (pw, _, _) ← s.global asid (BitVec.ofNat 64 x.cword) .write isNormal
      pure (some pw)
    let (s, img) := s.readFor c.g.core asid pi 128
    let s := s.clearL1 c.g.core
    let status (v : Nat) : Eff := .done s (dWrites d.toNat [BitVec.ofNat 32 v, 0])
    match rowValidate (imagePad img) 0 false (imageWords img) with
    | some (reason, ix) => .ok (status (2 + 256 * ix + 65536 * reason))
    | none =>
      let rows := rows.dedup
      if s.rowBusy request rows then .ok (status 1)
      else
        let f := RowFn.make s.nextHandle (s.rowName asid) asid c.ref.grp request img cw (rows.map s.bankOf).dedup rows
        let s := { s with rowFns := s.rowFns ++ [f], nextHandle := s.nextHandle + 1 }
        .ok (.raw (s.block c.ref (.rowFn f.handle d.toNat) c.next))

def execRowreg (h : Hdr) (d n : DReg) (s : State) :=
  issue (.rowreg h d n) s fun c s => Eff.of (s.register c false d n)
def execRowreq (h : Hdr) (d n : DReg) (s : State) :=
  issue (.rowreq h d n) s fun c s => Eff.of (s.register c true d n)

/-- ROW_REACH_BANK (R214): a bank accepts a function, whose applications to the bank's rows join the row order (R133). -/
def State.reachBank (s : State) (fn bank : Nat) : State :=
  match s.rowFns.find? fun f => f.handle == fn && f.banks.contains bank with
  | none => s
  | some f =>
    let left := f.banks.filter (· != bank)
    let s := { s with
      rowFns := s.rowFns.map fun (g : RowFn) => if g.handle = fn then { g with banks := left } else g
      rowApps := s.rowApps ++ ((f.rows.filter fun r => s.bankOf r == bank).map fun r => (r, fn)) }
    if left.isEmpty then s.rowAccepted f else s
def execRowReachBank (fn bank : Nat) (s : State) := event s fun s => s.reachBank fn bank

/-! ## Join, query, cancel (R222 to R224) -/

/-- A function of a job by its handle. -/
def State.rowFn (s : State) (asid : Nat) (h : Word) : Option RowFn := s.rowFns.find? fun f => f.asid == asid && f.name == h

def execRowwait (h : Hdr) (d a : DReg) (s : State) :=
  issue (.rowwait h d a) s fun c s =>
    match s.rowFn c.g.asid (c.r a) with
    | none => .done s (toPair d 2)
    | some f =>
      match f.done with
      | some p => .done (s.clearL1 c.g.core) (toPair d p)
      | none => .pend s (.row f.handle)

/-- The quad of R223 for a row; on a poisoned row no application is pending (R132, R210). -/
def State.rowQuad (s : State) (row : Nat) : List Word :=
  [BitVec.ofNat 32 (((s.sweep.find? fun p => p.1 == s.bankOf row).map Prod.snd).getD 0),
   BitVec.ofNat 32 (s.stackOf row * 2 ^ 26 + row % 32 * 2 ^ 21 + bits row (10 + s.stackBits) (5 + s.stackBits) * 2 ^ 15 + s.rowIndex row),
   BitVec.ofNat 32 (if s.poisoned.contains row then 0 else s.rowApps.countP fun x => x.1 == row),
   s.mgmt.periods.getD (s.stackOf row) 0]

def execRowqry (h : Hdr) (d n : DReg) (s : State) :=
  issue (.rowqry h d n) s fun c s => Eff.of do
    let (pa, _, _) ← s.global c.g.asid (c.rr n) .read (· == .row)
    .ok (.done s (dWrites d.toNat (s.rowQuad (rowOf pa))))

def execRowcancel (h : Hdr) (d a : DReg) (s : State) :=
  issue (.rowcancel h d a) s fun c s =>
    let s := s.clearL1 c.g.core
    match s.rowFn c.g.asid (c.r a) with
    | none => .done s (toD d 2)
    | some f =>
      if f.done.isSome then .done s (toD d 1)
      else .done (s.cancelRows fun x => x.handle == f.handle) (toD d 0)

/-! ## The sweep (R209) -/

/-- A bank's POS. -/
def State.posOf (s : State) (bank : Nat) : Nat := ((s.sweep.find? fun p => p.1 == bank).map Prod.snd).getD 0
def State.setPos (s : State) (bank pos : Nat) : State :=
  { s with sweep := (if pos = 0 then [] else [(bank, pos)]) ++ s.sweep.filter fun p => p.1 != bank }

/-- SWEEP_VISIT: the row at POS is restored, and POS advances. -/
def State.sweepVisit (s : State) (bank : Nat) : State :=
  if bank ≥ 2 ^ (11 + s.stackBits) then s
  else
    let pos := s.posOf bank
    let row := pos * 2 ^ (11 + s.stackBits) + bank
    let s := s.countStack (s.stackOf row) 2 none 1
    (State.activate (s.rowApps.length + 1) s none row).setPos bank ((pos + 1) % 32768)
def execSweepVisit (bank : Nat) (s : State) := event s fun s => s.sweepVisit bank

/-- FLOOR_RAISE (R127): while the slice has fewer than 1 024 free entries, φ rises to a value no greater than σ. -/
def State.floorRaise (s : State) (pa : Nat) (floor : Word) : State :=
  match s.cells.find? fun x => x.pa == pa with
  | none => s
  | some x =>
    if s.sliceUsed pa + (x.sibs.length - 1) > 7168 && x.floor ≤ floor && floor ≤ x.stamp
    then { s with cells := s.cells.map fun (y : SibCell) => if y.pa = pa then { y with floor } else y }
    else s
def execFloorRaise (pa : Nat) (floor : Word) (s : State) := event s fun s => s.floorRaise pa floor

end Sys2Proof.Machine
end

