-- ==== Sys2Proof/Machine/LaunchInstr.lean ====
section
/-! DEFINITION. LAUNCH, CNT.WAIT, CANCEL and TAPE.PUSH (R198 to R200, R290). -/

namespace Sys2Proof.Machine

/-! ## Status bytes of R198 -/

def lBUSY : Nat := 1
def lREFUSED (reason : Nat) : Nat := 2 + 256 * reason
def lSELF : Nat := 5
def lUNKNOWN : Nat := 6
def lPENDING : Nat := 7
def lALREADY : Nat := 8
def lTAPEFULL : Nat := 9
def lNOTAPE : Nat := 10

/-- The 128 bytes of a launch record at a thread's address (R199). LAUNCH and TAPE.PUSH are releases, after which the core's L1 keeps
nothing (R114, R123, R206). -/
def State.recordBytes (s : State) (c : Ctx) (n : DReg) : Except Eff (State × List Byte) := do
  let a := c.rr n
  aligned a.toNat 128
  let (pa, _, _) ← s.global c.g.asid a .read isNormal
  let (s, bs) := s.readFor c.g.core c.g.asid pa 128
  .ok (s.clearL1 c.g.core, bs)

/-- A refused record is counted (R331). -/
def State.refused (s : State) (asid : Nat) : State := s.countHub 2 (some asid) 1

/-- The job has used all 2^32 identifiers, which are never used again (R199). -/
def Job.spent (j : Job) : Bool := j.nextId > 2 ^ 32

/-- LAUNCH (R199). It is BUSY for want of an identifier alone: R198 answers BUSY where a launch could not be accepted now, and the spec
gives the hub no other limit (DESIGN CHOICE, log entry 26). -/
def execLaunch (h : Hdr) (d n : DReg) (s : State) :=
  issue (.launch h d n) s fun c s => Eff.of do
    let (s, bs) ← s.recordBytes c n
    let r := LaunchRec.ofBytes bs
    let result (s : State) (st id : Nat) : Eff := .done s (dWrites d.toNat [BitVec.ofNat 32 st, BitVec.ofNat 32 id])
    match s.recordReason c.g.asid r false with
    | some reason => .ok (result (s.refused c.g.asid) (lREFUSED reason) 0)
    | none =>
      if (s.job c.g.asid).any Job.spent then .ok (result s lBUSY 0)
      else
        let (s, id) := s.accept c.g.asid r .instr none none
        .ok (result s 0 id)

/-! ## Instances -/

/-- The launch of a thread; a handler group belongs to none. -/
def State.ownLaunch (s : State) (g : Group) : Option Launch :=
  if g.handler.isSome then none else s.launch? g.asid g.launch

/-- An instance as CNT.WAIT and CANCEL resolve it: a launch's identifier, the serial number of a graph or phase, or the
job. -/
inductive Named where
  | launch (id : Nat)
  | inst (serial : Nat)
  | job
  deriving DecidableEq, Repr

/-- The most recent instance of the thread's job that a level and an identifier name (R200, R285). -/
def State.named (s : State) (asid : Nat) (lvl : Lvl) (id : Nat) : Option Named :=
  match lvl with
  | .launch => (s.launch? asid id).map fun l => .launch l.id
  | .graph => (s.inst? asid false id).map fun i => .inst i.serial
  | .phase => (s.inst? asid true id).map fun i => .inst i.serial
  | .job => if id = asid then some .job else none

/-- The instance contains the thread. -/
def State.contains (s : State) (g : Group) : Named → Bool
  | .launch id => (s.ownLaunch g).any fun l => l.id == id
  | .inst n => (s.ownLaunch g).any fun l => l.graph == some n || l.phase == some n
  | .job => true

/-- The instance's status once it is complete. -/
def State.statusOf (s : State) (asid : Nat) : Named → Option CStat
  | .launch id => (s.launch? asid id).bind Launch.status
  | .inst n => (s.insts.find? fun i => i.serial == n).bind Inst.status
  | .job => none

/-- The number that a waiting thread keeps of its instance. -/
def Named.key : Named → Nat
  | .launch id => id
  | .inst n => n
  | .job => 0
def Named.ofKey (lvl : Lvl) (k : Nat) : Named :=
  match lvl with
  | .launch => .launch k
  | .job => .job
  | _ => .inst k

/-- The instance a thread named before it began to wait. -/
def Thread.waitsFor (t : Thread) (lvl : Lvl) : Option Named :=
  match t.held, t.status with
  | some _, .blocked (.counter l k) _ => if l = lvl then some (.ofKey lvl k) else none
  | _, _ => none

def execCntWait (h : Hdr) (lvl : Lvl) (tr : Bool) (d : DReg) (a : Src) (s : State) :=
  issue (.cntWait h lvl tr d a) s fun c s =>
    let word (s : State) (v : Nat) : Eff := .done s (toD d (BitVec.ofNat 32 v))
    match (c.t.waitsFor lvl).orElse fun _ => s.named c.g.asid lvl (c.w a).toNat with
    | none => word s lUNKNOWN
    | some x =>
      if s.contains c.g x then word s lSELF
      else match s.statusOf c.g.asid x with
        | some st => word (s.clearL1 c.g.core) st.code
        | none => if tr then word s lPENDING else .poll (.counter lvl x.key)

/-- A graph or phase is cancelled: its launches, and the tape of a phase in tape mode (R289). It completes now when nothing of it
is left (R288). -/
def State.cancelInst (s : State) (asid serial : Nat) : State :=
  let tape := s.insts.any fun i => i.serial == serial && i.tapeMode
  let s := { s with insts := s.insts.map fun (i : Inst) => if i.serial = serial then { i with cancelled := true } else i }
  let s := if tape then s.setJob asid fun j => { j with tapeN := 0 } else s
  ((s.launches.filter fun l => l.asid == asid && (l.graph == some serial || l.phase == some serial)).foldl
    (fun s l => s.cancelLaunch asid l.id) s).updateInsts

/-- A cancel begins (R289, R308). -/
def State.cancel (s : State) (asid : Nat) : Named → State
  | .launch id => s.cancelLaunch asid id
  | .inst n => s.cancelInst asid n
  | .job => s.jobStop asid .cancel (List.replicate 64 0)

def execCancel (h : Hdr) (lvl : Lvl) (d : DReg) (a : Src) (s : State) :=
  issue (.cancel h lvl d a) s fun c s =>
    let word (v : Nat) : List Write := toD d (BitVec.ofNat 32 v)
    match s.named c.g.asid lvl (c.w a).toNat with
    | none => .done s (word lUNKNOWN)
    | some x =>
      if (s.statusOf c.g.asid x).isSome then .done s (word lALREADY)
      else .raw ((s.setThr c.ref fun t => t.complete c.next (word 0)).cancel c.g.asid x)

/-! ## TAPE.PUSH (R290) -/

/-- A thread's launch belongs to a phase in tape mode that has not begun replay. A cancelled phase that is still open is one: a launch
accepted into it then pushes, and its records stay on the job's tape, which that phase never replays (DESIGN CHOICE, log entry 96:
R289 and R290 do not say). -/
def State.tapePhase (s : State) (g : Group) : Bool :=
  match (s.ownLaunch g).bind Launch.phase with
  | none => false
  | some n => s.insts.any fun i => i.serial == n && i.tapeMode && !i.replay

def execTapePush (h : Hdr) (d n : DReg) (s : State) :=
  issue (.tapePush h d n) s fun c s => Eff.of do
    let (s, bs) ← s.recordBytes c n
    let word (s : State) (v : Nat) : Eff := .done s (toD d (BitVec.ofNat 32 v))
    match s.recordReason c.g.asid (LaunchRec.ofBytes bs) false, s.job c.g.asid with
    | some reason, _ => .ok (word (s.refused c.g.asid) (lREFUSED reason))
    | none, none => .ok (word s lNOTAPE)
    | none, some j =>
      if !s.tapePhase c.g then .ok (word s lNOTAPE)
      else if j.tapeN ≥ j.desc.tapecap then .ok (word s lTAPEFULL)
      else
        let s := s.homeWrite (some c.g.asid) (j.desc.tape + 128 * j.tapeN) bs
        .ok (word (s.setJob c.g.asid fun j => { j with tapeN := j.tapeN + 1 }) 0)

end Sys2Proof.Machine
end

