-- ==== Sys2Proof/Machine/Move.lean ====
section
/-! DEFINITION. Moves, special registers and predicates (R158 to R161). -/

namespace Sys2Proof.Machine

def execMov (h : Hdr) (w : Bool) (d : DReg) (a : Src) (s : State) :=
  regOp (.mov h w d a) s fun c => if w then toPair d (c.l a) else toD d (c.w a)
def execMovi (h : Hdr) (w : Bool) (d : DReg) (v : BitVec 64) (s : State) :=
  regOp (.movi h w d v) s fun _ => if w then toPair d v else toD d (v.extractLsb' 0 32)

/-- The value of a special register (R21, R159). -/
def sregVal (r : SReg) (c : Ctx) (s : State) : Dword :=
  match r with
  | .tid => BitVec.ofNat 64 c.ref.tid
  | .gid => BitVec.ofNat 64 c.g.gid
  | .nthreads => BitVec.ofNat 64 c.g.nthreads
  | .cid => BitVec.ofNat 64 c.g.cid
  | .core => BitVec.ofNat 64 c.g.core
  | .part => BitVec.ofNat 64 (c.ref.tid / 32 % 8)
  | .fstat => c.t.fstat.setWidth 64
  | .fmode => c.t.fmode.setWidth 64
  | .cyc => (s.core c.g.core).cyc
  | .stk => c.g.stk c.ref.tid
  | .job => BitVec.ofNat 64 c.g.asid
  | .launch => BitVec.ofNat 64 c.g.launch

def execSread (h : Hdr) (d : DReg) (r : SReg) (s : State) :=
  issue (.sread h d r) s fun c s =>
    let v := sregVal r c s
    .done s (if r.wide then toPair d v else toD d (loWord v))

/-- %fmode after a write: RMODE 4 to 7 stores 0 (R22). -/
def fmodeOf (v : Word) : BitVec 4 := if bits v.toNat 2 0 ≥ 4 then BitVec.ofNat 4 (8 * b2n (v.getLsbD 3)) else v.extractLsb' 0 4

def execSwrite (h : Hdr) (r : SReg) (a : Src) (s : State) :=
  issue (.swrite h r a) s fun c s =>
    match r with
    | .fstat => .done s [.reg .fstat (c.w a)]
    | .fmode => .done (s.setThr c.ref fun t => { t with fmode := fmodeOf (c.w a) }) []
    | _ => .trap (FCode.illegalVariant.at 0)

/-- A byte of BMIX (R160). -/
def mixByte (x : Nat) (f : Nat) : Nat :=
  let y := bits x (8 * (f % 8) + 7) (8 * (f % 8))
  match bits f 5 4 with
  | 0 => if bit f 3 then revBits 8 y else y
  | 1 => 0
  | 2 => 0xFF
  | _ => if bit y 7 then 0xFF else 0
/-- BMIX (R160): bytes x[0] to x[7] are those of A, then B. -/
def bmix (a b k : Word) : Word :=
  let x := b.toNat * 2 ^ 32 + a.toNat
  let f (i : Nat) : Nat := mixByte x (bits k.toNat (8 * i + 7) (8 * i)) * 2 ^ (8 * i)
  BitVec.ofNat 32 (f 0 + f 1 + f 2 + f 3)
def execBmix (h : Hdr) (d : DReg) (a b k : Src) (s : State) :=
  regOp (.bmix h d a b k) s fun c => toD d (bmix (c.w a) (c.w b) (c.w k))

def execPset (h : Hdr) (z : Bool) (q : QReg) (a b : Src) (s : State) :=
  regOp (.pset h z q a b) s fun c => [predWrite q ((c.w a &&& c.w b != 0) != z)]

def plop (op : POp) (a b : Bool) : Bool :=
  match op with
  | .and => a && b
  | .or => a || b
  | .xor => a != b
  | .not => !a
def execPlop (h : Hdr) (op : POp) (na nb : Bool) (q qa qb : QReg) (s : State) :=
  regOp (.plop h op na nb q qa qb) s fun c => [predWrite q (plop op (c.q qa != na) (c.q qb != nb))]

end Sys2Proof.Machine
end

