-- ==== Sys2Proof/Machine/System.lean ====
section
/-! DEFINITION. Traps raised by instructions (R201, R202), the instructions of handler groups (R305, R310, R311), TLBINV (R312)
and GSWAP (R313). -/

namespace Sys2Proof.Machine

def execTrap (h : Hdr) (code : Half) (s : State) :=
  issue (.trap h code) s fun _ _ => .trap (FCode.trap.detail code.toNat 0)

/-- ASSERT (R202, R337): DETAIL holds n, ADDR the message pointer; taking it stops the job. -/
def execAssert (h : Hdr) (n : DReg) (code : Half) (s : State) :=
  issue (.assert h n code) s fun c _ => .trap ⟨.assert, code.setWidth 32, 0, c.rr n⟩

/-! ## Handler groups -/

/-- The record that a group serves. -/
def State.served (s : State) (g : Group) : Option Trap := g.handler.bind fun id => s.traps.find? fun t => t.id == id
def State.endTrap (s : State) (id : Nat) : State :=
  { s with traps := s.traps.map fun (t : Trap) => if t.id = id then { t with ended := true } else t }

/-- Groups counted complete without running, their parked accesses abandoned (R306). -/
def State.passGroups (s : State) (gs : List Nat) : State :=
  let s := { s with parked := s.parked.filter fun p => !p.who.ofGroups gs s }
  gs.foldl (fun s gi => s.setGrp gi fun g => { g with status := .done }) s

/-- The swapped-out groups of the cluster that a QUOTA record names: those of it that have completed are counted already. -/
def State.quotaGroups (s : State) (x : Trap) : List Nat :=
  match s.groups.find? fun g => g.asid == x.asid && g.launch == x.tr.launch.toNat && g.gid == x.quotaGid && g.status == .swapped with
  | some g => g.cluster.filter fun gi => (s.groups[gi]?).any fun x => x.status == .swapped
  | none => []

/-- RESUME.SKIP of a QUOTA record: the group is counted complete, with the cluster it would be placed with (R31, R306). While the record
was open the cluster was not placed (State.quotaHeld). -/
def State.quotaSkip (s : State) (x : Trap) : State :=
  let lid := x.tr.launch.toNat
  match s.launch? x.asid lid, s.quotaGroups x with
  | none, _ => s
  | some l, [] =>
    let n := 2 ^ l.lr.csize
    if l.nextGid != x.quotaGid then s else
    s.setLaunch x.asid lid fun l => { l with nextGid := l.nextGid + n, doneGroups := l.doneGroups + n }
  | some _, gs =>
    (s.passGroups gs).setLaunch x.asid lid fun l => { l with doneGroups := l.doneGroups + gs.length }

/-- A group is starting. -/
def Group.starting (g : Group) : Bool := match g.status with | .starting _ => true | _ => false

/-- The thread of a record is released (R310): an acquire for its core. -/
def State.release (s : State) (x : Trap) (skip : Bool) : State :=
  match x.thread with
  | none => if skip then s.quotaSkip x else s
  | some r =>
    match s.groups[r.grp]? with
    | none => s
    | some g =>
      let s := s.clearL1 g.core
      if g.starting then s.resumeStart x r skip else s.resumeThread x skip

/-- The thread that executed RESUME or KILL ends, as the handler of the spec's trace does (log entry 22). -/
def State.leave (s : State) (c : Ctx) : State :=
  if (s.thr c.ref).any Thread.live then (s.setThr c.ref fun t => { t with pc := c.next }).exitThread c.ref else s

/-- RESUME and KILL in a handler group: the first of them ends its record; they are no instructions of any other group. RESUME is a
release of its thread, which has no later read here (R310). -/
def State.endRecord (s : State) (c : Ctx) (f : State → Trap → State) : Eff :=
  if c.g.handler.isNone then .trap (FCode.illegalVariant.at 0)
  else .raw <| State.leave (c := c) <| match s.served c.g with
    | none => s
    | some x => if x.ended then s else f (s.endTrap x.id) x

def execResumeRetry (h : Hdr) (s : State) :=
  issue (.resumeRetry h) s fun c s => s.endRecord c fun s x => s.release x false
def execResumeSkip (h : Hdr) (s : State) :=
  issue (.resumeSkip h) s fun c s => s.endRecord c fun s x => s.release x true
def execKill (h : Hdr) (s : State) :=
  issue (.kill h) s fun c s => s.endRecord c fun s x => s.jobStop x.asid .kill x.tr.bytes

/-! ## System registers (R311) -/

/-- A feature register or core map by its number. -/
def State.devReg (s : State) (n : Nat) : Option Word :=
  if 0x200 ≤ n ∧ n ≤ 0x203 then some (s.feat (n - 0x200))
  else if 0x210 ≤ n ∧ n ≤ 0x215 then some (s.cmap (n - 0x210))
  else none

/-- A thread-state register of an interrupted thread. -/
def Thread.sysRead (t : Thread) (n : Nat) : Option Word :=
  if n < 0x100 then t.d[n]?
  else match n with
    | 0x100 => some (BitVec.ofNat 32 (128 + t.q.toNat % 128))
    | 0x101 => some (t.fstat.setWidth 32)
    | 0x102 => some (t.fmode.setWidth 32)
    | 0x103 => some (BitVec.ofNat 32 t.depth)
    | 0x104 => some (t.pc.extractLsb' 0 32)
    | 0x105 => some ((t.pc.extractLsb' 32 25).setWidth 32)
    | _ => none
def Thread.sysWrite (t : Thread) (n : Nat) (v : Word) : Option Thread :=
  if n < 0x100 then (if n < t.d.length then some { t with d := t.d.set n v } else none)
  else match n with
    | 0x100 => some { t with q := (v.extractLsb' 0 8 &&& 0x7F) ||| (t.q &&& 0x80) }
    | 0x101 => some { t with fstat := v.extractLsb' 0 5 }
    | 0x102 => some { t with fmode := fmodeOf v }
    | _ => none

/-- What SRD and SWR of a thread-state number find: no such state for this group, an interrupted thread, or a record that has
ended, of whose thread the rules say nothing more. -/
inductive Saved where
  | refused
  | thread (r : ThreadRef) (t : Thread)
  | ended
  deriving DecidableEq, Repr

/-- What a handler group's record says of thread state. A QUOTA record interrupts no thread: there SRD and SWR of a thread-state number
raise ILLEGAL_VARIANT (DESIGN CHOICE, log entry 93: R311 does not say). -/
def State.saved (s : State) (g : Group) : Saved :=
  match s.served g with
  | none => .refused
  | some x =>
    match x.thread with
    | some r => if x.ended then .ended else (match s.thr r with | some t => .thread r t | none => .refused)
    | none => if x.ended && x.tr.info.code != .quota then .ended else .refused

def execSrd (h : Hdr) (d : DReg) (b : Src) (s : State) :=
  issue (.srd h d b) s fun c s =>
    let n := (c.w b).toNat
    match s.devReg n with
    | some v => .done s (toD d v)
    | none =>
      match s.saved c.g with
      | .refused => .trap (FCode.illegalVariant.at 0)
      | .thread _ t =>
        match t.sysRead n with
        | some v => .done s (toD d v)
        | none => .trap (FCode.illegalVariant.at 0)
      | .ended =>
        if n ≤ 0x105 then .done { s with nextSerial := s.nextSerial + 1 } (toD d (Config.endedRead s.nextSerial))
        else .trap (FCode.illegalVariant.at 0)

def execSwr (h : Hdr) (b : Src) (a : DReg) (s : State) :=
  issue (.swr h b a) s fun c s =>
    let n := (c.w b).toNat
    match s.saved c.g with
    | .refused => .trap (FCode.illegalVariant.at 0)
    | .thread r t =>
      match t.sysWrite n (c.r a) with
      | some t => .done (s.setThr r fun _ => t) []
      | none => .trap (FCode.illegalVariant.at 0)
    | .ended => if n ≤ 0x102 then .done s [] else .trap (FCode.illegalVariant.at 0)

/-! ## Translation and swap -/

def execTlbinvAll (h : Hdr) (s : State) :=
  issue (.tlbinvAll h) s fun c s => .done ((s.dropTlb c.g.asid none).clearL1 c.g.core) []
def execTlbinvPage (h : Hdr) (n : DReg) (s : State) :=
  issue (.tlbinvPage h n) s fun c s => .done ((s.dropTlb c.g.asid (some (c.rr n).toNat)).clearL1 c.g.core) []
def execGswap (h : Hdr) (d : DReg) (k : BitVec 4) (s : State) :=
  issue (.gswap h d k) s fun c s => s.sign c (.gswap h d k) k.toNat [] false

end Sys2Proof.Machine
end

