-- ==== Sys2Proof/Machine/Sched.lean ====
section
/-! DEFINITION. The picker (R33 to R38), results that arrive (R61), and group swap (R39, R40, R73, R291 to R295, R313). -/

namespace Sys2Proof.Machine

/-! ## Ready threads (R33) -/

/-- The wait of a thread that holds its instruction to execute it again is over. -/
def State.pollReady (s : State) (g : Group) (t : Thread) : Bool :=
  match t.status, t.held with
  | .blocked (.fault _ _ _) _, _ => !t.pending
  | .blocked w _, some h =>
    match w with
    | .again c tid => (g.cvs[c]?.map fun v => !(v.pend && v.signed.getLsbD tid)).getD false
    | .results => !(t.windows.any fun w => !w.res.resolved && w.dset.contains (.q (h.insn.extractLsb' 8 3).toNat))
    | .counter lvl k => (s.statusOf g.asid (.ofKey lvl k)).isSome
    | .arrival gi off => arvComplete (s.arvWord (gi, off))
    | .grammar ids => g.gram.all fun o => !ids.contains o.id || o.res.isSome
    | _ => false
  | _, _ => false

/-- A thread can issue: ready, or at the end of such a wait. R33's "frozen by pre-emption" is no condition here: no rule defines a
freeze apart from swap-out, and the model reads it as the pickers' waiting for the swap-out of a group that is due for it
(State.swapsFirst; DESIGN CHOICE, log entry 76). -/
def State.ready (s : State) (g : Group) (t : Thread) : Bool := g.status == .running && (t.free || s.pollReady g t)

/-- The partition of a thread (R27). -/
def partOf (tid : Nat) : Nat := tid / 32 % 8

/-- Threads of a kernel on a partition of a core that satisfy a test, in ascending (%gid, %tid). -/
def State.kernelThreads (s : State) (core part asid lid : Nat) (p : Group → Thread → Bool) : List ThreadRef :=
  (List.range s.groups.length).flatMap fun gi =>
    match s.groups[gi]? with
    | none => []
    | some g =>
      if g.core == core && g.resident && g.asid == asid && g.launch == lid then
        ((List.range g.threads.length).filter fun t => partOf t == part &&
          match g.threads[t]? with | some th => p g th | none => false).map fun t => ⟨gi, t⟩
      else []
/-! ## When a cluster is to be swapped out (R40, R291, R294, R313) -/

/-- QUANTUM_EXPIRY: Q runs on each partition on which the group has threads. A partition on which all of them have exited counts
no longer: it would receive no run of the group again (DESIGN CHOICE, log entry 78: R40 does not say). -/
def Group.expired (g : Group) : Bool :=
  g.status == .running && g.handler.isNone && g.quant != 0 &&
  (List.range 8).all fun p =>
    !((List.range g.threads.length).any fun t => partOf t == p && g.live t) || g.quanta.getD p 0 ≥ g.quant

/-- Eligible for swap-out (R40): from the run that completes its quantum on, whether QUANTUM_EXPIRY has marked it or not. -/
def Group.eligible (g : Group) : Bool := g.swapReady || g.expired

/-- A thread of the group is in a gang. -/
def State.inRun (s : State) (gi : Nat) (g : Group) : Bool :=
  (s.core g.core).ctxs.any fun x => x.any fun r => (r.primary.threads ++ r.secondary.threads).any fun t => t.grp == gi

/-- Bytes of the swap area that a group takes in the model (log entry 21): registers, thread state, scratchpad, accumulator
rows and weight slots, and the group's own registers. -/
def Group.saveBytes (g : Group) : Nat := g.regBytes + 128 * g.nthreads + g.scratchLen + 1024 * g.accRows + 4096
def State.swapUsed (s : State) (asid : Nat) : Nat :=
  ((s.groups.filter fun g => g.asid == asid && g.status == .swapped).map Group.saveBytes).sum

/-- Nothing of the group is under way that swap-out waits for but a run, and no hold of R294 applies. A group whose start waits
for a page is resident, and is swapped out like the others (R291). -/
def State.still (s : State) (gi : Nat) (g : Group) : Bool :=
  g.resident && g.handler.isNone && !(s.ops.any fun o => o.grp == gi) &&
  !(s.rowFns.any fun f => f.grp == gi && f.done.isNone) && !(s.colls.any fun c => c.grp == gi) && g.gramQ.isEmpty &&
  !(s.creds.any fun x => x.contribs.any fun c => c.grp == gi && !c.answered) &&
  !(s.traps.any fun t => !t.ended && t.ofGroups [gi])
/-- The same, at a run boundary of the group. -/
def State.quiet (s : State) (gi : Nat) (g : Group) : Bool := s.still gi g && !s.inRun gi g

/-- The cluster is to be swapped out: by its pre-emption, by GSWAP, or because one of its groups has had its quantum and a
started group waits. -/
def State.swapWanted (s : State) (g : Group) (gs : List Group) : Bool :=
  (s.job g.asid).any (fun j => j.stage2) || (gs.any fun x => !x.gswap.isEmpty) ||
  ((gs.any Group.eligible) && s.slotWaiter g.asid g.launch)

/-- The places of the groups of a cluster that have not completed. -/
def State.openPlaces (s : State) (g : Group) : List Nat :=
  g.cluster.filter fun gi => (s.groups[gi]?).any fun x => x.status != .done

/-- The swap area has room for the cluster (R294). -/
def State.swapRoom (s : State) (g : Group) : Bool :=
  s.swapUsed g.asid + (((s.openPlaces g).filterMap fun gi => s.groups[gi]?).map Group.saveBytes).sum
    ≤ ((s.job g.asid).map fun j => j.desc.swaplen).getD 0

/-- The cluster's swap-out waits for nothing but the end of runs. -/
def State.due (s : State) (g : Group) : Bool :=
  g.handler.isNone && s.swapWanted g ((s.openPlaces g).filterMap fun gi => s.groups[gi]?) && s.swapRoom g &&
  (s.openPlaces g).all fun gi => (s.groups[gi]?).any fun x => s.still gi x

/-- The threads that the picker chooses from. -/
def State.readyThreads (s : State) (core part asid lid : Nat) : List ThreadRef := s.kernelThreads core part asid lid s.ready

/-- A group of the core is due for swap-out. The core's pickers wait for it: no group is given a run between its quantum's end and its
swap-out, so that what waits for its slot is resident again within the quanta of R40, and no run that its kernel receives passes
its ready threads over (R38; DESIGN CHOICE, log entry 76). The wait ends, since runs end. -/
def State.swapsFirst (s : State) (core : Nat) : Bool := (s.residents core).any s.due

/-! ## The picker (R35) -/

/-- The run contexts of a partition. -/
def Core.partCtxs (c : Core) (part : Nat) : List (Option RunCtx) := (c.ctxs.drop (4 * part)).take 4

/-- Kernels with ready threads on a partition that are in none of its run contexts. -/
def State.kernels (s : State) (core part : Nat) : List (Nat × Nat) :=
  (((s.residents core).map fun g => (g.asid, g.launch)).dedup).filter fun k =>
    !((s.core core).partCtxs part).any (fun x => x.any fun r => r.asid == k.1 && r.launch == k.2) &&
    !(s.readyThreads core part k.1 k.2).isEmpty

def State.kernelPrio (s : State) (k : Nat × Nat) : Nat :=
  if k.2 = 0 then ((s.job k.1).map fun j => j.desc.hprio).getD 0 else ((s.launch? k.1 k.2).map fun l => l.lr.prio).getD 0
def State.kernelWeight (s : State) (k : Nat × Nat) : Nat := ((s.job k.1).map fun j => j.desc.weight).getD 1

/-- The credits of a partition. -/
def Core.creditsOf (c : Core) (part : Nat) : List RunCredit := c.credits.filter fun x => x.part == part
def Core.credit (c : Core) (part : Nat) (k : Nat × Nat) : Rat :=
  (((c.creditsOf part).find? fun x => x.kernel == k).map RunCredit.credit).getD 0

/-- The kernels that competed at the partition's last choice at a priority, with their weights. -/
def State.rivals (s : State) (core part prio : Nat) : List ((Nat × Nat) × Nat) :=
  (((s.core core).creditsOf part).filter fun x => x.weight != 0 && s.kernelPrio x.kernel == prio).map fun x => (x.kernel, x.weight)

/-- What kernels keep of their credits when others than before compete: no surplus above one run, and deficits of one run in all, the
greatest first. From such credits the choice below keeps every kernel within one run of its share (R35) for as long as the same
kernels compete. -/
def keepCredits (xs : List Rat) : List Rat :=
  xs.zipIdx.map fun x =>
    let ahead := ((xs.zipIdx.filter fun y => decide (x.1 < y.1) || (y.1 == x.1 && decide (y.2 < x.2))).map fun y => max y.1 0).sum
    if 0 < x.1 then max 0 (min x.1 (1 - ahead)) else max x.1 (-1)

/-- The least element of a list under a measure, the first of equals. -/
def argMin (f : α → Int) : List α → Option α
  | [] => none
  | a :: t => match argMin f t with
    | none => some a
    | some b => if f b < f a then some b else some a

/-- Kernel choice: the highest priority, and within it the kernel whose share would first be a whole run short, among those that are
owed a part of a run, so that no shortfall exceeds one run. Shares are counted over the choices at which a kernel competes; when
others compete than at the choice before, keepCredits says what is carried over (DESIGN CHOICE, log entry 97: R35 gives no
reckoning, and over changing rivals no choice made without knowing them could keep every sum within one run). -/
def State.chooseKernel (s : State) (core part : Nat) : Option (State × (Nat × Nat)) :=
  let ks := s.kernels core part
  let top := (ks.map s.kernelPrio).foldl max 0
  let ks := ks.filter fun k => s.kernelPrio k == top
  let total : Rat := (ks.map s.kernelWeight).sum
  let share (k : Nat × Nat) : Rat := s.kernelWeight k / total
  let before := ks.map ((s.core core).credit part)
  let was := s.rivals core part top
  let same := was.length == ks.length && ks.all fun k => was.contains (k, s.kernelWeight k)
  let owed := ks.zip ((if same then before else keepCredits before).zipWith (· + ·) (ks.map share))
  let late := owed.filter fun x => decide (0 < x.2)
  match argMin (fun x => ((1 - x.2) / share x.1).floor) (if late.isEmpty then owed else late) with
  | none => none
  | some (k, _) =>
    let now := owed.map fun x => RunCredit.mk x.1.1 x.1.2 part (if x.1 = k then x.2 - 1 else x.2) (s.kernelWeight x.1)
    let rest := (s.core core).credits.filterMap fun x =>
      if x.part != part || s.kernelPrio x.kernel != top then some x
      else if ks.contains x.kernel then none else some { x with weight := 0 }
    some (s.setCore core fun c => { c with credits := now ++ rest }, k)

def State.pcOf (s : State) (r : ThreadRef) : Nat := ((s.thr r).map fun t => t.pc.toNat).getD 0
def State.ageOf (s : State) (r : ThreadRef) : Nat := ((s.thr r).map Thread.age).getD 0
def State.selOf (s : State) (r : ThreadRef) : Option Nat := (s.groups[r.grp]?).bind Group.sel

/-- Up to 32 threads of a list, in its order, with the same dictionary selection as the thread that leads it: the aged one that
gave its PC, or its first. An aged lead is always among them, since R38 promises that it issues (DEDUCED, log entry 77). -/
def State.gather (s : State) (lead : Option ThreadRef) (rs : List ThreadRef) : List ThreadRef :=
  match lead.orElse fun _ => rs.head? with
  | none => []
  | some r =>
    let same := rs.filter fun x => s.selOf x == s.selOf r
    if (same.take 32).contains r then same.take 32 else same.take 31 ++ [r]

/-- First PC, and the thread it comes from when that is aged: the one that has waited longest, the lower PC among equals, or the
lowest PC. -/
def State.firstPc (s : State) (rs : List ThreadRef) : Nat × Option ThreadRef :=
  let aged := rs.filter fun r => s.ageOf r ≥ 64
  let top := (aged.map s.ageOf).foldl max 0
  match argMin (fun r => (s.pcOf r : Int)) (aged.filter fun r => s.ageOf r == top) with
  | some r => (s.pcOf r, some r)
  | none => (((argMin (fun r => (s.pcOf r : Int)) rs).map s.pcOf).getD 0, none)

/-- The primary and the secondary gang from a kernel's ready threads. -/
def State.gangs (s : State) (rs : List ThreadRef) : List ThreadRef × List ThreadRef :=
  let first := s.firstPc rs
  let here := rs.filter fun r => s.pcOf r == first.1
  let prim := s.gather first.2 here
  let others := rs.filter fun r => s.pcOf r != first.1
  match argMin (fun r => (s.pcOf r : Int)) others with
  | some r => (prim, s.gather none (others.filter fun x => s.pcOf x == s.pcOf r))
  | none => (prim, s.gather none (here.filter fun r => !prim.contains r))

def Gang.start (rs : List ThreadRef) : Gang := ⟨rs, rs, 0, false, 0, []⟩

/-- A thread's age as its kernel receives a run, and its group's runs (R38, R40). A thread that has not issued yet is as old as the runs
that its kernel has received on the partition since its group came there, and no run counts that is received while its group is
swapped out (DESIGN CHOICE, log entry 99: R35 counts from the thread's issue, and does not say). -/
def Group.received (g : Group) (gi part : Nat) (picked : List ThreadRef) : Group :=
  { g with
    threads := g.threads.mapIdx fun t th =>
      if partOf t = part then { th with age := if picked.contains ⟨gi, t⟩ then 0 else th.age + 1 } else th
    quanta := if picked.any (fun r => r.grp == gi) then g.quanta.modify part (· + 1) else g.quanta }

/-- RUN_PICK: the lowest free context of a partition is filled. -/
def State.runPick (s : State) (core part : Nat) : State :=
  if !s.coreOn core || part ≥ 8 || s.swapsFirst core then s else
  match ((s.core core).partCtxs part).findIdx? (· == none), s.chooseKernel core part with
  | some k, some (s, (asid, lid)) =>
    let rs := s.readyThreads core part asid lid
    let (prim, sec) := s.gangs rs
    let picked := prim ++ sec
    let s := if (s.firstPc rs).2.isSome then s.countCore core 9 (some asid) 1 else s
    let s := s.countCore core 2 (some asid) (if sec.isEmpty then 1 else 2)
    let s := (List.range s.groups.length).foldl (fun s gi => s.setGrp gi fun g =>
      if g.core == core && g.resident && g.asid == asid && g.launch == lid then g.received gi part picked else g) s
    s.setCore core fun c => { c with ctxs := c.ctxs.set (4 * part + k) (some ⟨asid, lid, .start prim, .start sec⟩) }
  | _, _ => s

def execRunPick (core part : Nat) (s : State) := event s fun s => s.runPick core part

/-- RESULT_DELIVERY (R61). -/
def execResultDelivery (t : ThreadRef) (s : State) := event s fun s => s.setThr t Thread.deliverOne

/-! ## Swap-out (R40, R293, R294) -/

def execQuantumExpiry (grp : Nat) (s : State) := event s fun s =>
  s.setGrp grp fun g => if g.expired then { g with swapReady := true } else g

/-- What a swap-out writes into its job's swap area: which bytes, and what they hold, is not architected (R293). The model restores
a group from State, not from there (log entry 21). -/
def State.writeSwap (s : State) (asid seq : Nat) : State :=
  match s.job asid with
  | none => s
  | some j => (Config.swapImage seq).foldl (fun s x =>
      if x.1 < j.desc.swaplen then s.homeWrite (some asid) (j.desc.swap + x.1) [x.2] else s) s

/-- The stage of a start that is under way. -/
def GStatus.stage : GStatus → Option Nat
  | .starting n => some n
  | _ => none

/-- A group leaves its core. -/
def State.saveGroup (s : State) (gi seq : Nat) : State :=
  match s.groups[gi]? with
  | none => s
  | some g =>
    let c := s.core g.core
    let mine (a : Nat) : Bool := g.accBase ≤ a / 128 && a / 128 < g.accBase + g.accRows
    let dict := (g.sel.bind fun k => c.dicts.getD k none).map DictSlot.addr
    (s.setGrp gi fun g => { g with
      status := .swapped
      startAt := g.status.stage
      swapReady := false
      swapSeq := seq
      quanta := List.replicate 8 0
      sel := none
      selAddr := dict
      savedAcc := (c.acc.filter fun x => mine x.1).map fun x => (x.1 - 128 * g.accBase, x.2)
      savedSlots := (c.slots.drop (g.accBase / 16)).take (g.accRows / 16) }).countCore g.core 10 (some g.asid) 1

/-- GROUP_SWAP_OUT of the cluster a group belongs to. A group of it that has completed stays so. -/
def State.swapOut (s : State) (grp : Nat) : State :=
  match s.groups[grp]? with
  | none => s
  | some g =>
    if g.resident && s.due g && (s.openPlaces g).all (fun gi => (s.groups[gi]?).any fun x => s.quiet gi x)
    then
      let gis := s.openPlaces g
      let s := s.writeSwap g.asid s.nextSerial
      { gis.foldl (fun s gi => s.saveGroup gi s.nextSerial) s with nextSerial := s.nextSerial + 1 }
    else s
def execGroupSwapOut (grp : Nat) (s : State) := event s fun s => s.swapOut grp

/-! ## Swap-in (R73, R293) -/

/-- The images of a cluster are read again, all but entry 0 (R68): a page that is absent parks the swap-in; one that fails otherwise leaves its
group without a selection. -/
def State.rereadImages : List Nat → State → State × Option (List (Nat × List Byte))
  | [], s => (s, some [])
  | gi :: gis, s =>
    match s.groups[gi]? with
    | none => State.rereadImages gis s
    | some g =>
      match (if g.startAt.isSome then none else g.selAddr) with
      | none => State.rereadImages gis s
      | some a =>
        match s.engRead (some (g.core / 48)) g.asid isNormal (byteAddrs (a.toNat + 32) 8160) with
        | (s, .error (.absent va w)) => (s.parkEngine g.asid va g.core g.launch w (.swapIn gi), none)
        | (s, .error _) => State.rereadImages gis (s.setGrp gi fun g => { g with selAddr := none })
        | (s, .ok bs) =>
          match State.rereadImages gis s with
          | (s, some l) => (s, some ((gi, List.replicate 32 0 ++ bs) :: l))
          | (s, none) => (s, none)

/-- Accesses of a group that were answered while it was swapped out go on with their answers (R293, R302). -/
def State.answerParked (s : State) (gi : Nat) : State :=
  (s.parked.filter fun p => p.rung && match p.who with | .thread r => r.grp == gi | .start k => k == gi | _ => false).foldl
    State.replayParked s

/-- A group takes its place again. -/
def State.restoreGroup (s : State) (gi : Nat) (p : Place) (img : Option (List Byte)) : State :=
  match s.groups[gi]? with
  | none => s
  | some g =>
    let s := s.setCore p.core fun c => { c with
      l1 := []
      acc := accRows c.acc p.acc g.accRows ((List.range (128 * g.accRows)).map fun i => accGet g.savedAcc i)
      slots := c.slots.mapIdx fun k w =>
        if p.acc / 16 ≤ k && k < (p.acc + g.accRows) / 16 then g.savedSlots.getD (k - p.acc / 16) WSlot.empty else w }
    let x : State × Option Nat := match g.selAddr, img with
      | some a, some bs =>
        match s.dictSlot p.core g.asid a none none false with
        | some k => (s.setDict p.core k ⟨g.asid, a, imageOf bs, imageUndef (imageOf bs)⟩, some k)
        | none => (s, none)
      | a, _ => if g.startAt.isSome then s.takeDict g.asid p a false else (s, none)
    let s := x.1.setGrp gi fun g => { g with
      status := match g.startAt with | some n => .starting n | none => .running
      startAt := none, core := p.core, accBase := p.acc, sel := x.2, selAddr := none, savedAcc := [], savedSlots := [], gswap := [] }
    (g.gswap.foldl (fun s c => s.deliverGswap gi c 0) s).answerParked gi

/-- A job takes part in dispatch (R291, R292, R308). -/
def Job.active (j : Job) : Bool := j.pre.isNone && !j.suspended && j.stopping.isNone

/-- A dependence completed CANCELLED or FAULTED (R286). -/
def State.depFailed (s : State) (l : Launch) : Bool :=
  [l.lr.dep0, l.lr.dep1].any fun d => d != 0 && match (s.launch? l.asid d).bind Launch.status with
    | some .cancelled => true
    | some .faulted => true
    | _ => false

/-- A swapped-out group of the launch waits. -/
def State.swappedOf (s : State) (asid lid : Nat) : Bool :=
  s.groups.any fun x => x.status == .swapped && x.asid == asid && x.launch == lid

/-- A launch has groups to start now (R286, R290). Without a quantum its swapped-out groups come before those that have not
started, to which R39 promises nothing. -/
def State.startable (s : State) (l : Launch) : Bool :=
  (s.job l.asid).any Job.active && !l.cancelled && !l.rejected && l.status.isNone && l.nextGid < l.lr.ngroups &&
  [l.lr.dep0, l.lr.dep1].all (fun d => d == 0 || ((s.launch? l.asid d).bind Launch.status) == some .done) &&
  (l.pred.all fun p => ((s.launch? l.asid p).bind Launch.status).isSome) &&
  (l.lr.quant != 0 || !s.swappedOf l.asid l.id)

/-- An open QUOTA record names the cluster that begins with %gid `gid` of a launch, or a group of it: it is not placed until the record
is resumed, and RESUME.RETRY tries again (R306; DEDUCED, log entry 36). -/
def State.quotaHeld (s : State) (asid lid : Nat) (gids : List Nat) : Bool :=
  s.traps.any fun t => t.asid == asid && !t.ended && t.tr.info.code == .quota && t.tr.launch.toNat == lid && gids.contains t.quotaGid

/-- It is the cluster's turn to be swapped in (R40): no cluster of its launch was swapped out earlier, and, under a quantum, none
is still to start, since those have waited since the launch was dispatched (R39). -/
def State.swapTurn (s : State) (g : Group) : Bool :=
  (s.groups.all fun x => !(x.status == .swapped && x.asid == g.asid && x.launch == g.launch && x.swapSeq < g.swapSeq)) &&
  !((s.launch? g.asid g.launch).any fun l => l.lr.quant != 0 && s.startable l)

/-- A swap-in of the cluster waits for an absent page. -/
def State.swapParked (s : State) (gis : List Nat) : Bool :=
  s.parked.any fun p => match p.who with | .swapIn g => gis.contains g | _ => false

/-- GROUP_SWAP_IN of the cluster a group belongs to, its groups at the places given in ascending rank. -/
def State.swapIn (s : State) (grp : Nat) (ps : List Place) : State :=
  match s.groups[grp]? with
  | none => s
  | some g =>
    let gis := g.cluster.filter fun gi => (s.groups[gi]?).any fun x => x.status == .swapped
    let fits (x : Nat × Place) : Bool := (s.groups[x.1]?).any fun g =>
      s.placeOk g.asid g.take g.selAddr false x.2 &&
      (g.seg.isNone || !s.engineUsed x.2.core none)
    if g.status == .swapped && (s.job g.asid).any Job.active && s.swapTurn g && !s.swapParked gis &&
      !s.quotaHeld g.asid g.launch (gis.filterMap fun gi => (s.groups[gi]?).map Group.gid) &&
      clusterPlaces gis.length ps && (gis.zip ps).all fits
    then
      match State.rereadImages gis s with
      | (s, none) => s
      | (s, some imgs) =>
        (gis.zip ps).foldl (fun s x => s.restoreGroup x.1 x.2 ((imgs.find? fun i => i.1 == x.1).map Prod.snd)) s
    else s
def execGroupSwapIn (grp : Nat) (places : List Place) (s : State) := event s fun s => s.swapIn grp places

/-! ## Pre-emption (R291) -/

/-- A deadline of a pre-emption in progress has passed. -/
def State.pastDeadline (s : State) (j : Job) (d : Nat) : Bool := j.pre.any fun t => t + d ≤ s.hubClock

def execPreemptStage2 (asid : Nat) (s : State) := event s fun s =>
  s.setJob asid fun j => if s.pastDeadline j j.desc.dl1 then { j with stage2 := true } else j
def execPreemptStage3 (asid : Nat) (s : State) := event s fun s =>
  match s.job asid with
  | some j => if s.pastDeadline j (max j.desc.dl1 j.desc.dl2) then s.jobStop asid .stage3 (List.replicate 64 0) else s
  | none => s

end Sys2Proof.Machine
end

