-- ==== Sys2Proof/Machine/Launches.lean ====
section
/-! DEFINITION. The dispatcher and what it drives: launch queues (R282), group starts (R286, R287), completion (R288, R92), the
tape (R290), engine operations, handler groups and QUOTA (R304, R306), stop records (R308) and the fault buffer (R302). -/

namespace Sys2Proof.Machine

/-! ## Launch queues (R282) -/

/-- The RESULT doubleword (R282). -/
def resultWord (id reason status : Nat) : Nat := id * 2 ^ 32 + 2 ^ 31 + reason * 256 + status

/-- DONE advances over the indices that are finished. -/
def advance : Nat → HubQueue → HubQueue
  | 0, q => q
  | k + 1, q => if q.fin.contains q.comp then advance k { q with comp := q.comp + 1, fin := q.fin.filter (· != q.comp) } else q

/-- A record's RESULT is written, and signalled (R282, R320). -/
def State.writeResult (s : State) (asid : Option Nat) (q idx pa v : Nat) : State :=
  let s := s.homeWrite asid (pa + 80) (leBytes 8 v)
  (s.setQueue' q fun x => advance (x.fin.length + 1) { x with fin := x.fin ++ [BitVec.ofNat 32 idx] }).sendMsix q asid

/-- A queue takes a record; of a job without an identifier left it takes none (log entry 26). -/
def State.queueOpen (s : State) (q : HubQueue) : Bool :=
  s.booted && q.en && q.rd != q.wr && !(s.job q.asid.toNat).any fun j => j.suspended || j.spent

/-- LAUNCH_QUEUE_TAKE. A slot beyond device memory reads as all ones, so that its record is refused, and its RESULT is written there all
the same (DESIGN CHOICE, log entry 94: R282 does not say). -/
def State.queueTake (s : State) (qi : Nat) : State :=
  match s.queues[qi]? with
  | none => s
  | some q =>
    if !s.queueOpen q then s else
    let asid := q.asid.toNat
    let pa := q.base.toNat + 128 * (q.rd.toNat % 2 ^ q.log2n)
    let (s, bs) := if pa + 128 ≤ s.memSize then s.homeRead (some asid) pa 128 else (s, List.replicate 128 0xFF)
    let s := s.setQueue' qi fun q => { q with rd := q.rd + 1 }
    let r := LaunchRec.ofBytes bs
    match s.recordReason asid r false with
    | some reason => (s.refused asid).writeResult (some asid) qi q.rd.toNat pa (resultWord 0 reason 2)
    | none => (s.accept asid r (.queue qi q.rd.toNat pa) none none).1
def execLaunchQueueTake (q : Nat) (s : State) := event s fun s => s.queueTake q

/-! ## Group start (R286, R287) -/

/-- Launch `a` goes before `b`, `b` standing later in the order of acceptance when `later` (R286). -/
def prefers (a b : Launch) (later : Bool) : Bool := a.lr.prio > b.lr.prio || (a.lr.prio == b.lr.prio && later)

/-- A preferred launch's next cluster fits somewhere. -/
def State.outranked (s : State) (l : Launch) : Bool :=
  let k := s.launches.findIdx fun x => x.asid == l.asid && x.id == l.id
  (List.range s.launches.length).any fun i => match s.launches[i]? with
    | some m => i != k && prefers m l (i < k) && s.startable m && !s.quotaHeld m.asid m.id [m.nextGid] &&
        s.fitsSomewhere m.asid (2 ^ m.lr.csize) m.lr.take m.lr.dict?
    | none => false

/-- GROUP_START: the launch's next cluster starts at the places given, in ascending rank. -/
def State.startGroups (s : State) (asid lid : Nat) (ps : List Place) : State :=
  match s.launch? asid lid with
  | none => s
  | some l =>
    if s.booted && s.startable l && !s.quotaHeld asid lid [l.nextGid] && clusterPlaces (2 ^ l.lr.csize) ps &&
      ps.all (s.placeOk asid l.lr.take l.lr.dict? false) && !s.outranked l
    then
      (s.setLaunch asid lid fun l => { l with nextGid := l.nextGid + 2 ^ l.lr.csize }).startCluster l.lr asid lid l.nextGid ps
    else s
def execGroupStart (asid lid : Nat) (places : List Place) (s : State) := event s fun s => s.startGroups asid lid places

/-! ## Completion (R92, R288) -/

/-- The statistics area's bytes (R92). -/
def statBytes (cs : List Count) (cap : Nat) : List Byte :=
  let es := cs.take cap
  leBytes 4 es.length ++ leBytes 4 (if cs.length > cap then 1 else 0) ++ leBytes 8 0 ++
    es.flatMap fun c => leBytes 2 c.tid ++ leBytes 2 0 ++ leBytes 4 c.sats ++ leBytes 4 c.flushes ++ leBytes 4 c.nans

/-- First addresses of the pages that bytes lie in. -/
def pagesOf (va n : Nat) : List Nat := (List.range ((va % 4096 + n + 4095) / 4096)).map fun k => if k = 0 then va else va / 4096 * 4096 + 4096 * k

/-- The statistics are written, or refused, or wait for an absent page. A stopping job waits for no page. Where one page is absent
and another fails otherwise, the write ends at once; a write that waits names the core of the launch's last group, or 0 when none
started (DESIGN CHOICE, log entry 84: R92 gives no order between the two cases, and says only "the core"). -/
def State.writeStats (s : State) (l : Launch) : State × Bool :=
  if l.statsDone || l.lr.cap = 0 then (s, true) else
  let va := l.lr.stats.toNat
  let chks := (pagesOf va (16 + 16 * l.lr.cap)).map fun a => (a, s.check l.asid (a % 2 ^ 64) .write isNormal)
  let stopping := (s.job l.asid).any fun j => j.stopping.isSome
  match chks.find? fun c => match c.2 with | .ok _ _ _ => false | .absent => stopping | _ => true with
  | some _ => (s, true)
  | none =>
    match chks.find? fun c => c.2 == .absent with
    | some c =>
      let core := ((s.groups.filter fun g => g.asid == l.asid && g.launch == l.id).getLast?.map Group.core).getD 0
      (s.parkEngine l.asid c.1 core l.id true (.stats l.asid l.id), false)
    | none =>
      let bs := statBytes l.counts l.lr.cap
      ((List.range (bs.length / 16)).foldl (fun s k =>
        match s.check l.asid (va + 16 * k) .write isNormal with
        | .ok pa _ _ => s.homeWrite (some l.asid) pa ((bs.drop (16 * k)).take 16)
        | _ => s) s, true)

/-- Every group of the launch has completed or will never start. -/
def State.launchOver (s : State) (l : Launch) : Bool :=
  l.status.isNone && l.doneGroups == l.nextGid &&
  (l.nextGid ≥ l.lr.ngroups || l.cancelled || l.rejected || (s.depFailed l && l.nextGid == 0)) &&
  !(s.parked.any fun p => p.who == .stats l.asid l.id)

/-- LAUNCH_COMPLETION. -/
def State.completeLaunch (s : State) (asid lid : Nat) : State :=
  match s.launch? asid lid with
  | none => s
  | some l =>
    if !s.launchOver l then s else
    match s.writeStats l with
    | (s, false) => s
    | (s, true) =>
      let st := s.launchStatus (if s.depFailed l then { l with cancelled := true } else l)
      let s := (s.setLaunch asid lid fun l => { l with status := some st }).updateInsts
      match l.origin with
      | .queue q idx pa => s.writeResult (some asid) q idx pa (resultWord lid 0 st.code)
      | _ => s
def execLaunchCompletion (asid lid : Nat) (s : State) := event s fun s => s.completeLaunch asid lid

/-! ## The tape (R290) -/

def State.setInst (s : State) (serial : Nat) (f : Inst → Inst) : State :=
  { s with insts := s.insts.map fun i => if i.serial = serial then f i else i }

/-- TAPE_REPLAY: a closed phase in tape mode whose launches have completed begins replay. -/
def State.tapeReplay (s : State) (serial : Nat) : State :=
  match s.insts.find? fun i => i.serial == serial with
  | none => s
  | some i =>
    if i.isPhase && i.tapeMode && i.closed && !i.replay && i.status.isNone && !i.cancelled &&
      (s.launches.filter fun l => l.asid == i.asid && l.phase == some serial).all fun l => l.status.isSome
    then (s.setInst serial fun i => { i with replay := true }).updateInsts
    else s
def execTapeReplay (serial : Nat) (s : State) := event s fun s => s.tapeReplay serial

/-- A popped record with the fields that are ignored cleared. -/
def LaunchRec.popped (r : LaunchRec) : LaunchRec :=
  { r with graph := 0, phase := 0, dep0 := 0, dep1 := 0, lastg := false, endp := false, tapem := false }

/-- TAPE_POP: the record on top becomes a launch of the phase. -/
def State.tapePop (s : State) (serial : Nat) : State :=
  match s.insts.find? fun i => i.serial == serial with
  | none => s
  | some i =>
    match s.job i.asid with
    | none => s
    | some j =>
      if !i.replay || i.status.isSome || i.cancelled || j.stopping.isSome || j.tapeN = 0 || j.spent then s else
      let (s, bs) := s.homeRead (some i.asid) (j.desc.tape + 128 * (j.tapeN - 1)) 128
      let r := (LaunchRec.ofBytes bs).popped
      let before := i.lastPop.all fun p => ((s.launch? i.asid p).bind Launch.status).isSome
      if !(r.overlap || before) then s else
      let s := s.setJob i.asid fun j => { j with tapeN := j.tapeN - 1 }
      match s.recordReason i.asid r false with
      | some _ => ((s.refused i.asid).setInst serial fun i => { i with popRefused := true }).updateInsts
      | none =>
        let (s, id) := s.accept i.asid r .tape (some serial) (if r.overlap then none else i.lastPop)
        s.setInst serial fun i => { i with lastPop := some id }
def execTapePop (serial : Nat) (s : State) := event s fun s => s.tapePop serial

/-! ## Engine operations -/

/-- A forked operation that waits for no page, with its group. -/
def State.runOp (s : State) (id : Nat) (ok : EngOp → Bool) (f : State → EngOp → Group → State) : State :=
  match s.ops.find? fun o => o.id == id with
  | none => s
  | some o =>
    match s.groups[o.grp]? with
    | none => s
    | some g => if o.waiting || !ok o then s else f s o g

def execCopyOperation (id : Nat) (s : State) := event s fun s => s.runOp id (fun o => o.kind.isCopy) State.runCopy
def execTileOperation (id : Nat) (s : State) := event s fun s => s.runOp id (fun o => o.kind.isTile && s.tileTurn o) State.runTile
def execWbldOperation (id : Nat) (s : State) := event s fun s =>
  s.runOp id (fun o => match o.kind with | .wbld _ _ _ _ _ => true | _ => false) State.runWbld
def execCredResultWrite (id : Nat) (s : State) := event s fun s =>
  match s.creds.find? fun x => x.id == id with
  | some x => s.runCred x
  | none => s
def execGrunEvaluation (id : Nat) (s : State) := event s fun s =>
  s.runOp id (fun o => s.gramTurn o) fun s o g => match o.kind with | .grun b => s.runGrun o g b | _ => s
def execGoutOperation (id : Nat) (s : State) := event s fun s =>
  s.runOp id (fun o => s.gramTurn o) fun s o g => match o.kind with | .gout => s.runGout o g | _ => s

/-! ## Handler groups and QUOTA (R304, R306) -/

/-- The job's reserve slot on a core is free. -/
def State.reserveFree (s : State) (asid core : Nat) : Bool :=
  !((s.residents core).any fun g => g.asid == asid && g.handler.isSome)

/-- HANDLER_GROUP_START: the earliest record of a core that no handler group serves yet. -/
def State.startService (s : State) (asid core : Nat) : State :=
  match s.job asid, s.traps.find? fun t => t.asid == asid && t.core == core && t.slot.isSome && t.handler.isNone with
  | some j, some t =>
    match j.handler, t.slot with
    | some r, some k =>
      match (List.range 9).find? fun n => s.placeOk asid r.take r.dict? true ⟨core, 64 * n⟩ with
      | some n =>
        if j.active && s.reserveFree asid core then
          ({ s with traps := s.traps.map fun (x : Trap) => if x.id = t.id then { x with handler := some s.groups.length } else x }
            ).startHandler r asid ⟨core, 64 * n⟩ t.id (slotAddr j core k)
        else s
      | none => s
    | _, _ => s
  | _, _ => s
def execHandlerGroupStart (asid core : Nat) (s : State) := event s fun s => s.startService asid core

/-- The quotas alone let no core take a group. -/
def State.quotaStuck (s : State) (asid : Nat) (t : Take) : Bool :=
  (List.range s.numCores).all fun c => !s.coreOn c || !s.quotaAllows asid c t

/-- The started group of a launch that no core can take: the swapped-out one whose turn it is, or the next of a launch with a
quantum. -/
def State.stuckGroup (s : State) (l : Launch) : Option Nat :=
  match s.groups.find? fun g => g.asid == l.asid && g.launch == l.id && g.status == .swapped && s.swapTurn g with
  | some g => if s.quotaStuck l.asid g.take then some g.gid else none
  | none =>
    if l.lr.quant != 0 && s.startable l && s.quotaStuck l.asid l.lr.take then some l.nextGid else none

/-- The record of R306. -/
def quotaRec (j : Job) (l : Launch) (gid : Nat) : TrapRec where
  seq := BitVec.ofNat 32 j.seq
  core := 0xFFFF
  info := FCode.quota.detail gid 0
  launch := BitVec.ofNat 32 l.id
  gid := BitVec.ofNat 32 gid
  tid := 0
  window := false
  insnValid := false
  short := false
  shortw := 0
  insn := 0
  pc := l.lr.entry.extractLsb' 0 57

/-- QUOTA_TRAP on a core whose trap area has a free slot and whose reserve slot is free. -/
def State.quotaTrap (s : State) (asid lid core : Nat) : State :=
  match s.job asid, s.launch? asid lid with
  | some j, some l =>
    match s.stuckGroup l with
    | none => s
    | some gid =>
      let x := quotaRec j l gid
      let open? := s.traps.any fun t => t.asid == asid && !t.ended && t.tr.info.code == .quota && t.tr.launch == x.launch
      let alone := !(s.groups.any fun g => g.asid == asid && g.handler.isNone && g.resident)
      if !(j.active && alone && !open? && !l.cancelled && l.status.isNone) then s
      else if j.handler.isNone then (s.setJob asid fun j => { j with seq := j.seq + 1 }).jobStop asid .nohandler x.bytes
      else if s.coreOn core && (s.freeSlot asid core).isSome && s.reserveFree asid core then
        let id := s.nextSerial
        let s := s.setJob asid fun j => { j with seq := j.seq + 1 }
        { s with nextSerial := id + 1, traps := s.traps ++ [Trap.mk id asid x core none none gid none false] }.writeTrap id
      else s
  | _, _ => s
def execQuotaTrap (asid lid core : Nat) (s : State) := event s fun s => s.quotaTrap asid lid core

/-! ## Stop records and the fault buffer -/

def StopKind.code : StopKind → Nat
  | .assert => 1 | .kill => 2 | .nohandler => 3 | .handler => 4 | .cancel => 5 | .stage3 => 6 | .traparea => 7

/-- STOP_RECORD_WRITE: every launch of a stopping job has completed (R308). -/
def State.writeStop (s : State) (asid : Nat) : State :=
  match s.job asid with
  | none => s
  | some j =>
    match j.stopping with
    | none => s
    | some (k, cause) =>
      if j.stopped || (s.launches.any fun l => l.asid == asid && l.status.isNone) ||
        (s.groups.any fun g => g.asid == asid && g.status != .done) then s
      else
        let s := s.homeWrite (some asid) j.desc.stop (cause ++ leBytes 4 (2 ^ 31 + k.code) ++ List.replicate 60 0)
        (s.setJob asid fun j => { j with stopped := true }).sendMsix 65 (some asid)
def execStopRecordWrite (asid : Nat) (s : State) := event s fun s => s.writeStop asid

/-- FAULT_BUFFER_ENTRY_FREE: an entry has cleared, and an access that waits without one is entered (R302). -/
def State.refillFault (s : State) (asid : Nat) : State :=
  match s.job asid, s.parked.find? fun p => p.asid == asid && p.entry.isNone && p.resp.isNone with
  | some j, some p =>
    if (List.range j.desc.fbcap).any fun k => !bit (s.fbCtl j k) 7
    then { s with parked := s.parked.erase p }.enterFault p else s
  | _, _ => s
def execFaultBufferEntryFree (asid : Nat) (s : State) := event s fun s => s.refillFault asid
def execJreplay (asid : BitVec 12) (s : State) := event s fun s => (s.hostFlits 4 0).bar0Write none 0x2018 4 asid.toNat

end Sys2Proof.Machine
end

