-- ==== Sys2Proof/Machine/Device.lean ====
section
/-! DEFINITION. Host writes and commands (R281, R318, R319), host and peer accesses (R317, R321), links and collective
operations (R322 to R325), boot, attestation, freeze, readout, temperature and power (R326 to R329, R333 to R336). -/

namespace Sys2Proof.Machine

/-! ## Host writes to the management window -/

/-- A host write whose offset lies in the registers that a step is about. -/
def State.hostWrite (s : State) (w : HostWrite) (here : Nat → Bool) : State :=
  let n := if w.b64 then 8 else 4
  if here w.off then (s.hostFlits n 0).bar0Write none w.off n w.val.toNat else s

def inQueues (off : Nat) : Bool := 0x1000 ≤ off && off < 0x1800
def isQueueCtl (off : Nat) : Bool := inQueues off && (off % 32 == 0 || off % 32 == 4 || off % 32 == 8)
def isQwr (off : Nat) : Bool := inQueues off && (off % 32 == 12 || off % 32 == 8)
def inLog (off : Nat) : Bool := 0x9000 ≤ off && off < 0x9400
def isAcmd (off : Nat) : Bool := off == 0xA020
def isPlimit (off : Nat) : Bool := off == 0xB00C || off == 0xB008
def isCethresh (off : Nat) : Bool := off == 0xB008
/-- Registers that no other step is about: neither queues, commands, the doorbell, the log, ACMD, PLIMIT nor CETHRESH. -/
def isPlainReg (off : Nat) : Bool :=
  !(inQueues off || (0x2000 ≤ off && off < 0x2008) || off == 0x2018 || inLog off || isAcmd off || isPlimit off || isCethresh off)

def execQbaseQctlWrite (w : HostWrite) (s : State) := event s fun s => s.hostWrite w isQueueCtl
def execQwrWrite (w : HostWrite) (s : State) := event s fun s => s.hostWrite w isQwr
def execErrorLogFree (w : HostWrite) (s : State) := event s fun s => s.hostWrite w inLog
def execAttestationRequest (w : HostWrite) (s : State) := event s fun s => s.hostWrite w isAcmd
def execPlimitWrite (w : HostWrite) (s : State) := event s fun s => s.hostWrite w isPlimit
def execCethreshWrite (w : HostWrite) (s : State) := event s fun s => s.hostWrite w isCethresh
/-- A half of CMD written by itself (R319): the lower stores ARG, the upper starts the command. -/
def isCmdHalf (w : HostWrite) : Bool := !w.b64 && (w.off == 0x2000 || w.off == 0x2004)
def execRegisterWrite (w : HostWrite) (s : State) := event s fun s => s.hostWrite w fun off => isPlainReg off || isCmdHalf w

/-! ## Commands (R319): a write of CMD whole, CARG as it stands -/

def execBind (arg : Word) (s : State) := event s fun s => s.command 0x01 0 arg.toNat
def execUnbind (asid : BitVec 12) (arg : Word) (s : State) := event s fun s => s.command 0x02 asid.toNat arg.toNat
def execPreempt (asid : BitVec 12) (arg : Word) (s : State) := event s fun s => s.command 0x03 asid.toNat arg.toNat
def execResume (asid : BitVec 12) (arg : Word) (s : State) := event s fun s => s.command 0x04 asid.toNat arg.toNat
def execCanceljob (asid : BitVec 12) (arg : Word) (s : State) := event s fun s => s.command 0x05 asid.toNat arg.toNat
def execSetquota (asid : BitVec 12) (arg : Word) (s : State) := event s fun s => s.command 0x06 asid.toNat arg.toNat
def execTlbinv (asid : BitVec 12) (arg : Word) (s : State) := event s fun s => s.command 0x07 asid.toNat arg.toNat
def execFencelink (arg : Word) (s : State) := event s fun s => s.command 0x08 0 arg.toNat
def execUnfencelink (arg : Word) (s : State) := event s fun s => s.command 0x09 0 arg.toNat
def execFreeze (arg : Word) (s : State) := event s fun s => s.command 0x0A 0 arg.toNat
def execClearlog (arg : Word) (s : State) := event s fun s => s.command 0x0B 0 arg.toNat
/-- An OP that R319 does not list. -/
def execBadop (op : BitVec 8) (asid : BitVec 12) (arg : Word) (s : State) := event s fun s =>
  if 1 ≤ op.toNat ∧ op.toNat ≤ 0x0B then s else s.command op.toNat asid.toNat arg.toNat

/-! ## Host and peer accesses to device memory (R104, R317, R321) -/

/-- A cell that holds sibling state lies at an 8-byte location. -/
def State.sibHeld (s : State) (loc : Nat) : Bool := s.cells.any fun x => x.pa == loc

/-- The 8-byte locations that `n` bytes from `pa` on touch and that an access reaches: in device memory, and no cell that holds
sibling state. -/
def State.portLocs (s : State) (pa n : Nat) : List Nat :=
  (if n = 0 then [] else List.range' (pa / 8) ((pa % 8 + n + 7) / 8)).filter fun l => 8 * l < s.memSize && !s.sibHeld (8 * l)

/-- The bytes of `n` from `pa` on, location by location: each reads at its point of performance, or as all ones. -/
def State.portRead (s : State) (pa n : Nat) : State × List Byte :=
  let s := (s.portLocs pa n).foldl (fun s l => s.access none none true false (8 * l) 8) s
  (s, (List.range' pa n).map fun a => if a < s.memSize && !s.sibHeld (a / 8 * 8) then s.peek a else 0xFF)

/-- Bytes written, one access for each location: those beyond memory and those of refused locations are dropped. -/
def State.portWrite (s : State) (pa : Nat) (bs : List Byte) : State :=
  (s.portLocs pa bs.length).foldl (fun s l =>
    let a := max pa (8 * l)
    s.homeWrite none a ((bs.drop (a - pa)).take (8 * l + 8 - a))) s

/-- An access of `n` bytes reaches beyond device memory: one log entry, of the first such address (R317). -/
def State.beyond (s : State) (pa n : Nat) : State :=
  if n != 0 && pa + n > s.memSize then s.logError none 3 (max pa s.memSize) else s

/-- The flits of an access that comes in over the host port, or over a link, and of its answer (R331). -/
def State.portCount (s : State) (link : Bool) (req resp : Nat) : State :=
  if link then s.countHub 8 none (Config.flitsOf resp) else s.hostFlits req resp

/-- An atomic operation at one location (R169, R214): the old value, all ones where the access is refused or beyond memory. -/
def State.portAtomic (s : State) (op : AtomOp) (w64 nsg : Bool) (pa n b cmp : Nat) : State × List Byte :=
  if s.portLocs pa n = [] then (s, List.replicate n 0xFF) else
  let (s, bs) := s.homeRead none pa n
  (match atomNew op w64 nsg (leNat bs) b cmp with
    | some v => s.poke pa (leBytes n v)
    | none => s, bs)

/-- An access through BAR2, CXL.mem or a link; before RUN all are refused (R326). -/
def State.portAccess (s : State) (link : Bool) (a : MemAccess) : State :=
  match a with
  | .read pa n =>
    if !s.booted then { s with portOut := List.replicate n 0xFF }
    else
      let (s, bs) := (s.portCount link 0 n).portRead pa n
      { s.beyond pa n with portOut := bs }
  | .write pa bs => if !s.booted then s else ((s.portCount link bs.length 0).portWrite pa bs).beyond pa bs.length
  | .atomic op w64 nsg k b cmp =>
    let n := if w64 then 8 else 4
    if !s.booted then { s with portOut := List.replicate n 0xFF }
    else
      let (s, bs) := (s.portCount link n n).portAtomic op w64 nsg (n * k) n b cmp
      { s.beyond (n * k) n with portOut := bs }

/-- The range of host-managed device memory that the HDM decoders report: all of device memory with CXL.mem, none without (R316). -/
def State.hdmRange (s : State) : Option Nat := if s.build.cxlm then some s.memSize else none

/-- A host access through BAR2, or through CXL.mem, which reaches the device only where its decoders report a range (R316). -/
def execHostMemoryAccess (a : HostAccess) (s : State) := event s fun s =>
  if a.cxl && s.hdmRange.isNone then s else s.portAccess false a.access

def State.setLinkIn (s : State) (l : Nat) (q : List Incoming) : State := s.setLink l fun k => { k with inq := q }

/-- An access arrives over a link; behind a payload that waits it is held back (R324). -/
def execUmaryIncomingAccess (link : Nat) (a : MemAccess) (s : State) := event s fun s =>
  match s.links[link]? with
  | some l => if l.down then s else if l.inq.isEmpty then s.portAccess true a else s.setLinkIn link (l.inq ++ [.access a])
  | none => s

/-! ## Links -/

def execLinkDown (link : Nat) (s : State) := event s fun s =>
  match s.links[link]? with
  | some l => if l.down then s else (s.setLink link fun l => { l with down := true }).logError none 5 link
  | none => s
/-- A link retrains: its flits are counted, and a flit that was under way is sent again (R6, R333). -/
def execLinkRetraining (link : Nat) (s : State) := event s fun s =>
  if link < s.links.length then
    ((s.setLink link fun l => { l with down := false }).countHub 8 none (Config.flitsOf 0)).countHub 9 none 1
  else s

/-! ## Collective operations (R323 to R325) -/

/-- An operation can take a payload of a link and tag. -/
def Coll.wants (c : Coll) (link : Nat) (tag : Word) : Bool :=
  c.err.isNone && c.tag == tag && c.inmask.getLsbD link && !(c.taken.any fun t => t.1 == link)

/-- The operation that a payload of a link goes to: the earliest that wants it; none while an earlier one's descriptor is
still to be read. -/
def collFor (link : Nat) (tag : Word) : List Coll → Option Coll
  | [] => none
  | c :: cs => if c.desc.isSome then none else if c.wants link tag then some c else collFor link tag cs

/-- A payload is consumed by an operation. -/
def State.takePayload (s : State) (link : Nat) (p : Payload) (c : Coll) : State :=
  s.setColl c.id fun c => { c with
    taken := c.taken ++ [(link, p)]
    err := if p.count != c.count || p.fmt != c.fmt then some rMISMATCH else c.err }

/-- What stands at the head of a link's queue goes on (R324): payloads that are wanted are consumed, and the accesses behind them
are performed, up to a payload that waits. -/
def State.consumeLink : Nat → State → Nat → State
  | 0, s, _ => s
  | k + 1, s, link =>
    match (s.links[link]?).map Link.inq with
    | some (.payload p :: q) =>
      match collFor link p.tag s.colls with
      | none => s
      | some c => State.consumeLink k ((s.setLinkIn link q).takePayload link p c) link
    | some (.access a :: q) => State.consumeLink k ((s.setLinkIn link q).portAccess true a) link
    | _ => s
def State.consumeAll (s : State) : State :=
  (List.range s.links.length).foldl
    (fun s l => State.consumeLink ((s.links[l]?.map fun x => x.inq.length).getD 0) s l) s

/-- COLLECTIVE_START: the earliest operation forked by a group's store of an address reads its descriptor. -/
def State.beginColl (s : State) (grp : Nat) (va : Dword) : State :=
  match s.colls.find? fun c => c.grp == grp && c.desc == some va && !c.waiting with
  | some c => (s.readColl c va).consumeAll
  | none => s
def execCollectiveStart (grp : Nat) (va : Dword) (s : State) := event s fun s => s.beginColl grp va

/-- COLLECTIVE_PAYLOAD: a payload arrives on a link. -/
def execCollectivePayload (link : Nat) (p : Payload) (s : State) := event s fun s =>
  match s.links[link]? with
  | some l => if l.down || !s.booted then s else (s.setLinkIn link (l.inq ++ [.payload p])).consumeAll
  | none => s

/-- Payload formats (R323). -/
def collFmt : Nat → FFmt
  | 4 => .b16 | 5 => .f32 | 6 => .e4m3 | _ => .e5m2
def collBytes : Nat → Nat
  | 4 => 2 | 5 => 4 | _ => 1

/-- One element of R325 from its inputs in the payload format. -/
def collElem (c : Coll) (h e : Nat) (ins : List Nat) : Nat :=
  let f := collFmt c.fmt
  let xs := ins.map fun w => (convert (.flt .f32) (.flt f) .rn false w).bits
  let a := match xs with
    | [] => 0
    | x :: t => t.foldl (fun a x => if c.isMax then (fltMinMax .f32 true a x).1 else (add32 a x).bits) (canon .f32 x).1
  if c.fmt = 5 then a
  else (roundV f (if c.rs then .rs c.key (BitVec.ofNat 32 e) (BitVec.ofNat 32 h) else .rn) false (FFmt.f32.read a)).bits

/-- The hop count of a result. -/
def Coll.hop (c : Coll) : Nat := if c.inmask = 0 then 0 else 1 + (c.taken.map fun t => t.2.hop).foldl max 0

/-- Its inputs from links, ascending. -/
def Coll.inputs (c : Coll) : List (List Word) :=
  ((List.range 24).filter fun l => c.inmask.getLsbD l).filterMap fun l => (c.taken.find? fun t => t.1 == l).map fun t => t.2.data

/-- Every input is there. -/
def Coll.holdsAll (c : Coll) : Bool := (List.range 24).all fun l => !c.inmask.getLsbD l || c.taken.any fun t => t.1 == l

/-- Page types of SRC and DEST. -/
def collType (t : MType) : Bool := t == .normal || t == .row

/-- The operation ends with its completion word (R241). -/
def State.endColl (s : State) (c : Coll) (reason : Nat) : State :=
  let s := (s.signalWord c.grp c.asid c.cword (engWord reason)).dropColl c.id
  s.countHub 10 (some c.asid) 1

/-- An access that fails: a wait, or the end with a reason. -/
def State.failColl (s : State) (c : Coll) : EngFail → State
  | .absent va w => s.parkColl c va w
  | .fail r => s.endColl c r
  | .peer _ => s.endColl c rMEMTYPE

/-- The result of R325. -/
def collOut (c : Coll) (own : Option (List Nat)) : List Nat :=
  (List.range c.count).map fun e =>
    collElem c c.hop e ((own.map fun l => l.getD e 0).toList ++ c.inputs.map fun d => (d.getD e 0).toNat)

/-- An operation that holds its inputs computes, writes and sends. -/
def State.performColl (s : State) (c : Coll) : State :=
  let eb := collBytes c.fmt
  let r : State × Except EngFail (Option (List Nat)) :=
    if c.src = 0 then (s, .ok none)
    else match s.engRead none c.asid collType (byteAddrs c.src.toNat (eb * c.count)) with
      | (s, .error e) => (s, .error e)
      | (s, .ok bs) => (s, .ok (some ((List.range c.count).map fun e => leNat ((bs.drop (eb * e)).take eb))))
  match r with
  | (s, .error e) => s.failColl c e
  | (s, .ok own) =>
    let out := collOut c own
    let w : State × Except EngFail Unit :=
      if c.dest = 0 then (s, .ok ())
      else s.engWrite none c.asid collType ((byteAddrs c.dest.toNat (eb * c.count)).zip (out.flatMap (leBytes eb)))
    match w with
    | (s, .error e) => s.failColl c e
    | (s, .ok _) =>
      let p : Payload := ⟨c.tag, c.hop, c.count, c.fmt, out.map (BitVec.ofNat 32)⟩
      let links := (List.range 24).filter fun l => c.outmask.getLsbD l
      ({ s with linkOut := s.linkOut ++ links.map fun l => (l, p) }.countHub 8 (some c.asid)
        (links.length * Config.flitsOf (eb * c.count))).endColl c 0

/-- COLLECTIVE_COMPUTE: an operation with a reason, or with every input, ends; its completion word is looked at first. -/
def State.computeColl (s : State) (id : Nat) : State :=
  match s.colls.find? fun c => c.id == id with
  | none => s
  | some c =>
    if c.desc.isSome || c.waiting || !(c.err.isSome || c.holdsAll) then s else
    match s.collWord c with
    | (_, some code) => s.jobStop c.asid .traparea (wordCause code c.cword)
    | (.absent, none) => s.parkColl c c.cword.toNat true
    | (_, none) => match c.err with
      | some r => s.endColl c r
      | none => s.performColl c
def execCollectiveCompute (id : Nat) (s : State) := event s fun s => (s.computeColl id).consumeAll

/-! ## Boot and attestation (R326, R327) -/

/-- Cells of the sibling tables leave their first sibling in memory when the tables lose their contents (log entry 18). -/
def State.keptMem (s : State) : List Host.Cell :=
  s.cells.foldl (fun m x => cWrite m x.pa (leBytes 8 ((x.sibs.head?.map Sib.val).getD 0).toNat)) s.mem

/-- RESET: the machine of R326, with what a reset does not reach: the device's memory and its rows' errors, the attestation
index, and what belongs to the surroundings. The counts of corrected errors are cleared with the rest (DESIGN CHOICE, log entry
18). -/
def execReset (s : State) : Host.Outcome State Fault Refusal :=
  .next { State.resetOf s.build s.nvIndex with
    turns := s.turns, cur := s.cur, hostMem := s.hostMem, hostRanges := s.hostRanges, peerMem := s.peerMem
    mem := s.keptMem, poisoned := s.poisoned, hardErrs := s.hardErrs, softErrs := s.softErrs }

/-- LOSS_OF_POWER: all is lost but the attestation index (R327). -/
def execLossOfPower (s : State) : Host.Outcome State Fault Refusal :=
  .next { State.resetOf s.build s.nvIndex with
    turns := s.turns, cur := s.cur, hostMem := s.hostMem, hostRanges := s.hostRanges, peerMem := s.peerMem }

def execBootVerifyComplete (ok : Bool) (s : State) := event s fun s =>
  if s.mgmt.boot = 0 then s.setMgmt fun m => { m with boot := if ok then 1 else 2 } else s

/-- The body of a report (R327). -/
def State.reportBody (s : State) : List Byte :=
  (List.range 32).map Config.firmwareHashByte ++ (List.range 4).flatMap (fun k => leBytes 4 (s.regRead (4 * k)).toNat) ++
  leBytes 4 s.mgmt.devnum.toNat ++ leBytes 4 s.nvIndex ++ s.mgmt.nonce ++ List.replicate 40 0

/-- The bytes of a number, the highest first. -/
def beBytes (n v : Nat) : List Byte := (leBytes n v).reverse

/-- The LMS signature as RFC 8554 encodes it for the parameter sets of R327: the one-time index q, the type code of
LMOTS_SHA256_N32_W8, C and its 34 chain values, the type code of LMS_SHA256_M32_H20, and the path of 20 nodes. The codes, 4 and 8,
are RFC 8554's (PRESUMED, log entry 80); what depends on the key is free. -/
def lmsSignature (q : Nat) (body : List Byte) : List Byte :=
  beBytes 4 q ++ beBytes 4 4 ++ (List.range' 8 1120).map (Config.signatureByte q body) ++ beBytes 4 8 ++
    (List.range' 1132 640).map (Config.signatureByte q body)

/-- ATTESTATION_REPORT: the stored index advances before the signature is released. -/
def State.report (s : State) : State :=
  if s.mgmt.astat ≠ 1 then s else
  let body := s.reportBody
  ({ s with nvIndex := s.nvIndex + 1 }.setMgmt fun m =>
    { m with astat := 2, report := body ++ lmsSignature s.nvIndex body }).sendMsix 68 none
def execAttestationReport (s : State) := event s fun s => s.report

/-! ## Freeze and readout (R328, R329) -/

def execFreezeN (s : State) : Host.Outcome State Fault Refusal := .next { s with frozen := true }

/-- Bytes of device memory as they are stored: a sibling cell's memory holds its first sibling (R124). -/
def execReadmem (pa : BitVec 52) (len : Word) (s : State) : Host.Outcome State Fault Refusal :=
  .next { s with tapIr := 0x21, tapOut := cRead s.keptMem pa.toNat len.toNat }

/-- STATE of a thread record. -/
def Thread.stateCode (t : Thread) : Nat :=
  match t.status with
  | .ready => if t.free then 0 else 1
  | .blocked _ _ => 1
  | .parked => 2
  | .trapped _ => 3
  | .exited => 4

/-- dN awaits a long-latency result. -/
def Thread.awaits (t : Thread) (n : Nat) : Bool :=
  t.windows.any fun w => w.dset.contains (.d n) && match w.res with | .vals ws => !ws.isEmpty | _ => true

/-- A thread's record (R329). -/
def threadRecord (g : Group) (tid : Nat) (t : Thread) : List Byte :=
  leBytes 8 t.pc.toNat ++ leBytes 4 g.launch ++ leBytes 4 g.gid ++ leBytes 4 t.depth ++ leBytes 2 tid ++
  [BitVec.ofNat 8 g.core, BitVec.ofNat 8 (t.d.length - 1), BitVec.ofNat 8 (128 + t.q.toNat % 128), t.fstat.setWidth 8,
    t.fmode.setWidth 8, BitVec.ofNat 8 t.stateCode] ++ leBytes 4 g.asid ++
  leBytes 32 ((List.range 256).foldl (fun m n => if t.awaits n then m + 2 ^ n else m) 0) ++ t.d.flatMap fun v => leBytes 4 v.toNat

/-- A number put in its place, ascending, once. -/
def insertNat (n : Nat) : List Nat → List Nat
  | [] => [n]
  | a :: t => if n < a then n :: a :: t else if n = a then a :: t else a :: insertNat n t

/-- Records of a core's resident threads in ascending (%gid, %tid). Only on a frozen device do they show exited threads, whose
registers nothing else reads (R184); of a running one READTHR leaves these out (DESIGN CHOICE, log entry 79). -/
def State.threadRecords (s : State) (core : Nat) : List (List Byte) :=
  let gs := s.residents core
  (gs.foldl (fun l g => insertNat g.gid l) []).flatMap fun n => (List.range 1024).flatMap fun t =>
    (gs.filter fun g => g.gid == n).filterMap fun g =>
      ((g.threads[t]?).filter fun th => s.frozen || th.live).map (threadRecord g t)

def execReadthr (core : BitVec 8) (s : State) : Host.Outcome State Fault Refusal :=
  let recs := s.threadRecords core.toNat
  .next { s with tapIr := 0x22, tapOut := leBytes 4 recs.length ++ recs.flatten }

/-! ## Temperature (R5, R209, R336) -/

def execStackOver85c (stack : Nat) (hot : Bool) (s : State) := event s fun s =>
  if stack < s.numStacks then
    s.setMgmt fun m => { m with periods := m.periods.set stack (if hot then 16000 else 32000) }
  else s

/-- THERMTRIP: the pin is asserted and the device freezes. -/
def execThermtrip (s : State) : Host.Outcome State Fault Refusal := .next { s with tripPin := true, frozen := true }

end Sys2Proof.Machine
end

