-- ==== Sys2Proof/Machine/TileInstr.lean ====
section
/-! DEFINITION. Tile, cluster-reduction and grammar instructions (R254 to R260, R270 to R276): each thread's checks, and its
signature. -/

namespace Sys2Proof.Machine

/-- Operand words of a quad, then a register. -/
def Ctx.words (c : Ctx) (q : DReg) (b : DReg) : List Word := [c.t.dreg q.toNat, c.t.dreg (q.toNat + 1), c.t.dreg (q.toNat + 2),
  c.t.dreg (q.toNat + 3), c.r b]

def execMma (h : Hdr) (f : LFmt) (q b : DReg) (k : BitVec 4) (s : State) :=
  issue (.mma h f q b k) s fun c s => Eff.of do
    mmaCheck c.g f (c.quadW q 0) (c.quadW q 1) (c.quadW q 2) (c.quadW q 3) (c.r b).toNat
    .ok (s.sign c (.mma h f q b k) k.toNat (c.words q b) false)

def execMmz (h : Hdr) (a b : DReg) (k : BitVec 4) (s : State) :=
  issue (.mmz h a b k) s fun c s => Eff.of do
    mmzCheck c.g (c.r a).toNat (c.r b).toNat
    .ok (s.sign c (.mmz h a b k) k.toNat [c.r a, c.r b] false)

/-- Operand words of a weight load: the slot, the record's address, the coordinates, the barrier. -/
def Ctx.wbldWords (c : Ctx) (sl n q b : DReg) : List Word :=
  [BitVec.ofNat 32 (bits (c.r sl).toNat 4 0), loWord (c.rr n), hiWord (c.rr n), c.t.dreg q.toNat, c.t.dreg (q.toNat + 1),
    c.t.dreg (q.toNat + 2), c.t.dreg (q.toNat + 3), c.r b]

def execWbld (h : Hdr) (sl n q b : DReg) (k : BitVec 4) (s : State) :=
  issue (.wbld h sl n q b k) s fun c s => Eff.of do
    wbldCheck s c.g (bits (c.r sl).toNat 4 0) (c.rr n) (c.r b).toNat
    .ok (s.sign c (.wbld h sl n q b k) k.toNat (c.wbldWords sl n q b) false)
def execWbldSparse (h : Hdr) (sl n q b : DReg) (k : BitVec 4) (s : State) :=
  issue (.wbldSparse h sl n q b k) s fun c s => Eff.of do
    wbldCheck s c.g (bits (c.r sl).toNat 4 0) (c.rr n) (c.r b).toNat
    .ok (s.sign c (.wbldSparse h sl n q b k) k.toNat (c.wbldWords sl n q b) false)

def execWbrel (h : Hdr) (b : DReg) (k : BitVec 4) (s : State) :=
  issue (.wbrel h b k) s fun c s => Eff.of do
    wbrelCheck c.g (c.r b).toNat
    .ok (s.sign c (.wbrel h b k) k.toNat [c.r b] false)

def execAccld (h : Hdr) (f : LFmt) (q b : DReg) (k : BitVec 4) (s : State) :=
  issue (.accld h f q b k) s fun c s => Eff.of do
    accCheck c.g f (c.quadW q 0) (c.quadW q 1) (c.quadW q 2) (c.r b).toNat
    .ok (s.sign c (.accld h f q b k) k.toNat (c.words q b) false)
def execAccst (h : Hdr) (f : LFmt) (q b : DReg) (k : BitVec 4) (s : State) :=
  issue (.accst h f q b k) s fun c s => Eff.of do
    accCheck c.g f (c.quadW q 0) (c.quadW q 1) (c.quadW q 2) (c.r b).toNat
    .ok (s.sign c (.accst h f q b k) k.toNat (c.words q b) false)

/-! ## Cluster reductions -/

def execCredSmx (h : Hdr) (d sr b kk : DReg) (k : BitVec 4) (s : State) :=
  issue (.credSmx h d sr b kk k) s fun c s => Eff.of do
    credCheck s c.g .smx (c.r d).toNat (c.r sr).toNat (c.r b).toNat (c.r kk).toNat
    .ok (s.sign c (.credSmx h d sr b kk k) k.toNat [c.r d, c.r sr, c.r b, c.r kk] false)
def execCredSum (h : Hdr) (d sr b kk : DReg) (k : BitVec 4) (s : State) :=
  issue (.credSum h d sr b kk k) s fun c s => Eff.of do
    credCheck s c.g .sum (c.r d).toNat (c.r sr).toNat (c.r b).toNat (c.r kk).toNat
    .ok (s.sign c (.credSum h d sr b kk k) k.toNat [c.r d, c.r sr, c.r b, c.r kk] false)
def execCredMax (h : Hdr) (d sr b kk : DReg) (k : BitVec 4) (s : State) :=
  issue (.credMax h d sr b kk k) s fun c s => Eff.of do
    credCheck s c.g .max (c.r d).toNat (c.r sr).toNat (c.r b).toNat (c.r kk).toNat
    .ok (s.sign c (.credMax h d sr b kk k) k.toNat [c.r d, c.r sr, c.r b, c.r kk] false)

/-! ## Grammar instructions -/

def execGseg (h : Hdr) (d n : DReg) (k : BitVec 4) (s : State) :=
  issue (.gseg h d n k) s fun c s => Eff.of do
    let a := c.rr n
    aligned a.toNat 32
    if a ≠ 0 then
      let _ ← s.global c.g.asid a .read isNormal
    .ok (s.sign c (.gseg h d n k) k.toNat [loWord a, hiWord a] false)

/-- The checks of a binding (R273). Of a misaligned VSTRIDE the record's ADDR is the stride itself (DESIGN CHOICE, log entry 106). -/
def gvecCheck (g : Group) (b : Binding) : Except Eff Unit := do
  aligned b.off 4
  aligned b.vstride 4
  inScratch g b.off ((b.nv - 1) * b.vstride + b.len * (if b.b16 then 2 else 4))

def execGvec (h : Hdr) (d q : DReg) (k : BitVec 4) (s : State) :=
  issue (.gvec h d q k) s fun c s => Eff.of do
    gvecCheck c.g (bindingOf ((c.quad q).map (BitVec.ofNat 32)))
    .ok (s.sign c (.gvec h d q k) k.toNat ((c.quad q).map (BitVec.ofNat 32)) false)
def execGrun (h : Hdr) (d : DReg) (k : BitVec 4) (s : State) :=
  issue (.grun h d k) s fun c s => s.sign c (.grun h d k) k.toNat [] false
def execGout (h : Hdr) (d : DReg) (k : BitVec 4) (s : State) :=
  issue (.gout h d k) s fun c s => s.sign c (.gout h d k) k.toNat [] false

/-- The operations that a thread's GWAIT joins (R276): those up to the last whose instance it signed. -/
def joined (t : Nat) : List GramOp → List GramOp
  | [] => []
  | o :: os =>
    match joined t os with
    | [] => if o.signers.getLsbD t then [o] else []
    | js => o :: js

/-- GWAIT (R276). The fault of the last joined operation is raised also where its segment has closed since (DESIGN CHOICE, log entry 107:
R276 has it raised again while the segment holds it, and says nothing of later). -/
def execGwait (h : Hdr) (d : DReg) (s : State) :=
  issue (.gwait h d) s fun c s =>
    let js := joined c.ref.tid c.g.gram
    let word (v : Nat) : Eff := .done s (toD d (BitVec.ofNat 32 v))
    match js.getLast? with
    | none => word gDONE
    | some last =>
      if js.any fun o => o.res.isNone then .poll (.grammar (js.map GramOp.id))
      else match last.res with
        | none => word gDONE
        | some .ok => word gDONE
        | some (.err r) => word (gERROR r)
        | some (.stream code i n) => .trap (code.detail i n)

end Sys2Proof.Machine
end

