-- ==== Sys2Proof/Machine/Short.lean ====
section
/-! DEFINITION. Shorts (R49, R63 to R67): the expansion of a short is executed as the instruction it stands for. -/

namespace Sys2Proof.Machine

/-- A full-length instruction executed for the current thread; a short has no expansion that is a short (R69), and the steps
of the device are no thread's. -/
def execFull (i : Instr) (s : State) : Host.Outcome State Fault Refusal :=
  match i with
  | .short _ _ _ _ _ => .next s
  | .shortNop _ _ _ _ => .next s
  | .iadd x0 x1 x2 x3 => execIadd x0 x1 x2 x3 s
  | .isub x0 x1 x2 x3 => execIsub x0 x1 x2 x3 s
  | .imul x0 x1 x2 x3 => execImul x0 x1 x2 x3 s
  | .imulh x0 x1 x2 x3 x4 => execImulh x0 x1 x2 x3 x4 s
  | .imad x0 x1 x2 x3 x4 => execImad x0 x1 x2 x3 x4 s
  | .imadw x0 x1 x2 x3 x4 x5 => execImadw x0 x1 x2 x3 x4 x5 s
  | .ineg x0 x1 x2 => execIneg x0 x1 x2 s
  | .iabs x0 x1 x2 => execIabs x0 x1 x2 s
  | .imin x0 x1 x2 x3 x4 => execImin x0 x1 x2 x3 x4 s
  | .imax x0 x1 x2 x3 x4 => execImax x0 x1 x2 x3 x4 s
  | .ishl x0 x1 x2 x3 => execIshl x0 x1 x2 x3 s
  | .ishr x0 x1 x2 x3 => execIshr x0 x1 x2 x3 s
  | .ilsr x0 x1 x2 x3 => execIlsr x0 x1 x2 x3 s
  | .irot x0 x1 x2 x3 => execIrot x0 x1 x2 x3 s
  | .iand x0 x1 x2 x3 => execIand x0 x1 x2 x3 s
  | .ior x0 x1 x2 x3 => execIor x0 x1 x2 x3 s
  | .ixor x0 x1 x2 x3 => execIxor x0 x1 x2 x3 s
  | .iandn x0 x1 x2 x3 => execIandn x0 x1 x2 x3 s
  | .inot x0 x1 x2 => execInot x0 x1 x2 s
  | .ipopc x0 x1 x2 => execIpopc x0 x1 x2 s
  | .iclz x0 x1 x2 => execIclz x0 x1 x2 s
  | .ibrev x0 x1 x2 => execIbrev x0 x1 x2 s
  | .ibfe x0 x1 x2 x3 x4 => execIbfe x0 x1 x2 x3 x4 s
  | .ibfi x0 x1 x2 x3 x4 => execIbfi x0 x1 x2 x3 x4 s
  | .idiv x0 x1 x2 x3 x4 => execIdiv x0 x1 x2 x3 x4 s
  | .irem x0 x1 x2 x3 x4 => execIrem x0 x1 x2 x3 x4 s
  | .isel x0 x1 x2 x3 x4 x5 => execIsel x0 x1 x2 x3 x4 x5 s
  | .icmp x0 x1 x2 x3 x4 => execIcmp x0 x1 x2 x3 x4 s
  | .ladd x0 x1 x2 x3 x4 => execLadd x0 x1 x2 x3 x4 s
  | .lsub x0 x1 x2 x3 x4 => execLsub x0 x1 x2 x3 x4 s
  | .lmul x0 x1 x2 x3 x4 => execLmul x0 x1 x2 x3 x4 s
  | .lshl x0 x1 x2 x3 => execLshl x0 x1 x2 x3 s
  | .lshr x0 x1 x2 x3 x4 => execLshr x0 x1 x2 x3 x4 s
  | .aadd x0 x1 x2 x3 x4 x5 => execAadd x0 x1 x2 x3 x4 x5 s
  | .alea x0 x1 x2 x3 x4 x5 => execAlea x0 x1 x2 x3 x4 x5 s
  | .fadd x0 x1 x2 x3 x4 => execFadd x0 x1 x2 x3 x4 s
  | .fsub x0 x1 x2 x3 x4 => execFsub x0 x1 x2 x3 x4 s
  | .fmul x0 x1 x2 x3 x4 => execFmul x0 x1 x2 x3 x4 s
  | .ffma x0 x1 x2 x3 x4 x5 => execFfma x0 x1 x2 x3 x4 x5 s
  | .fdiv x0 x1 x2 x3 x4 => execFdiv x0 x1 x2 x3 x4 s
  | .fmin x0 x1 x2 x3 => execFmin x0 x1 x2 x3 s
  | .fmax x0 x1 x2 x3 => execFmax x0 x1 x2 x3 s
  | .fcmp x0 x1 x2 x3 x4 => execFcmp x0 x1 x2 x3 x4 s
  | .fsel x0 x1 x2 x3 x4 x5 => execFsel x0 x1 x2 x3 x4 x5 s
  | .fclass x0 x1 x2 => execFclass x0 x1 x2 s
  | .fscale x0 x1 x2 x3 x4 => execFscale x0 x1 x2 x3 x4 s
  | .frint x0 x1 x2 x3 => execFrint x0 x1 x2 x3 s
  | .ffrac x0 x1 x2 => execFfrac x0 x1 x2 s
  | .frcp x0 x1 x2 => execFrcp x0 x1 x2 s
  | .frsq x0 x1 x2 => execFrsq x0 x1 x2 s
  | .fex2 x0 x1 x2 => execFex2 x0 x1 x2 s
  | .flg2 x0 x1 x2 => execFlg2 x0 x1 x2 s
  | .hadd2 x0 x1 x2 x3 x4 x5 => execHadd2 x0 x1 x2 x3 x4 x5 s
  | .hmul2 x0 x1 x2 x3 x4 x5 => execHmul2 x0 x1 x2 x3 x4 x5 s
  | .hfma2 x0 x1 x2 x3 x4 x5 x6 => execHfma2 x0 x1 x2 x3 x4 x5 x6 s
  | .cvt x0 x1 x2 x3 x4 x5 x6 => execCvt x0 x1 x2 x3 x4 x5 x6 s
  | .dxpack x0 x1 x2 x3 x4 => execDxpack x0 x1 x2 x3 x4 s
  | .dxunpack x0 x1 x2 x3 x4 => execDxunpack x0 x1 x2 x3 x4 s
  | .pack x0 x1 x2 x3 x4 => execPack x0 x1 x2 x3 x4 s
  | .unpack x0 x1 x2 x3 => execUnpack x0 x1 x2 x3 s
  | .mov x0 x1 x2 x3 => execMov x0 x1 x2 x3 s
  | .movi x0 x1 x2 x3 => execMovi x0 x1 x2 x3 s
  | .sread x0 x1 x2 => execSread x0 x1 x2 s
  | .swrite x0 x1 x2 => execSwrite x0 x1 x2 s
  | .bmix x0 x1 x2 x3 x4 => execBmix x0 x1 x2 x3 x4 s
  | .pset x0 x1 x2 x3 x4 => execPset x0 x1 x2 x3 x4 s
  | .plop x0 x1 x2 x3 x4 x5 x6 => execPlop x0 x1 x2 x3 x4 x5 x6 s
  | .bra x0 x1 => execBra x0 x1 s
  | .braU x0 x1 => execBraU x0 x1 s
  | .brx x0 x1 => execBrx x0 x1 s
  | .call x0 x1 => execCall x0 x1 s
  | .callx x0 x1 => execCallx x0 x1 s
  | .ret x0 => execRet x0 s
  | .exit x0 => execExit x0 s
  | .nop x0 => execNop x0 s
  | .yield x0 => execYield x0 s
  | .cvset x0 x1 x2 x3 x4 => execCvset x0 x1 x2 x3 x4 s
  | .cvsign x0 x1 => execCvsign x0 x1 s
  | .shfl x0 x1 x2 x3 x4 x5 => execShfl x0 x1 x2 x3 x4 x5 s
  | .voteAll x0 x1 x2 x3 x4 => execVoteAll x0 x1 x2 x3 x4 s
  | .voteAny x0 x1 x2 x3 x4 => execVoteAny x0 x1 x2 x3 x4 s
  | .voteBallot x0 x1 x2 x3 x4 x5 => execVoteBallot x0 x1 x2 x3 x4 x5 s
  | .redux x0 x1 x2 x3 x4 x5 => execRedux x0 x1 x2 x3 x4 x5 s
  | .scan x0 x1 x2 x3 x4 x5 x6 => execScan x0 x1 x2 x3 x4 x5 x6 s
  | .barArrive x0 x1 x2 => execBarArrive x0 x1 x2 s
  | .barWait x0 x1 => execBarWait x0 x1 s
  | .barSync x0 x1 x2 => execBarSync x0 x1 x2 s
  | .qcfg x0 x1 x2 x3 => execQcfg x0 x1 x2 x3 s
  | .qpush x0 x1 x2 x3 x4 => execQpush x0 x1 x2 x3 x4 s
  | .qpop x0 x1 x2 x3 x4 x5 => execQpop x0 x1 x2 x3 x4 x5 s
  | .ld x0 x1 x2 x3 x4 x5 => execLd x0 x1 x2 x3 x4 x5 s
  | .st x0 x1 x2 x3 x4 x5 => execSt x0 x1 x2 x3 x4 x5 s
  | .lds x0 x1 x2 x3 x4 x5 => execLds x0 x1 x2 x3 x4 x5 s
  | .sts x0 x1 x2 x3 x4 x5 => execSts x0 x1 x2 x3 x4 x5 s
  | .ldr x0 x1 x2 x3 x4 x5 => execLdr x0 x1 x2 x3 x4 x5 s
  | .str x0 x1 x2 x3 x4 x5 => execStr x0 x1 x2 x3 x4 x5 s
  | .ldp x0 x1 x2 x3 x4 => execLdp x0 x1 x2 x3 x4 s
  | .atom x0 x1 x2 x3 x4 x5 x6 x7 => execAtom x0 x1 x2 x3 x4 x5 x6 x7 s
  | .red x0 x1 x2 x3 x4 x5 => execRed x0 x1 x2 x3 x4 x5 s
  | .fence x0 x1 x2 => execFence x0 x1 x2 s
  | .cctlRange x0 x1 x2 => execCctlRange x0 x1 x2 s
  | .cctlAll x0 => execCctlAll x0 s
  | .pref x0 x1 x2 => execPref x0 x1 x2 s
  | .sld x0 x1 x2 x3 => execSld x0 x1 x2 x3 s
  | .sst x0 x1 x2 x3 x4 => execSst x0 x1 x2 x3 x4 s
  | .sstT x0 x1 x2 x3 x4 => execSstT x0 x1 x2 x3 x4 s
  | .recon x0 x1 x2 x3 x4 => execRecon x0 x1 x2 x3 x4 s
  | .reconSet x0 x1 x2 x3 x4 => execReconSet x0 x1 x2 x3 x4 s
  | .rowreg x0 x1 x2 => execRowreg x0 x1 x2 s
  | .rowreq x0 x1 x2 => execRowreq x0 x1 x2 s
  | .rowwait x0 x1 x2 => execRowwait x0 x1 x2 s
  | .rowqry x0 x1 x2 => execRowqry x0 x1 x2 s
  | .rowcancel x0 x1 x2 => execRowcancel x0 x1 x2 s
  | .cpy x0 x1 x2 x3 x4 x5 x6 x7 => execCpy x0 x1 x2 x3 x4 x5 x6 x7 s
  | .cpyo x0 x1 x2 x3 x4 x5 x6 => execCpyo x0 x1 x2 x3 x4 x5 x6 s
  | .cpyhTo x0 x1 x2 x3 x4 x5 x6 => execCpyhTo x0 x1 x2 x3 x4 x5 x6 s
  | .cpyhFrom x0 x1 x2 x3 x4 x5 x6 => execCpyhFrom x0 x1 x2 x3 x4 x5 x6 s
  | .cpyx x0 x1 x2 x3 x4 x5 => execCpyx x0 x1 x2 x3 x4 x5 s
  | .arvInit x0 x1 x2 x3 => execArvInit x0 x1 x2 x3 s
  | .arvWait x0 x1 x2 x3 => execArvWait x0 x1 x2 x3 s
  | .arvTest x0 x1 x2 x3 => execArvTest x0 x1 x2 x3 s
  | .arvAdd x0 x1 x2 x3 => execArvAdd x0 x1 x2 x3 s
  | .mma x0 x1 x2 x3 x4 => execMma x0 x1 x2 x3 x4 s
  | .mmz x0 x1 x2 x3 => execMmz x0 x1 x2 x3 s
  | .wbld x0 x1 x2 x3 x4 x5 => execWbld x0 x1 x2 x3 x4 x5 s
  | .wbldSparse x0 x1 x2 x3 x4 x5 => execWbldSparse x0 x1 x2 x3 x4 x5 s
  | .wbrel x0 x1 x2 => execWbrel x0 x1 x2 s
  | .accld x0 x1 x2 x3 x4 => execAccld x0 x1 x2 x3 x4 s
  | .accst x0 x1 x2 x3 x4 => execAccst x0 x1 x2 x3 x4 s
  | .credSmx x0 x1 x2 x3 x4 x5 => execCredSmx x0 x1 x2 x3 x4 x5 s
  | .credSum x0 x1 x2 x3 x4 x5 => execCredSum x0 x1 x2 x3 x4 x5 s
  | .credMax x0 x1 x2 x3 x4 x5 => execCredMax x0 x1 x2 x3 x4 x5 s
  | .gseg x0 x1 x2 x3 => execGseg x0 x1 x2 x3 s
  | .gvec x0 x1 x2 x3 => execGvec x0 x1 x2 x3 s
  | .grun x0 x1 x2 => execGrun x0 x1 x2 s
  | .gout x0 x1 x2 => execGout x0 x1 x2 s
  | .gwait x0 x1 => execGwait x0 x1 s
  | .dictLoad x0 x1 x2 => execDictLoad x0 x1 x2 s
  | .dictRead x0 x1 x2 => execDictRead x0 x1 x2 s
  | .fenceF x0 => execFenceF x0 s
  | .launch x0 x1 x2 => execLaunch x0 x1 x2 s
  | .cntWait x0 x1 x2 x3 x4 => execCntWait x0 x1 x2 x3 x4 s
  | .cancel x0 x1 x2 x3 => execCancel x0 x1 x2 x3 s
  | .tapePush x0 x1 x2 => execTapePush x0 x1 x2 s
  | .trap x0 x1 => execTrap x0 x1 s
  | .assert x0 x1 x2 => execAssert x0 x1 x2 s
  | .resumeRetry x0 => execResumeRetry x0 s
  | .resumeSkip x0 => execResumeSkip x0 s
  | .kill x0 => execKill x0 s
  | .srd x0 x1 x2 => execSrd x0 x1 x2 s
  | .swr x0 x1 x2 => execSwr x0 x1 x2 s
  | .tlbinvAll x0 => execTlbinvAll x0 s
  | .tlbinvPage x0 x1 => execTlbinvPage x0 x1 s
  | .gswap x0 x1 x2 => execGswap x0 x1 x2 s
  | .resultDelivery _ => .next s
  | .runPick _ _ => .next s
  | .quantumExpiry _ => .next s
  | .groupSwapOut _ => .next s
  | .groupSwapIn _ _ => .next s
  | .launchQueueTake _ => .next s
  | .groupStart _ _ _ => .next s
  | .launchCompletion _ _ => .next s
  | .tapeReplay _ => .next s
  | .tapePop _ => .next s
  | .copyOperation _ => .next s
  | .tileOperation _ => .next s
  | .wbldOperation _ => .next s
  | .credResultWrite _ => .next s
  | .grunEvaluation _ => .next s
  | .goutOperation _ => .next s
  | .rowReachBank _ _ => .next s
  | .sweepVisit _ => .next s
  | .floorRaise _ _ => .next s
  | .faultBufferEntryFree _ => .next s
  | .jreplay _ => .next s
  | .handlerGroupStart _ _ => .next s
  | .quotaTrap _ _ _ => .next s
  | .stopRecordWrite _ => .next s
  | .preemptStage2 _ => .next s
  | .preemptStage3 _ => .next s
  | .qbaseQctlWrite _ => .next s
  | .qwrWrite _ => .next s
  | .bind _ => .next s
  | .unbind _ _ => .next s
  | .preempt _ _ => .next s
  | .resume _ _ => .next s
  | .canceljob _ _ => .next s
  | .setquota _ _ => .next s
  | .tlbinv _ _ => .next s
  | .fencelink _ => .next s
  | .unfencelink _ => .next s
  | .freeze _ => .next s
  | .clearlog _ => .next s
  | .badop _ _ _ => .next s
  | .errorLogFree _ => .next s
  | .attestationRequest _ => .next s
  | .attestationReport => .next s
  | .plimitWrite _ => .next s
  | .cethreshWrite _ => .next s
  | .registerWrite _ => .next s
  | .hostMemoryAccess _ => .next s
  | .umaryIncomingAccess _ _ => .next s
  | .linkDown _ => .next s
  | .collectiveStart _ _ => .next s
  | .collectivePayload _ _ => .next s
  | .collectiveCompute _ => .next s
  | .reset => .next s
  | .bootVerifyComplete _ => .next s
  | .freezeN => .next s
  | .readmem _ _ => .next s
  | .readthr _ => .next s
  | .stackOver85c _ _ => .next s
  | .thermtrip => .next s
  | .illegalOpcode x0 => execIllegalOpcode x0 s
  | .linkRetraining _ => .next s
  | .lossOfPower => .next s

/-- Bits at a pc, or an expansion, executed as a full-length instruction. -/
def execBits (w : BitVec 128) (s : State) : Host.Outcome State Fault Refusal :=
  match decode w with
  | .ok i => execFull i s
  | .error (.illegalVariant r) => execIllegalVariant r s

/-- The state that an outcome leaves with the thread it was executed for as before. -/
def keepCur (c : Cur) : Host.Outcome State Fault Refusal → Host.Outcome State Fault Refusal
  | .next s => .next { s with cur := c }
  | o => o

/-- A short (R65): its expansion, at pc with next at pc + 4, or DICT_UNDEFINED (R66, R67). -/
def execShort (b : Bool) (idx : BitVec 8) (h0 h1 h2 : BitVec 7) (s : State) : Host.Outcome State Fault Refusal :=
  match s.groups[s.cur.ref.grp]?, s.thr s.cur.ref with
  | some g, some _ =>
    let w := shortBits b idx h0 h1 h2
    match s.expand g b idx.toNat [h0, h1, h2] with
    | none => .next (s.takeTrap s.cur.ref none (some w) (FCode.dictUndefined.at 0))
    | some x => keepCur s.cur (execBits x { s with cur := ⟨s.cur.ref, some w⟩ })
  | _, _ => .fault .noThread

/-- INDEX 0 (R49): NOP with the short's B bit, which ends the run. -/
def execShortNop (b : Bool) (h0 h1 h2 : BitVec 7) (s : State) : Host.Outcome State Fault Refusal :=
  keepCur s.cur (execNop { Hdr.plain with bnd := b } { s with cur := ⟨s.cur.ref, some (shortBits b 0 h0 h1 h2)⟩ })

end Sys2Proof.Machine
end

