-- ==== Sys2Proof/Machine/Dispatch.lean ====
section
/-! DEFINITION. Dispatch of an instruction or a step of the device to its meaning. -/

namespace Sys2Proof.Machine

def exec (i : Instr) (s : State) : Host.Outcome State Fault Refusal :=
  match i with
  | .short x0 x1 x2 x3 x4 => Sys2Proof.Machine.execShort x0 x1 x2 x3 x4 s
  | .shortNop x0 x1 x2 x3 => Sys2Proof.Machine.execShortNop x0 x1 x2 x3 s
  | .iadd x0 x1 x2 x3 => Sys2Proof.Machine.execIadd x0 x1 x2 x3 s
  | .isub x0 x1 x2 x3 => Sys2Proof.Machine.execIsub x0 x1 x2 x3 s
  | .imul x0 x1 x2 x3 => Sys2Proof.Machine.execImul x0 x1 x2 x3 s
  | .imulh x0 x1 x2 x3 x4 => Sys2Proof.Machine.execImulh x0 x1 x2 x3 x4 s
  | .imad x0 x1 x2 x3 x4 => Sys2Proof.Machine.execImad x0 x1 x2 x3 x4 s
  | .imadw x0 x1 x2 x3 x4 x5 => Sys2Proof.Machine.execImadw x0 x1 x2 x3 x4 x5 s
  | .ineg x0 x1 x2 => Sys2Proof.Machine.execIneg x0 x1 x2 s
  | .iabs x0 x1 x2 => Sys2Proof.Machine.execIabs x0 x1 x2 s
  | .imin x0 x1 x2 x3 x4 => Sys2Proof.Machine.execImin x0 x1 x2 x3 x4 s
  | .imax x0 x1 x2 x3 x4 => Sys2Proof.Machine.execImax x0 x1 x2 x3 x4 s
  | .ishl x0 x1 x2 x3 => Sys2Proof.Machine.execIshl x0 x1 x2 x3 s
  | .ishr x0 x1 x2 x3 => Sys2Proof.Machine.execIshr x0 x1 x2 x3 s
  | .ilsr x0 x1 x2 x3 => Sys2Proof.Machine.execIlsr x0 x1 x2 x3 s
  | .irot x0 x1 x2 x3 => Sys2Proof.Machine.execIrot x0 x1 x2 x3 s
  | .iand x0 x1 x2 x3 => Sys2Proof.Machine.execIand x0 x1 x2 x3 s
  | .ior x0 x1 x2 x3 => Sys2Proof.Machine.execIor x0 x1 x2 x3 s
  | .ixor x0 x1 x2 x3 => Sys2Proof.Machine.execIxor x0 x1 x2 x3 s
  | .iandn x0 x1 x2 x3 => Sys2Proof.Machine.execIandn x0 x1 x2 x3 s
  | .inot x0 x1 x2 => Sys2Proof.Machine.execInot x0 x1 x2 s
  | .ipopc x0 x1 x2 => Sys2Proof.Machine.execIpopc x0 x1 x2 s
  | .iclz x0 x1 x2 => Sys2Proof.Machine.execIclz x0 x1 x2 s
  | .ibrev x0 x1 x2 => Sys2Proof.Machine.execIbrev x0 x1 x2 s
  | .ibfe x0 x1 x2 x3 x4 => Sys2Proof.Machine.execIbfe x0 x1 x2 x3 x4 s
  | .ibfi x0 x1 x2 x3 x4 => Sys2Proof.Machine.execIbfi x0 x1 x2 x3 x4 s
  | .idiv x0 x1 x2 x3 x4 => Sys2Proof.Machine.execIdiv x0 x1 x2 x3 x4 s
  | .irem x0 x1 x2 x3 x4 => Sys2Proof.Machine.execIrem x0 x1 x2 x3 x4 s
  | .isel x0 x1 x2 x3 x4 x5 => Sys2Proof.Machine.execIsel x0 x1 x2 x3 x4 x5 s
  | .icmp x0 x1 x2 x3 x4 => Sys2Proof.Machine.execIcmp x0 x1 x2 x3 x4 s
  | .ladd x0 x1 x2 x3 x4 => Sys2Proof.Machine.execLadd x0 x1 x2 x3 x4 s
  | .lsub x0 x1 x2 x3 x4 => Sys2Proof.Machine.execLsub x0 x1 x2 x3 x4 s
  | .lmul x0 x1 x2 x3 x4 => Sys2Proof.Machine.execLmul x0 x1 x2 x3 x4 s
  | .lshl x0 x1 x2 x3 => Sys2Proof.Machine.execLshl x0 x1 x2 x3 s
  | .lshr x0 x1 x2 x3 x4 => Sys2Proof.Machine.execLshr x0 x1 x2 x3 x4 s
  | .aadd x0 x1 x2 x3 x4 x5 => Sys2Proof.Machine.execAadd x0 x1 x2 x3 x4 x5 s
  | .alea x0 x1 x2 x3 x4 x5 => Sys2Proof.Machine.execAlea x0 x1 x2 x3 x4 x5 s
  | .fadd x0 x1 x2 x3 x4 => Sys2Proof.Machine.execFadd x0 x1 x2 x3 x4 s
  | .fsub x0 x1 x2 x3 x4 => Sys2Proof.Machine.execFsub x0 x1 x2 x3 x4 s
  | .fmul x0 x1 x2 x3 x4 => Sys2Proof.Machine.execFmul x0 x1 x2 x3 x4 s
  | .ffma x0 x1 x2 x3 x4 x5 => Sys2Proof.Machine.execFfma x0 x1 x2 x3 x4 x5 s
  | .fdiv x0 x1 x2 x3 x4 => Sys2Proof.Machine.execFdiv x0 x1 x2 x3 x4 s
  | .fmin x0 x1 x2 x3 => Sys2Proof.Machine.execFmin x0 x1 x2 x3 s
  | .fmax x0 x1 x2 x3 => Sys2Proof.Machine.execFmax x0 x1 x2 x3 s
  | .fcmp x0 x1 x2 x3 x4 => Sys2Proof.Machine.execFcmp x0 x1 x2 x3 x4 s
  | .fsel x0 x1 x2 x3 x4 x5 => Sys2Proof.Machine.execFsel x0 x1 x2 x3 x4 x5 s
  | .fclass x0 x1 x2 => Sys2Proof.Machine.execFclass x0 x1 x2 s
  | .fscale x0 x1 x2 x3 x4 => Sys2Proof.Machine.execFscale x0 x1 x2 x3 x4 s
  | .frint x0 x1 x2 x3 => Sys2Proof.Machine.execFrint x0 x1 x2 x3 s
  | .ffrac x0 x1 x2 => Sys2Proof.Machine.execFfrac x0 x1 x2 s
  | .frcp x0 x1 x2 => Sys2Proof.Machine.execFrcp x0 x1 x2 s
  | .frsq x0 x1 x2 => Sys2Proof.Machine.execFrsq x0 x1 x2 s
  | .fex2 x0 x1 x2 => Sys2Proof.Machine.execFex2 x0 x1 x2 s
  | .flg2 x0 x1 x2 => Sys2Proof.Machine.execFlg2 x0 x1 x2 s
  | .hadd2 x0 x1 x2 x3 x4 x5 => Sys2Proof.Machine.execHadd2 x0 x1 x2 x3 x4 x5 s
  | .hmul2 x0 x1 x2 x3 x4 x5 => Sys2Proof.Machine.execHmul2 x0 x1 x2 x3 x4 x5 s
  | .hfma2 x0 x1 x2 x3 x4 x5 x6 => Sys2Proof.Machine.execHfma2 x0 x1 x2 x3 x4 x5 x6 s
  | .cvt x0 x1 x2 x3 x4 x5 x6 => Sys2Proof.Machine.execCvt x0 x1 x2 x3 x4 x5 x6 s
  | .dxpack x0 x1 x2 x3 x4 => Sys2Proof.Machine.execDxpack x0 x1 x2 x3 x4 s
  | .dxunpack x0 x1 x2 x3 x4 => Sys2Proof.Machine.execDxunpack x0 x1 x2 x3 x4 s
  | .pack x0 x1 x2 x3 x4 => Sys2Proof.Machine.execPack x0 x1 x2 x3 x4 s
  | .unpack x0 x1 x2 x3 => Sys2Proof.Machine.execUnpack x0 x1 x2 x3 s
  | .mov x0 x1 x2 x3 => Sys2Proof.Machine.execMov x0 x1 x2 x3 s
  | .movi x0 x1 x2 x3 => Sys2Proof.Machine.execMovi x0 x1 x2 x3 s
  | .sread x0 x1 x2 => Sys2Proof.Machine.execSread x0 x1 x2 s
  | .swrite x0 x1 x2 => Sys2Proof.Machine.execSwrite x0 x1 x2 s
  | .bmix x0 x1 x2 x3 x4 => Sys2Proof.Machine.execBmix x0 x1 x2 x3 x4 s
  | .pset x0 x1 x2 x3 x4 => Sys2Proof.Machine.execPset x0 x1 x2 x3 x4 s
  | .plop x0 x1 x2 x3 x4 x5 x6 => Sys2Proof.Machine.execPlop x0 x1 x2 x3 x4 x5 x6 s
  | .bra x0 x1 => Sys2Proof.Machine.execBra x0 x1 s
  | .braU x0 x1 => Sys2Proof.Machine.execBraU x0 x1 s
  | .brx x0 x1 => Sys2Proof.Machine.execBrx x0 x1 s
  | .call x0 x1 => Sys2Proof.Machine.execCall x0 x1 s
  | .callx x0 x1 => Sys2Proof.Machine.execCallx x0 x1 s
  | .ret x0 => Sys2Proof.Machine.execRet x0 s
  | .exit x0 => Sys2Proof.Machine.execExit x0 s
  | .nop x0 => Sys2Proof.Machine.execNop x0 s
  | .yield x0 => Sys2Proof.Machine.execYield x0 s
  | .cvset x0 x1 x2 x3 x4 => Sys2Proof.Machine.execCvset x0 x1 x2 x3 x4 s
  | .cvsign x0 x1 => Sys2Proof.Machine.execCvsign x0 x1 s
  | .shfl x0 x1 x2 x3 x4 x5 => Sys2Proof.Machine.execShfl x0 x1 x2 x3 x4 x5 s
  | .voteAll x0 x1 x2 x3 x4 => Sys2Proof.Machine.execVoteAll x0 x1 x2 x3 x4 s
  | .voteAny x0 x1 x2 x3 x4 => Sys2Proof.Machine.execVoteAny x0 x1 x2 x3 x4 s
  | .voteBallot x0 x1 x2 x3 x4 x5 => Sys2Proof.Machine.execVoteBallot x0 x1 x2 x3 x4 x5 s
  | .redux x0 x1 x2 x3 x4 x5 => Sys2Proof.Machine.execRedux x0 x1 x2 x3 x4 x5 s
  | .scan x0 x1 x2 x3 x4 x5 x6 => Sys2Proof.Machine.execScan x0 x1 x2 x3 x4 x5 x6 s
  | .barArrive x0 x1 x2 => Sys2Proof.Machine.execBarArrive x0 x1 x2 s
  | .barWait x0 x1 => Sys2Proof.Machine.execBarWait x0 x1 s
  | .barSync x0 x1 x2 => Sys2Proof.Machine.execBarSync x0 x1 x2 s
  | .qcfg x0 x1 x2 x3 => Sys2Proof.Machine.execQcfg x0 x1 x2 x3 s
  | .qpush x0 x1 x2 x3 x4 => Sys2Proof.Machine.execQpush x0 x1 x2 x3 x4 s
  | .qpop x0 x1 x2 x3 x4 x5 => Sys2Proof.Machine.execQpop x0 x1 x2 x3 x4 x5 s
  | .ld x0 x1 x2 x3 x4 x5 => Sys2Proof.Machine.execLd x0 x1 x2 x3 x4 x5 s
  | .st x0 x1 x2 x3 x4 x5 => Sys2Proof.Machine.execSt x0 x1 x2 x3 x4 x5 s
  | .lds x0 x1 x2 x3 x4 x5 => Sys2Proof.Machine.execLds x0 x1 x2 x3 x4 x5 s
  | .sts x0 x1 x2 x3 x4 x5 => Sys2Proof.Machine.execSts x0 x1 x2 x3 x4 x5 s
  | .ldr x0 x1 x2 x3 x4 x5 => Sys2Proof.Machine.execLdr x0 x1 x2 x3 x4 x5 s
  | .str x0 x1 x2 x3 x4 x5 => Sys2Proof.Machine.execStr x0 x1 x2 x3 x4 x5 s
  | .ldp x0 x1 x2 x3 x4 => Sys2Proof.Machine.execLdp x0 x1 x2 x3 x4 s
  | .atom x0 x1 x2 x3 x4 x5 x6 x7 => Sys2Proof.Machine.execAtom x0 x1 x2 x3 x4 x5 x6 x7 s
  | .red x0 x1 x2 x3 x4 x5 => Sys2Proof.Machine.execRed x0 x1 x2 x3 x4 x5 s
  | .fence x0 x1 x2 => Sys2Proof.Machine.execFence x0 x1 x2 s
  | .cctlRange x0 x1 x2 => Sys2Proof.Machine.execCctlRange x0 x1 x2 s
  | .cctlAll x0 => Sys2Proof.Machine.execCctlAll x0 s
  | .pref x0 x1 x2 => Sys2Proof.Machine.execPref x0 x1 x2 s
  | .sld x0 x1 x2 x3 => Sys2Proof.Machine.execSld x0 x1 x2 x3 s
  | .sst x0 x1 x2 x3 x4 => Sys2Proof.Machine.execSst x0 x1 x2 x3 x4 s
  | .sstT x0 x1 x2 x3 x4 => Sys2Proof.Machine.execSstT x0 x1 x2 x3 x4 s
  | .recon x0 x1 x2 x3 x4 => Sys2Proof.Machine.execRecon x0 x1 x2 x3 x4 s
  | .reconSet x0 x1 x2 x3 x4 => Sys2Proof.Machine.execReconSet x0 x1 x2 x3 x4 s
  | .rowreg x0 x1 x2 => Sys2Proof.Machine.execRowreg x0 x1 x2 s
  | .rowreq x0 x1 x2 => Sys2Proof.Machine.execRowreq x0 x1 x2 s
  | .rowwait x0 x1 x2 => Sys2Proof.Machine.execRowwait x0 x1 x2 s
  | .rowqry x0 x1 x2 => Sys2Proof.Machine.execRowqry x0 x1 x2 s
  | .rowcancel x0 x1 x2 => Sys2Proof.Machine.execRowcancel x0 x1 x2 s
  | .cpy x0 x1 x2 x3 x4 x5 x6 x7 => Sys2Proof.Machine.execCpy x0 x1 x2 x3 x4 x5 x6 x7 s
  | .cpyo x0 x1 x2 x3 x4 x5 x6 => Sys2Proof.Machine.execCpyo x0 x1 x2 x3 x4 x5 x6 s
  | .cpyhTo x0 x1 x2 x3 x4 x5 x6 => Sys2Proof.Machine.execCpyhTo x0 x1 x2 x3 x4 x5 x6 s
  | .cpyhFrom x0 x1 x2 x3 x4 x5 x6 => Sys2Proof.Machine.execCpyhFrom x0 x1 x2 x3 x4 x5 x6 s
  | .cpyx x0 x1 x2 x3 x4 x5 => Sys2Proof.Machine.execCpyx x0 x1 x2 x3 x4 x5 s
  | .arvInit x0 x1 x2 x3 => Sys2Proof.Machine.execArvInit x0 x1 x2 x3 s
  | .arvWait x0 x1 x2 x3 => Sys2Proof.Machine.execArvWait x0 x1 x2 x3 s
  | .arvTest x0 x1 x2 x3 => Sys2Proof.Machine.execArvTest x0 x1 x2 x3 s
  | .arvAdd x0 x1 x2 x3 => Sys2Proof.Machine.execArvAdd x0 x1 x2 x3 s
  | .mma x0 x1 x2 x3 x4 => Sys2Proof.Machine.execMma x0 x1 x2 x3 x4 s
  | .mmz x0 x1 x2 x3 => Sys2Proof.Machine.execMmz x0 x1 x2 x3 s
  | .wbld x0 x1 x2 x3 x4 x5 => Sys2Proof.Machine.execWbld x0 x1 x2 x3 x4 x5 s
  | .wbldSparse x0 x1 x2 x3 x4 x5 => Sys2Proof.Machine.execWbldSparse x0 x1 x2 x3 x4 x5 s
  | .wbrel x0 x1 x2 => Sys2Proof.Machine.execWbrel x0 x1 x2 s
  | .accld x0 x1 x2 x3 x4 => Sys2Proof.Machine.execAccld x0 x1 x2 x3 x4 s
  | .accst x0 x1 x2 x3 x4 => Sys2Proof.Machine.execAccst x0 x1 x2 x3 x4 s
  | .credSmx x0 x1 x2 x3 x4 x5 => Sys2Proof.Machine.execCredSmx x0 x1 x2 x3 x4 x5 s
  | .credSum x0 x1 x2 x3 x4 x5 => Sys2Proof.Machine.execCredSum x0 x1 x2 x3 x4 x5 s
  | .credMax x0 x1 x2 x3 x4 x5 => Sys2Proof.Machine.execCredMax x0 x1 x2 x3 x4 x5 s
  | .gseg x0 x1 x2 x3 => Sys2Proof.Machine.execGseg x0 x1 x2 x3 s
  | .gvec x0 x1 x2 x3 => Sys2Proof.Machine.execGvec x0 x1 x2 x3 s
  | .grun x0 x1 x2 => Sys2Proof.Machine.execGrun x0 x1 x2 s
  | .gout x0 x1 x2 => Sys2Proof.Machine.execGout x0 x1 x2 s
  | .gwait x0 x1 => Sys2Proof.Machine.execGwait x0 x1 s
  | .dictLoad x0 x1 x2 => Sys2Proof.Machine.execDictLoad x0 x1 x2 s
  | .dictRead x0 x1 x2 => Sys2Proof.Machine.execDictRead x0 x1 x2 s
  | .fenceF x0 => Sys2Proof.Machine.execFenceF x0 s
  | .launch x0 x1 x2 => Sys2Proof.Machine.execLaunch x0 x1 x2 s
  | .cntWait x0 x1 x2 x3 x4 => Sys2Proof.Machine.execCntWait x0 x1 x2 x3 x4 s
  | .cancel x0 x1 x2 x3 => Sys2Proof.Machine.execCancel x0 x1 x2 x3 s
  | .tapePush x0 x1 x2 => Sys2Proof.Machine.execTapePush x0 x1 x2 s
  | .trap x0 x1 => Sys2Proof.Machine.execTrap x0 x1 s
  | .assert x0 x1 x2 => Sys2Proof.Machine.execAssert x0 x1 x2 s
  | .resumeRetry x0 => Sys2Proof.Machine.execResumeRetry x0 s
  | .resumeSkip x0 => Sys2Proof.Machine.execResumeSkip x0 s
  | .kill x0 => Sys2Proof.Machine.execKill x0 s
  | .srd x0 x1 x2 => Sys2Proof.Machine.execSrd x0 x1 x2 s
  | .swr x0 x1 x2 => Sys2Proof.Machine.execSwr x0 x1 x2 s
  | .tlbinvAll x0 => Sys2Proof.Machine.execTlbinvAll x0 s
  | .tlbinvPage x0 x1 => Sys2Proof.Machine.execTlbinvPage x0 x1 s
  | .gswap x0 x1 x2 => Sys2Proof.Machine.execGswap x0 x1 x2 s
  | .resultDelivery x0 => Sys2Proof.Machine.execResultDelivery x0 s
  | .runPick x0 x1 => Sys2Proof.Machine.execRunPick x0 x1 s
  | .quantumExpiry x0 => Sys2Proof.Machine.execQuantumExpiry x0 s
  | .groupSwapOut x0 => Sys2Proof.Machine.execGroupSwapOut x0 s
  | .groupSwapIn x0 x1 => Sys2Proof.Machine.execGroupSwapIn x0 x1 s
  | .launchQueueTake x0 => Sys2Proof.Machine.execLaunchQueueTake x0 s
  | .groupStart x0 x1 x2 => Sys2Proof.Machine.execGroupStart x0 x1 x2 s
  | .launchCompletion x0 x1 => Sys2Proof.Machine.execLaunchCompletion x0 x1 s
  | .tapeReplay x0 => Sys2Proof.Machine.execTapeReplay x0 s
  | .tapePop x0 => Sys2Proof.Machine.execTapePop x0 s
  | .copyOperation x0 => Sys2Proof.Machine.execCopyOperation x0 s
  | .tileOperation x0 => Sys2Proof.Machine.execTileOperation x0 s
  | .wbldOperation x0 => Sys2Proof.Machine.execWbldOperation x0 s
  | .credResultWrite x0 => Sys2Proof.Machine.execCredResultWrite x0 s
  | .grunEvaluation x0 => Sys2Proof.Machine.execGrunEvaluation x0 s
  | .goutOperation x0 => Sys2Proof.Machine.execGoutOperation x0 s
  | .rowReachBank x0 x1 => Sys2Proof.Machine.execRowReachBank x0 x1 s
  | .sweepVisit x0 => Sys2Proof.Machine.execSweepVisit x0 s
  | .floorRaise x0 x1 => Sys2Proof.Machine.execFloorRaise x0 x1 s
  | .faultBufferEntryFree x0 => Sys2Proof.Machine.execFaultBufferEntryFree x0 s
  | .jreplay x0 => Sys2Proof.Machine.execJreplay x0 s
  | .handlerGroupStart x0 x1 => Sys2Proof.Machine.execHandlerGroupStart x0 x1 s
  | .quotaTrap x0 x1 x2 => Sys2Proof.Machine.execQuotaTrap x0 x1 x2 s
  | .stopRecordWrite x0 => Sys2Proof.Machine.execStopRecordWrite x0 s
  | .preemptStage2 x0 => Sys2Proof.Machine.execPreemptStage2 x0 s
  | .preemptStage3 x0 => Sys2Proof.Machine.execPreemptStage3 x0 s
  | .qbaseQctlWrite x0 => Sys2Proof.Machine.execQbaseQctlWrite x0 s
  | .qwrWrite x0 => Sys2Proof.Machine.execQwrWrite x0 s
  | .bind x0 => Sys2Proof.Machine.execBind x0 s
  | .unbind x0 x1 => Sys2Proof.Machine.execUnbind x0 x1 s
  | .preempt x0 x1 => Sys2Proof.Machine.execPreempt x0 x1 s
  | .resume x0 x1 => Sys2Proof.Machine.execResume x0 x1 s
  | .canceljob x0 x1 => Sys2Proof.Machine.execCanceljob x0 x1 s
  | .setquota x0 x1 => Sys2Proof.Machine.execSetquota x0 x1 s
  | .tlbinv x0 x1 => Sys2Proof.Machine.execTlbinv x0 x1 s
  | .fencelink x0 => Sys2Proof.Machine.execFencelink x0 s
  | .unfencelink x0 => Sys2Proof.Machine.execUnfencelink x0 s
  | .freeze x0 => Sys2Proof.Machine.execFreeze x0 s
  | .clearlog x0 => Sys2Proof.Machine.execClearlog x0 s
  | .badop x0 x1 x2 => Sys2Proof.Machine.execBadop x0 x1 x2 s
  | .errorLogFree x0 => Sys2Proof.Machine.execErrorLogFree x0 s
  | .attestationRequest x0 => Sys2Proof.Machine.execAttestationRequest x0 s
  | .attestationReport => Sys2Proof.Machine.execAttestationReport s
  | .plimitWrite x0 => Sys2Proof.Machine.execPlimitWrite x0 s
  | .cethreshWrite x0 => Sys2Proof.Machine.execCethreshWrite x0 s
  | .registerWrite x0 => Sys2Proof.Machine.execRegisterWrite x0 s
  | .hostMemoryAccess x0 => Sys2Proof.Machine.execHostMemoryAccess x0 s
  | .umaryIncomingAccess x0 x1 => Sys2Proof.Machine.execUmaryIncomingAccess x0 x1 s
  | .linkDown x0 => Sys2Proof.Machine.execLinkDown x0 s
  | .collectiveStart x0 x1 => Sys2Proof.Machine.execCollectiveStart x0 x1 s
  | .collectivePayload x0 x1 => Sys2Proof.Machine.execCollectivePayload x0 x1 s
  | .collectiveCompute x0 => Sys2Proof.Machine.execCollectiveCompute x0 s
  | .reset => Sys2Proof.Machine.execReset s
  | .bootVerifyComplete x0 => Sys2Proof.Machine.execBootVerifyComplete x0 s
  | .freezeN => Sys2Proof.Machine.execFreezeN s
  | .readmem x0 x1 => Sys2Proof.Machine.execReadmem x0 x1 s
  | .readthr x0 => Sys2Proof.Machine.execReadthr x0 s
  | .stackOver85c x0 x1 => Sys2Proof.Machine.execStackOver85c x0 x1 s
  | .thermtrip => Sys2Proof.Machine.execThermtrip s
  | .illegalOpcode x0 => Sys2Proof.Machine.execIllegalOpcode x0 s
  | .linkRetraining x0 => Sys2Proof.Machine.execLinkRetraining x0 s
  | .lossOfPower => Sys2Proof.Machine.execLossOfPower s

end Sys2Proof.Machine
end

