-- ==== Sys2Proof/Machine/Turns.lean ====
section
/-! DEFINITION. What a turn does (log entry 2): a gang issues for its next thread (R34 to R36), a step of the device happens,
or something outside the rules' reach does. -/

namespace Sys2Proof.Machine

/-! ## One thread issues -/

/-- Bits at a pc or held, executed for a thread that stands at a short or not. -/
def State.runInsn (s : State) (r : ThreadRef) (w : BitVec 128) (shortw : Option Word) : Host.Outcome State Fault Refusal :=
  let s := { s with cur := ⟨r, shortw⟩ }
  match decode w with
  | .ok i => exec i s
  | .error (.illegalVariant x) => execIllegalVariant x s

/-- A thread executes what it holds, or fetches and executes; a fault that waited for earlier results is taken. -/
def State.issueThread (s : State) (r : ThreadRef) (g : Group) (t : Thread) : Host.Outcome State Fault Refusal :=
  match t.status, t.held with
  | .blocked (.fault info insn shortw) _, _ => .next (s.takeTrap r insn shortw info)
  | _, some h => s.runInsn r h.insn h.shortw
  | _, none =>
    let s := s.fetchBlock g.core g.asid t
    match s.fetch g.asid t with
    | .trap info => .next (s.takeTrap r none none info)
    | .absent a => .next (s.parkThread r none none a true false)
    | .bits w => s.runInsn r w none

/-- What bits are for their run: an encoding that no entry allows does nothing but fault or be passed over (R77). -/
def runsAs (w : BitVec 128) : Instr := match decode w with | .ok i => i | .error (.illegalVariant x) => .nop x.hdr

/-- The instruction that a thread is about to execute, a short's expansion in its place; none where it faults before one is
known. -/
def State.ahead (s : State) (g : Group) (t : Thread) : Option Instr :=
  match t.held with
  | some h => some (runsAs h.insn)
  | none =>
    let s := s.fetchBlock g.core g.asid t
    match s.fetch g.asid t with
    | .bits w =>
      match runsAs w with
      | .short b idx h0 h1 h2 => (s.expand g b idx.toNat [h0, h1, h2]).map runsAs
      | .shortNop b _ _ _ => some (.nop { Hdr.plain with bnd := b })
      | i => some i
    | _ => none

/-! ## Runs (R34) -/

/-- Instructions whose execution ends a run: branches, calls and returns taken, EXIT and YIELD. -/
def isTransfer : Instr → Bool
  | .bra _ _ => true | .braU _ _ => true | .brx _ _ => true | .call _ _ => true | .callx _ _ => true | .ret _ => true
  | .exit _ => true | .yield _ => true | _ => false
def isBraU : Instr → Bool
  | .braU _ _ => true | _ => false

/-- The instruction ends the run: its B bit, or a transfer that the thread executes. -/
def endsRun (i : Instr) (t : Thread) : Bool := (hdrOf i).bnd || (isTransfer i && t.guardHolds (hdrOf i))

/-- A gang after one of its threads has executed the current instruction: the last thread ends the instruction, and the run
when an end condition holds or the instruction is the 24th. -/
def Gang.advance (k : Gang) (ends : Bool) : Gang :=
  if !k.todo.tail.isEmpty then { k with todo := k.todo.tail, ends := k.ends || ends }
  else if k.ends || ends || k.count + 1 ≥ 24 then .start []
  else { Gang.start k.threads with count := k.count + 1 }

/-- Passes in which the scratchpad serves the words that a gang's lanes address: the most distinct ones in any of its 32 banks
(R107). -/
def passes (ws : List (Nat × Nat)) : Nat :=
  ((List.range 32).map fun b => ((ws.filter fun w => w.2 % 32 == b).dedup).length).foldl max 0

/-- What the counters take from an instruction that the last thread of a gang has executed: one hint miss when some threads but not
all branched at BRA.U (R183), and the scratchpad passes beyond the first (R107). -/
def State.countGang (s : State) (core asid : Nat) (k : Gang) : State :=
  if k.todo.length != 1 then s else
  let s := if k.taken != 0 && k.taken != k.threads.length then s.countCore core 3 (some asid) 1 else s
  s.countCore core 4 (some asid) (passes k.words - 1)

def RunCtx.gang (x : RunCtx) (sec : Bool) : Gang := if sec then x.secondary else x.primary
def RunCtx.setGang (x : RunCtx) (sec : Bool) (k : Gang) : RunCtx := if sec then { x with secondary := k } else { x with primary := k }

/-- A context with its gang changed; it is free once both its gangs have ended their runs (DESIGN CHOICE, log entry 20: R35 frees
it "when a run ends", and gives each of its two gangs a run of its own). -/
def State.putGang (s : State) (core ctx : Nat) (sec : Bool) (k : Gang) : State :=
  s.setCore core fun c => { c with ctxs := c.ctxs.modify ctx fun o => o.bind fun x =>
    let y := x.setGang sec k
    if y.primary.threads.isEmpty && y.secondary.threads.isEmpty then none else some y }

/-- Words of `n` bytes of a scratchpad. -/
def wordsAt (grp off n : Nat) : List (Nat × Nat) := (List.range' (off / 4) ((off % 4 + n + 3) / 4)).map fun k => (grp, k)

/-- The scratchpad words that a thread's instruction addresses (R107). -/
def scratchWords (gi : Nat) (g : Group) (t : Thread) : Instr → List (Nat × Nat)
  | .lds _ w _ _ n off => wordsAt gi (t.dreg n.toNat + off).toNat w.bytes
  | .sts _ w _ n off _ => wordsAt gi (t.dreg n.toNat + off).toNat w.bytes
  | .ldr _ w _ _ n off => let a := (t.dreg n.toNat + off).toNat; wordsAt (g.rank (bits a 20 19)) (bits a 18 0) w.bytes
  | .str _ w _ n off _ => let a := (t.dreg n.toNat + off).toNat; wordsAt (g.rank (bits a 20 19)) (bits a 18 0) w.bytes
  | _ => []

/-- A thread that its instruction leaves like this has executed it: it neither faults nor waits to execute it (again). -/
def Thread.went (t : Thread) : Bool :=
  t.held.isNone && match t.status with
    | .ready => true
    | .blocked (.fault _ _ _) _ => false
    | .blocked _ _ => true
    | _ => false

/-- A gang with what its next thread's instruction adds to its counts: `went` says that the thread has executed it. A BRA.U branches
by its guard alone (R36, R183), even where the thread then waits for the result of a window that closes there (R61). -/
def Gang.note (k : Gang) (gi : Nat) (g : Group) (t : Thread) (i : Instr) (went : Bool) : Gang :=
  if went && t.guardHolds (hdrOf i) then
    { k with taken := k.taken + b2n (isBraU i), words := k.words ++ scratchWords gi g t i }
  else k

/-- An instruction by which a thread may end, other than by a fault. -/
def endsItself : Instr → Bool
  | .exit _ => true
  | .resumeRetry _ => true
  | .resumeSkip _ => true
  | .kill _ => true
  | .cancel _ _ _ _ => true
  | _ => false

/-- A thread that its instruction leaves like this has executed it once more for the counter of R331: one that has to execute it again,
or that has not fetched one, is counted when it does. -/
def Thread.executed (t : Thread) (i : Option Instr) : Bool :=
  i.any fun i => t.went || (t.status == .exited && endsItself i)

/-- What follows an instruction of a gang: the counts of R331, the gang's advance. A thread that its instruction has stopped ends
the run. -/
def State.afterIssue (s : State) (core ctx : Nat) (sec : Bool) (k : Gang) (r : ThreadRef) (g : Group) (i : Option Instr) (t : Thread) :
    State :=
  let on := match s.groups[r.grp]?, s.thr r with | some g, some u => s.ready g u | _, _ => false
  let k := match i with | some i => k.note r.grp g t i ((s.thr r).any Thread.went) | none => k
  let s := (s.countCore core 1 (some g.asid) (b2n ((s.thr r).any fun u => u.executed i))).countGang core g.asid k
  (s.putGang core ctx sec (k.advance (!on || i.any fun i => endsRun i t))).settle

/-- A thread of a gang that something else has stopped ends the run. -/
def State.skipLane (s : State) (core ctx : Nat) (sec : Bool) (k : Gang) (asid : Nat) : State :=
  (s.countGang core asid k).putGang core ctx sec (k.advance true)

/-- The next thread of a gang executes the gang's current instruction. -/
def State.issueLane (s : State) (core ctx : Nat) (sec : Bool) : Host.Outcome State Fault Refusal :=
  match (s.core core).ctxs.getD ctx none with
  | none => .next s
  | some x =>
    let k := x.gang sec
    match k.todo with
    | [] => .next s
    | r :: _ =>
      match s.groups[r.grp]?, s.thr r with
      | some g, some t =>
        if !s.ready g t then .next (s.skipLane core ctx sec k x.asid)
        else
          match s.issueThread r g t with
          | .next u => .next (u.afterIssue core ctx sec k r g (s.ahead g t) t)
          | o => o
      | _, _ => .next (s.skipLane core ctx sec k x.asid)

/-- Several threads of a gang, one after the other. -/
def State.lanes : Nat → State → Nat → Nat → Bool → Host.Outcome State Fault Refusal
  | 0, s, _, _, _ => .next s
  | n + 1, s, core, ctx, sec =>
    match s.issueLane core ctx sec with
    | .next u => State.lanes n u core ctx sec
    | o => o

/-- The load-store aggregator combines the lanes of an instruction (R120). -/
def aggregates : Instr → Bool
  | .atom _ op _ _ _ _ _ _ => match op with | .cas => false | .fadd => false | .fmin => false | .fmax => false | _ => true
  | .red _ op _ _ _ _ => match op with | .cas => false | .fadd => false | .fmin => false | .fmax => false | _ => true
  | _ => false

/-- How many threads of a gang issue in its turn: all that are still to execute an instruction that is aggregated, so that nothing
comes between them, and else one. R120 binds the lanes of one location; the model lets those of other locations go with them
(DESIGN CHOICE, log entry 85). -/
def State.laneCount (s : State) (core ctx : Nat) (sec : Bool) : Nat :=
  match (s.core core).ctxs.getD ctx none with
  | none => 1
  | some x =>
    match (x.gang sec).todo with
    | [] => 1
    | r :: rs =>
      match s.groups[r.grp]?, s.thr r with
      | some g, some t => if s.ready g t && (s.ahead g t).any aggregates then rs.length + 1 else 1
      | _, _ => 1

/-- A turn of a gang. -/
def State.issueTurn (s : State) (core ctx : Nat) (sec : Bool) : Host.Outcome State Fault Refusal :=
  State.lanes (s.laneCount core ctx sec) s core ctx sec

/-! ## Other turns -/

/-- An instruction that is a step of the device and no thread's. -/
def isEvent (i : Instr) : Bool := (encode i).isNone

/-- A line of L1 is filled from its home, unless a sibling cell lies in it: a read like any other, before which the applications
pending on its row are made (R132, R214). -/
def State.fillLine (s : State) (core pa : Nat) : State :=
  let a := pa / 64 * 64
  if a + 64 ≤ s.memSize && (s.cellsIn a 64).isEmpty then
    let s := s.access (some (core / 48)) none true false a 64
    s.setCore core fun c => { c with l1 := (c.l1.filter fun x => x.1 < a || a + 64 ≤ x.1) ++ (List.range' a 64).map fun b => (b, s.peek b) }
  else s

/-- A translation is retained (R300). -/
def State.fillTlb (s : State) (asid va : Nat) : State :=
  match s.walk asid (va % 2 ^ 57) with
  | .leaf t => { s with tlb := s.tlb ++ [t] }
  | _ => s

/-- Clocks of one core pass; %cyc never decreases and stops at its maximum (R5, R23). -/
def State.coreTicks (s : State) (core n : Nat) : State :=
  s.setCore core fun c => { c with cyc := BitVec.ofNat 64 (min (c.cyc.toNat + n) (2 ^ 64 - 1)) }

/-- Flits of link calibration (R333), which belong to no job (R331). -/
def State.calibrate (s : State) (n : Nat) : Port → State
  | .host => (s.countHub 6 none n).countHub 7 none n
  | .ucie d => (s.countDie d 3 none n).countDie d 4 none n
  | .umary _ => s.countHub 8 none n

/-- The host reads a register (R318): the answer leaves over the host port (R331). -/
def State.readReg (s : State) (off n : Nat) : State := { s.hostFlits 0 n with portOut := s.bar0Read off n }

/-- Telemetry is sampled: each core die reports to the hub (R333, R335). -/
def State.sample (s : State) (temp power : Word) : State :=
  (List.range s.numDies).foldl (fun s d => s.overUcie (some d) none none 4) (s.setMgmt fun m => { m with temp, power })

/-- What a turn does. -/
def State.turn (s : State) : Turn → Host.Outcome State Fault Refusal
  | .issue core ctx sec => if s.frozen then .next s else s.issueTurn core ctx sec
  | .event i =>
    if !isEvent i then .next s
    else match exec i s with
      | .next u => .next (if u.frozen then u else u.settle)
      | o => o
  | .hubClocks n => event s fun s => { s with hubClock := s.hubClock + n }
  | .coreClocks core n => event s fun s => s.coreTicks core n
  | .hostWrite a v => .next (s.hostPut a [v])
  | .hostRead off b64 => event s fun s => s.readReg off (if b64 then 8 else 4)
  | .peerWrite dev a v => .next { s with peerMem := cSet s.peerMem (peerAddr dev a) v }
  | .rowError row hard =>
    event s fun s => if hard then { s with hardErrs := row :: s.hardErrs } else { s with softErrs := row :: s.softErrs }
  | .fillTlb asid va => event s fun s => s.fillTlb asid va
  | .dropTlb asid va => event s fun s => s.dropTlb asid (some va)
  | .fillL1 core pa => event s fun s => s.fillLine core pa
  | .dropL1 core pa => event s fun s => s.dropL1 core (pa / 64 * 64) 64
  | .telemetry temp power => event s fun s => s.sample temp power
  | .calibrate port n => event s fun s => s.calibrate n port
  | .linkRetry _ => event s fun s => (s.countHub 9 none 1).countHub 8 none 1

/-! ## A machine about to run one instruction -/

/-- The record that `fetchGroup` is made from: one thread with 256 registers. -/
def fetchRec : LaunchRec where
  entry := 0
  params := 0
  dict := 0
  spill := 0
  stats := 0
  ngroups := 1
  scratch := 0
  quant := 0
  graph := 0
  phase := 0
  dep0 := 0
  dep1 := 0
  nthreads := 1
  acc := 0
  espill := 0
  cap := 0
  nregs := 256
  nparam := 0
  prio := 0
  csize := 0
  lastg := false
  endp := false
  overlap := false
  tapem := false
  resv := false

/-- A job bound to ASID 1 with no handler. -/
def fetchJob : Job where
  desc := ⟨0, 0, 0, 0, 0, 0, 0, 0, 1, 0, 0, 0, 393216, 512, 512, 31, 1, 0, 1⟩
  handler := none
  pre := none
  stage2 := false
  suspended := false
  stopping := none
  stopped := false
  nextId := 2
  seq := 1
  tapeN := 0

/-- Its running group, on core 0. -/
def fetchGroup (gi : Nat) : Group := { Group.fresh fetchRec 1 1 0 0 [gi] ⟨0, 0⟩ none none with status := .running }

/-- Where withFetchWord stores the instruction: virtual page 0 of ASID 1, which a retained translation maps here. -/
def fetchPage : Nat := 0x20000

end Sys2Proof.Machine
end

