-- ==== Sys2Proof/Machine/Step.lean ====
section
/-! DEFINITION. One step of the machine, and the state in which the next step runs a given instruction. -/

namespace Sys2Proof.Machine

/-- One step: the first of the turns is taken; without one nothing happens. -/
def step (s : State) : Host.Outcome State Fault Refusal :=
  match s.turns with
  | [] => .next s
  | t :: ts => State.turn { s with turns := ts } t

/-- The state with an instruction where the next step fetches it: a booted part, a job, its launch, a running group of one
thread whose run context has the next turn, and a retained translation of the page the instruction stands in (log entry 1:
the machine loads its programs itself, and this stands for such a load). -/
def State.withFetchWord (s : State) (_nbits w : Nat) : State :=
  let gi := s.groups.length
  { s with
    mgmt := { s.mgmt with boot := 1 }
    frozen := false
    turns := [.issue 0 0 false]
    mem := cWrite s.mem fetchPage (leBytes 16 w)
    tlb := [⟨1, 0, 4096, fetchPage, BitVec.ofNat 64 (fetchPage + 0x1F)⟩]
    jobs := [fetchJob]
    groups := s.groups ++ [fetchGroup gi]
    launches := s.launches ++ [⟨1, 1, fetchRec, .instr, none, none, none, 1, 0, false, false, [], false, none⟩]
    cores := s.cores.modify 0 fun c =>
      { c with ctxs := c.ctxs.set 0 (some ⟨1, 1, .start [⟨gi, 0⟩], .start []⟩) } }

end Sys2Proof.Machine
end

