-- ==== Sys2Proof/Safety.lean ====
section
/-! DEFINITION. What a safe run is, and the words in which claims speak of one instruction: the thread that executes it, the
conditions under which it executes normally (R77), the state in which it has completed. -/

namespace Sys2Proof.Machine

/-! ## Safe states -/

/-- Memory, host memory and peer memory stand in their canonical form. -/
def State.canon (s : State) : Bool := Memory.wf s.mem && Memory.wf s.hostMem && Memory.wf s.peerMem

/-- `State.cur` names a thread of the state: no instruction of a thread stops. -/
def State.curOk (s : State) : Prop := ∃ g t, s.groups[s.cur.ref.grp]? = some g ∧ s.thr s.cur.ref = some t

/-- A step answers a next state. -/
def answers (o : Host.Outcome State Fault Refusal) : Prop := ∃ t, o = .next t

/-! ## One instruction of one thread -/

/-- The thread `t` of the group `g` is the current one, has not exited, and passes steps 3 to 7 of R77 on `i`: no result still
outstanding writes its guard, the guard holds, the opcode's unit is present, the encoding is one that its entry allows with
registers that the kernel has, and no open window's destination set holds a register that it names. -/
structure Runs (s : State) (i : Instr) (g : Group) (t : Thread) : Prop where
  grp : s.groups[s.cur.ref.grp]? = some g
  thr : s.thr s.cur.ref = some t
  live : t.live = true
  guardThere : t.guardOpen (hdrOf i) = false
  guard : t.guardHolds (hdrOf i) = true
  unit : s.unitAbsent (opcodeOf i) = false
  legal : legal i = true
  regs : regsExist g.nregs i = true
  free : t.hazards (namesOf i) = []

/-- The address of the instruction that follows (R182): a short is 4 bytes. -/
def nextPc (s : State) (i : Instr) (t : Thread) : Pc :=
  t.pc + BitVec.ofNat 57 (if s.cur.shortw.isSome then 4 else (hdrOf i).len.bytes)

/-- What the meaning of `i` reads of its thread. -/
def ctxOf (s : State) (i : Instr) (g : Group) (t : Thread) : Ctx := ⟨s.cur.ref, g, t, nextPc s i t⟩

/-- The thread after `i` has completed with results: with L nonzero they wait in a window (R59 to R61), else they are written;
either way every earlier window has counted the instruction. -/
def Thread.after (t : Thread) (i : Instr) (next : Pc) (ws : List Write) : Thread :=
  if lookOf i = 0 then t.complete next ws else t.completeLook next (lookOf i) (destSet i) (.vals ws)

/-- The state `u` once the thread of `c` has completed `i` with results. -/
def State.finished (u : State) (c : Ctx) (i : Instr) (ws : List Write) : State :=
  u.setLive c.ref fun t => t.after i c.next ws

/-- The state `u` once the thread of `c` has been transferred to an address (R182). -/
def State.jumped (u : State) (c : Ctx) (pc : Dword) : State :=
  u.setThr c.ref fun t =>
    { t.complete (pc.extractLsb' 0 57) [] with badPc := if canonical pc.toNat then none else some pc }

/-- The state `u` once the thread of `c` has taken a trap at `i` (R301 to R304). -/
def State.trappedAt (s u : State) (c : Ctx) (i : Instr) (info : TrapInfo) : State :=
  u.takeTrap c.ref (some (insnOf i)) s.cur.shortw info

/-! ## What an instruction does whenever it runs -/

/-- It completes with the results that `ws` gives, and changes nothing else. -/
def Yields (i : Instr) (ws : Ctx → List Write) : Prop :=
  ∀ s g t, Runs s i g t → exec i s = .next (s.finished (ctxOf s i g t) i (ws (ctxOf s i g t)))

/-- It transfers its thread to the address that `pc` gives, and changes nothing else. -/
def Transfers (i : Instr) (pc : Ctx → Dword) : Prop :=
  ∀ s g t, Runs s i g t → exec i s = .next (s.jumped (ctxOf s i g t) (pc (ctxOf s i g t)))

/-- Where `p` holds it completes in the state that `u` gives, with the results that `ws` gives. -/
def Completes (i : Instr) (p : Ctx → State → Prop) (u : Ctx → State → State) (ws : Ctx → State → List Write) : Prop :=
  ∀ s g t, Runs s i g t → p (ctxOf s i g t) s →
    exec i s = .next ((u (ctxOf s i g t) s).finished (ctxOf s i g t) i (ws (ctxOf s i g t) s))

/-- Where `p` holds it transfers its thread to the address that `pc` gives, in the state that `u` gives. -/
def Jumps (i : Instr) (p : Ctx → State → Prop) (u : Ctx → State → State) (pc : Ctx → State → Dword) : Prop :=
  ∀ s g t, Runs s i g t → p (ctxOf s i g t) s →
    exec i s = .next ((u (ctxOf s i g t) s).jumped (ctxOf s i g t) (pc (ctxOf s i g t) s))

/-- Where `p` holds it has been performed in the state that `u` gives, which also says where its thread now stands. -/
def Leads (i : Instr) (p : Ctx → State → Prop) (u : Ctx → State → State) : Prop :=
  ∀ s g t, Runs s i g t → p (ctxOf s i g t) s → exec i s = .next (u (ctxOf s i g t) s)

/-- Where `p` holds nothing has happened yet: its thread waits with it, to execute it again. -/
def Waits (i : Instr) (p : Ctx → State → Prop) (w : Ctx → State → Wait) : Prop :=
  ∀ s g t, Runs s i g t → p (ctxOf s i g t) s →
    exec i s = .next (s.poll s.cur.ref (w (ctxOf s i g t) s) (some (insnOf i)) s.cur.shortw)

/-- Where `p` holds it takes a trap that `x` describes, with none of its effects. -/
def Traps (i : Instr) (p : Ctx → State → Prop) (x : Ctx → State → TrapInfo) : Prop :=
  ∀ s g t, Runs s i g t → p (ctxOf s i g t) s →
    exec i s = .next (s.trappedAt s (ctxOf s i g t) i (x (ctxOf s i g t) s))

/-! ## Set instructions (R187) -/

/-- The thread of a context may sign `i` at convergence register `k`: a live member is there, the thread is one of the
members, and an open use carries the tag of `i` and lacks the thread's signature. -/
structure Joins (c : Ctx) (i : Instr) (k : Nat) (cv : Conv) : Prop where
  reg : c.g.cvs[k]? = some cv
  member : cv.members.getLsbD c.ref.tid = true
  some : cv.members &&& c.g.liveSet ≠ 0
  fresh : cv.pend = true → cv.signed.getLsbD c.ref.tid = false ∧ cv.tag = tagOf i

/-- The use of a convergence register that the thread of a context has signed with operand words. -/
def Conv.signedBy (cv : Conv) (c : Ctx) (i : Instr) (vals : List Word) : Conv :=
  let o := if cv.pend then cv
    else { cv with pend := true, tag := tagOf i, set := cv.members &&& c.g.liveSet, signed := 0, sigs := [] }
  { o with signed := setMem o.signed c.ref.tid true, sigs := insertSig ⟨c.ref.tid, i, vals, c.next⟩ o.sigs }

/-- The state in which the thread of a context has signed, a release by which its core discards the bytes it holds (R114): it goes
on with a window when its instruction may carry a lookahead, and waits for the result otherwise (R188). -/
def State.signedBy (s : State) (c : Ctx) (i : Instr) (k : Nat) (cv : Conv) (vals : List Word) : State :=
  let u := (s.clearL1 c.g.core).setGrp c.ref.grp fun g => { g with cvs := g.cvs.set k (cv.signedBy c i vals) }
  if mayLook i then u.setThr c.ref fun t => t.completeLook c.next (lookOf i) (destSet i) (.set k)
  else u.block c.ref (.set k) c.next

/-- `i` is a set instruction of register `k` with operand words `vals`: where `p` holds its thread signs and the completion
test follows, faults with CONV_SET, or waits to sign the next use (R187). -/
def Signs (i : Instr) (k : Nat) (vals : Ctx → List Word) (p : Ctx → State → Prop) : Prop :=
  ∀ cv, Leads i (fun c s => p c s ∧ Joins c i k cv) (fun c s => (s.signedBy c i k cv (vals c)).testSet c.ref.grp k) ∧
    Traps i (fun c s => p c s ∧ c.g.cvs[k]? = some cv ∧ cv.members.getLsbD c.ref.tid = false ∧ c.t.held = none)
      (fun _ _ => ⟨.convSet, BitVec.ofNat 32 k, 0, 0⟩) ∧
    Traps i (fun c s => p c s ∧ c.g.cvs[k]? = some cv ∧ cv.members.getLsbD c.ref.tid = true ∧
        cv.members &&& c.g.liveSet ≠ 0 ∧ cv.pend = true ∧ cv.signed.getLsbD c.ref.tid = false ∧ cv.tag ≠ tagOf i)
      (fun _ _ => ⟨.convSet, BitVec.ofNat 32 k, 0, 0⟩) ∧
    Waits i (fun c s => p c s ∧ c.g.cvs[k]? = some cv ∧ cv.members.getLsbD c.ref.tid = true ∧
        cv.members &&& c.g.liveSet ≠ 0 ∧ cv.pend = true ∧ cv.signed.getLsbD c.ref.tid = true)
      (fun c _ => .again k c.ref.tid)

/-- Every other live thread of the use that the thread of a context joins has signed it. -/
def Conv.lastFor (cv : Conv) (c : Ctx) : Prop :=
  ∀ t, t < 1024 → t ≠ c.ref.tid → (if cv.pend then cv.set else cv.members &&& c.g.liveSet).getLsbD t = true → c.g.live t = true →
    cv.pend = true ∧ cv.signed.getLsbD t = true

/-- The state once the use `cv` of a register is closed and each participant has received the result that `res` gives (R188). -/
def State.closedUse (s : State) (gi k : Nat) (cv : Conv) (res : Sig → List Write) : State :=
  s.setGrp gi fun g => { g with
    cvs := g.cvs.set k { cv with pend := false, signed := 0, sigs := [] }
    threads := cv.sigs.foldl (fun ts y => ts.modify y.tid fun t => t.receive k (res y)) g.threads }

/-- `i` completes for every participant: where `p` holds, its thread joins the use as the last one, those who signed before did so
with an instruction that `like` admits, and the use is not already waiting to be performed, then the use closes in the state
that `eff` makes of it and each participant receives the result that `res` gives (R187, R188). -/
def Finishes (i : Instr) (k : Nat) (vals : Ctx → List Word) (like : Instr → Prop) (p : Ctx → Conv → State → Prop)
    (eff : Ctx → Conv → State → State) (res : Conv → Sig → List Write) : Prop :=
  ∀ cv, Leads i
    (fun c s => p c cv s ∧ Joins c i k cv ∧ cv.lastFor c ∧ (cv.pend = true → ∀ y ∈ cv.sigs, like y.instr) ∧
      k ∉ c.g.gramQ ∧ k ∉ c.g.gswap)
    fun c s => let v := cv.signedBy c i (vals c)
      (eff c v (s.signedBy c i k cv (vals c))).closedUse c.ref.grp k v (res v)

/-- A register that no write names. -/
def unwritten (r : RegName) (ws : List Write) : Prop := ∀ v, Write.reg r v ∉ ws

/-! ## Instructions that only read and write registers -/

/-- The registers that an instruction of R141 to R152, R156 to R161 or NOP or YIELD writes, %fstat where it updates flags and
S is 0 (R59); none for an instruction that does more than read and write registers of its thread, and for CVT, PACK and
SWRITE. -/
def regDests : Instr → Option (List RegName)
  | .iadd _ d _ _ => some [.d d.toNat]
  | .isub _ d _ _ => some [.d d.toNat]
  | .imul _ d _ _ => some [.d d.toNat]
  | .imulh _ _ d _ _ => some [.d d.toNat]
  | .imad _ d _ _ _ => some [.d d.toNat]
  | .imadw _ _ d _ _ _ => some [.d d.toNat, .d (d.toNat + 1)]
  | .ineg _ d _ => some [.d d.toNat]
  | .iabs _ d _ => some [.d d.toNat]
  | .imin _ _ d _ _ => some [.d d.toNat]
  | .imax _ _ d _ _ => some [.d d.toNat]
  | .ishl _ d _ _ => some [.d d.toNat]
  | .ishr _ d _ _ => some [.d d.toNat]
  | .ilsr _ d _ _ => some [.d d.toNat]
  | .irot _ d _ _ => some [.d d.toNat]
  | .iand _ d _ _ => some [.d d.toNat]
  | .ior _ d _ _ => some [.d d.toNat]
  | .ixor _ d _ _ => some [.d d.toNat]
  | .iandn _ d _ _ => some [.d d.toNat]
  | .inot _ d _ => some [.d d.toNat]
  | .ipopc _ d _ => some [.d d.toNat]
  | .iclz _ d _ => some [.d d.toNat]
  | .ibrev _ d _ => some [.d d.toNat]
  | .ibfe _ _ d _ _ => some [.d d.toNat]
  | .ibfi _ d _ _ _ => some [.d d.toNat]
  | .idiv _ _ d _ _ => some [.d d.toNat]
  | .irem _ _ d _ _ => some [.d d.toNat]
  | .isel _ _ _ d _ _ => some [.d d.toNat]
  | .icmp _ _ q _ _ => some [.q q.toNat]
  | .ladd _ _ d _ _ => some [.d d.toNat, .d (d.toNat + 1)]
  | .lsub _ _ d _ _ => some [.d d.toNat, .d (d.toNat + 1)]
  | .lmul _ _ d _ _ => some [.d d.toNat, .d (d.toNat + 1)]
  | .lshl _ d _ _ => some [.d d.toNat, .d (d.toNat + 1)]
  | .lshr _ _ d _ _ => some [.d d.toNat, .d (d.toNat + 1)]
  | .aadd _ _ _ d _ _ => some [.d d.toNat, .d (d.toNat + 1)]
  | .alea _ _ d _ _ _ => some [.d d.toNat, .d (d.toNat + 1)]
  | .fadd h _ d _ _ => some ([.d d.toNat] ++ (if h.nf then [] else [.fstat]))
  | .fsub h _ d _ _ => some ([.d d.toNat] ++ (if h.nf then [] else [.fstat]))
  | .fmul h _ d _ _ => some ([.d d.toNat] ++ (if h.nf then [] else [.fstat]))
  | .ffma h _ d _ _ _ => some ([.d d.toNat] ++ (if h.nf then [] else [.fstat]))
  | .fdiv h _ d _ _ => some ([.d d.toNat] ++ (if h.nf then [] else [.fstat]))
  | .fmin h d _ _ => some ([.d d.toNat] ++ (if h.nf then [] else [.fstat]))
  | .fmax h d _ _ => some ([.d d.toNat] ++ (if h.nf then [] else [.fstat]))
  | .fcmp h _ q _ _ => some ([.q q.toNat] ++ (if h.nf then [] else [.fstat]))
  | .fsel _ _ _ d _ _ => some [.d d.toNat]
  | .fclass _ d _ => some [.d d.toNat]
  | .fscale h _ d _ _ => some ([.d d.toNat] ++ (if h.nf then [] else [.fstat]))
  | .frint h _ d _ => some ([.d d.toNat] ++ (if h.nf then [] else [.fstat]))
  | .ffrac h d _ => some ([.d d.toNat] ++ (if h.nf then [] else [.fstat]))
  | .frcp h d _ => some ([.d d.toNat] ++ (if h.nf then [] else [.fstat]))
  | .frsq h d _ => some ([.d d.toNat] ++ (if h.nf then [] else [.fstat]))
  | .fex2 h d _ => some ([.d d.toNat] ++ (if h.nf then [] else [.fstat]))
  | .flg2 h d _ => some ([.d d.toNat] ++ (if h.nf then [] else [.fstat]))
  | .hadd2 h _ _ d _ _ => some ([.d d.toNat] ++ (if h.nf then [] else [.fstat]))
  | .hmul2 h _ _ d _ _ => some ([.d d.toNat] ++ (if h.nf then [] else [.fstat]))
  | .hfma2 h _ _ d _ _ _ => some ([.d d.toNat] ++ (if h.nf then [] else [.fstat]))
  | .dxunpack h _ d _ _ => some ([.d d.toNat] ++ (if h.nf then [] else [.fstat]))
  | .unpack h _ d _ => some ([.d d.toNat, .d (d.toNat + 1)] ++ (if h.nf then [] else [.fstat]))
  | .mov _ w d _ => some (if w then [.d d.toNat, .d (d.toNat + 1)] else [.d d.toNat])
  | .movi _ w d _ => some (if w then [.d d.toNat, .d (d.toNat + 1)] else [.d d.toNat])
  | .sread _ d r => some (if r = .cyc ∨ r = .stk then [.d d.toNat, .d (d.toNat + 1)] else [.d d.toNat])
  | .bmix _ d _ _ _ => some [.d d.toNat]
  | .pset _ _ q _ _ => some [.q q.toNat]
  | .plop _ _ _ _ q _ _ => some [.q q.toNat]
  | .nop _ => some []
  | .yield _ => some []
  | _ => none

/-- No write of a list touches %fstat. -/
def keepsFlags (ws : List Write) : Prop := ∀ w ∈ ws, ∀ v f, w ≠ .reg .fstat v ∧ w ≠ .flags f

/-- Device memory with nothing pending on any row: no row function waits, no cell holds sibling state, no row is poisoned or
holds an error that a restore has not met. -/
def State.quietMem (s : State) : Prop :=
  s.rowApps = [] ∧ s.cells = [] ∧ s.poisoned = [] ∧ s.hardErrs = [] ∧ s.softErrs = []

/-- The row of every completion word awaits nothing: no application is pending on it, and it holds no error that a restore has not
met. -/
def State.wordsQuiet (s : State) : Prop :=
  ∀ f ∈ s.rowFns, ∀ pa, f.cword = some pa →
    pa / 1024 ∉ s.softErrs ∧ pa / 1024 ∉ s.hardErrs ∧ ∀ a ∈ s.rowApps, a.1 ≠ pa / 1024

/-- Every row function that each bank has accepted and that has no row left completes (R215, R216, R222): the windows that wait for
it take its pair, the cores that join it and its own group's core lose their L1, and its completion word, unless it lies in a
poisoned row, is written, an access to its home and its stack. -/
def State.rowsCompleted (s : State) : State :=
  let closes (f : RowFn) : Bool := f.done.isNone && decide (f.banks = []) && decide (f.rows = [])
  let pair (f : RowFn) : Dword :=
    BitVec.ofNat 64 (f.poisoned * 2 ^ 32 + 2 ^ 31 + f.flags.toNat * 256 + if f.cancelled then 1 else 0)
  let join (s : State) (f : RowFn) : State :=
    let joins (k : Nat) : Bool := (s.groups.any fun g => g.core == k && g.threads.any fun t =>
      t.windows.any fun w => w.res == .row f.handle) || (s.groups[f.grp]?).map Group.core == some k
    let takes (t : Thread) : Thread :=
      t.resolve (.row f.handle) fun ds => (ds.zip [loWord (pair f), hiWord (pair f)]).map fun x => .reg x.1 x.2
    { s with
      cores := s.cores.mapIdx fun k c => if joins k then { c with l1 := [] } else c
      groups := s.groups.map fun g => { g with threads := g.threads.map takes } }
  let word (s : State) (f : RowFn) : State := match f.cword with
    | none => s
    | some pa =>
      let s := (s.countHome pa 1 (some f.asid)).countStack (s.stackOf (pa / 1024)) 1 (some f.asid) 1
      let s := s.ceaseCells pa 8
      if pa / 1024 ∈ s.poisoned then s else { s with mem := cWrite s.mem pa (leBytes 8 (pair f).toNat) }
  let ended := s.rowFns.filter closes
  ended.foldl word { ended.foldl join s with
    rowFns := s.rowFns.map fun f => if closes f then { f with done := some (pair f) } else f }

end Sys2Proof.Machine
end

