-- ==== Sys2Proof/Certificates/Slice0/Obligations.lean ====
section
/-! DEFINITION. The statements about the machine, for the provers. Each docstring says what its statement says and names the
rules of spec/ it rests on; where a clause is the model's own choice it names the log entry. -/

open Sys2Proof Sys2Proof.Machine

/-- Whenever one of IADD, ISUB, IMUL, IMAD, INEG, IABS, IMIN, IMAX, IAND, IOR, IXOR, IANDN, INOT, IPOPC, ICLZ, ISEL, IMULH and
IMADW runs, it completes, d (a pair for IMADW) receives the value stated here of its operands, modulo 2^32 (2^64 for IMADW),
no flag changes, and nothing else of the state changes but what completion changes of its thread. (10_instructions_data.md
(Integer).) -/
def Obligations.IntegerResults : Prop :=
  ((∀ h d a b, Yields (.iadd h d a b) fun c => toD d (c.w a + c.w b)) ∧
   (∀ h d a b, Yields (.isub h d a b) fun c => toD d (c.w a - c.w b)) ∧
   (∀ h d a b, Yields (.imul h d a b) fun c => toD d (c.w a * c.w b)) ∧
   (∀ h d a b k, Yields (.imad h d a b k) fun c => toD d (c.w a * c.w b + c.w k)) ∧
   (∀ h d a, Yields (.ineg h d a) fun c => toD d (-(c.w a))) ∧
   (∀ h d a, Yields (.iabs h d a) fun c => toD d (if (c.w a).toInt < 0 then -(c.w a) else c.w a)) ∧
   (∀ h d a b, Yields (.imin h false d a b) fun c => toD d (if (c.w b).toInt < (c.w a).toInt then c.w b else c.w a)) ∧
   (∀ h d a b, Yields (.imin h true d a b) fun c => toD d (if (c.w b).toNat < (c.w a).toNat then c.w b else c.w a)) ∧
   (∀ h d a b, Yields (.imax h false d a b) fun c => toD d (if (c.w a).toInt < (c.w b).toInt then c.w b else c.w a)) ∧
   (∀ h d a b, Yields (.imax h true d a b) fun c => toD d (if (c.w a).toNat < (c.w b).toNat then c.w b else c.w a)) ∧
   (∀ h d a b, Yields (.iand h d a b) fun c => toD d (c.w a &&& c.w b)) ∧
   (∀ h d a b, Yields (.ior h d a b) fun c => toD d (c.w a ||| c.w b)) ∧
   (∀ h d a b, Yields (.ixor h d a b) fun c => toD d (c.w a ^^^ c.w b)) ∧
   (∀ h d a b, Yields (.iandn h d a b) fun c => toD d (c.w a &&& ~~~(c.w b))) ∧
   (∀ h d a, Yields (.inot h d a) fun c => toD d (~~~(c.w a))) ∧
   (∀ h d a, Yields (.ipopc h d a) fun c => toD d (BitVec.ofNat 32 ((List.range 32).countP fun i => (c.w a).getLsbD i))) ∧
   (∀ h d a, Yields (.iclz h d a) fun c =>
     toD d (if c.w a = 0 then 32 else BitVec.ofNat 32 (31 - Nat.log2 (c.w a).toNat))) ∧
   (∀ h pn pq d a b, Yields (.isel h pn pq d a b) fun c => toD d (if c.q pq != pn then c.w a else c.w b))) ∧
  ((∀ h d a b, Yields (.imulh h false d a b) fun c =>
     toD d (hiWord (BitVec.ofInt 64 ((c.w a).toInt * (c.w b).toInt)))) ∧
   (∀ h d a b, Yields (.imulh h true d a b) fun c =>
     toD d (hiWord (BitVec.ofNat 64 ((c.w a).toNat * (c.w b).toNat)))) ∧
   (∀ h d a b k, Yields (.imadw h false d a b k) fun c =>
     toPair d (BitVec.ofInt 64 ((c.w a).toInt * (c.w b).toInt + (c.l k).toInt))) ∧
   (∀ h d a b k, Yields (.imadw h true d a b k) fun c =>
     toPair d (BitVec.ofNat 64 ((c.w a).toNat * (c.w b).toNat + (c.l k).toNat))))

/-- Whenever ISHL, ISHR, ILSR, IROT, IBREV, IBFE or IBFI runs, it completes and d receives the shifted value (a distance of 32
or more shifts everything out; IROT takes it modulo 32), or the word whose bits are the ones stated here: reversed, extracted
with sign or zero extension from a field that may run past bit 31, or inserted. (10_instructions_data.md (Integer).) -/
def Obligations.ShiftAndFieldResults : Prop :=
  ((∀ h d a b, Yields (.ishl h d a b) fun c =>
     toD d (if (c.w b).toNat ≥ 32 then 0 else BitVec.ofNat 32 ((c.w a).toNat * 2 ^ (c.w b).toNat))) ∧
   (∀ h d a b, Yields (.ishr h d a b) fun c =>
     toD d (if (c.w b).toNat ≥ 32 then (if (c.w a).getLsbD 31 then 0xFFFFFFFF else 0)
       else BitVec.ofInt 32 ((c.w a).toInt / 2 ^ (c.w b).toNat))) ∧
   (∀ h d a b, Yields (.ilsr h d a b) fun c =>
     toD d (if (c.w b).toNat ≥ 32 then 0 else BitVec.ofNat 32 ((c.w a).toNat / 2 ^ (c.w b).toNat))) ∧
   (∀ h d a b, Yields (.irot h d a b) fun c =>
     toD d ((c.w a <<< ((c.w b).toNat % 32)) ||| (c.w a >>> (32 - (c.w b).toNat % 32))))) ∧
  ((∀ h d a, ∃ f : Word → Word, (Yields (.ibrev h d a) fun c => toD d (f (c.w a))) ∧
     ∀ x i, i < 32 → (f x).getLsbD i = x.getLsbD (31 - i)) ∧
   (∀ h u d a b, ∃ f : Word → Word → Word, (Yields (.ibfe h u d a b) fun c => toD d (f (c.w a) (c.w b))) ∧
     ∀ x y i, i < 32 →
       let pos := y.toNat % 256
       let len := min (y.toNat / 256 % 256) 32
       let bit (k : Nat) : Bool := if pos + k ≤ 31 then x.getLsbD (pos + k) else !u && x.getLsbD 31
       (f x y).getLsbD i = if len = 0 then false else if i < len then bit i else !u && bit (len - 1)) ∧
   (∀ h d a b k, ∃ f : Word → Word → Word → Word,
     (Yields (.ibfi h d a b k) fun c => toD d (f (c.w a) (c.w b) (c.w k))) ∧
     ∀ x y z i, i < 32 →
       let pos := y.toNat % 256
       let len := min (y.toNat / 256 % 256) 32
       (f x y z).getLsbD i = if pos ≤ i ∧ i < pos + len then x.getLsbD (i - pos) else z.getLsbD i))

/-- Whenever IDIV or IREM runs, it completes; quotient and remainder satisfy A = quotient * B + remainder modulo 2^32; for B =
0 the quotient is all ones and the remainder is A; otherwise the quotient is the exact one rounded toward zero, wrapped to 32
bits, the remainder is smaller in magnitude than B, and a nonzero signed remainder has the sign of A. Neither ever faults when
it runs. (R143.) -/
def Obligations.DivisionResults : Prop :=
  ∀ h u d a b, ∃ q r : Word → Word → Word,
    (Yields (.idiv h u d a b) fun c => toD d (q (c.w a) (c.w b))) ∧
    (Yields (.irem h u d a b) fun c => toD d (r (c.w a) (c.w b))) ∧
    ∀ x y, x = q x y * y + r x y ∧
      (y = 0 → q x y = 0xFFFFFFFF ∧ r x y = x) ∧
      (y ≠ 0 → u = true → q x y = BitVec.ofNat 32 (x.toNat / y.toNat) ∧ (r x y).toNat < y.toNat) ∧
      (y ≠ 0 → u = false → q x y = BitVec.ofInt 32 (x.toInt.tdiv y.toInt) ∧ (r x y).toInt.natAbs < y.toInt.natAbs ∧
        (r x y ≠ 0 → ((r x y).toInt < 0 ↔ x.toInt < 0)))

/-- Whenever ICMP, LADD, LSUB, LMUL, LSHL, LSHR, AADD or ALEA runs, it completes with the predicate of the named relation, or
with the pair stated here of its 64-bit A and its B (64-bit, or a word extended as BW says), modulo 2^64; 64-bit shifts by 64
or more shift everything out. (10_instructions_data.md (Integer).) -/
def Obligations.PairAndPredicateResults : Prop :=
  (∀ h cc q a b, Yields (.icmp h cc q a b) fun c => [predWrite q (
    match cc with
    | .eq => decide (c.w a = c.w b) | .ne => decide (c.w a ≠ c.w b)
    | .lt => decide ((c.w a).toInt < (c.w b).toInt) | .le => decide ((c.w a).toInt ≤ (c.w b).toInt)
    | .gt => decide ((c.w a).toInt > (c.w b).toInt) | .ge => decide ((c.w a).toInt ≥ (c.w b).toInt)
    | .ltu => decide ((c.w a).toNat < (c.w b).toNat) | .leu => decide ((c.w a).toNat ≤ (c.w b).toNat)
    | .gtu => decide ((c.w a).toNat > (c.w b).toNat) | .geu => decide ((c.w a).toNat ≥ (c.w b).toNat))]) ∧
  (∀ h d a b, Yields (.ladd h .full d a b) fun c => toPair d (c.l a + c.l b)) ∧
  (∀ h d a b, Yields (.ladd h .sx d a b) fun c => toPair d (c.l a + BitVec.ofInt 64 (c.w b).toInt)) ∧
  (∀ h d a b, Yields (.ladd h .zx d a b) fun c => toPair d (c.l a + BitVec.ofNat 64 (c.w b).toNat)) ∧
  (∀ h d a b, Yields (.lsub h .full d a b) fun c => toPair d (c.l a - c.l b)) ∧
  (∀ h d a b, Yields (.lsub h .sx d a b) fun c => toPair d (c.l a - BitVec.ofInt 64 (c.w b).toInt)) ∧
  (∀ h d a b, Yields (.lsub h .zx d a b) fun c => toPair d (c.l a - BitVec.ofNat 64 (c.w b).toNat)) ∧
  (∀ h d a b, Yields (.lmul h .full d a b) fun c => toPair d (c.l a * c.l b)) ∧
  (∀ h d a b, Yields (.lmul h .sx d a b) fun c => toPair d (c.l a * BitVec.ofInt 64 (c.w b).toInt)) ∧
  (∀ h d a b, Yields (.lmul h .zx d a b) fun c => toPair d (c.l a * BitVec.ofNat 64 (c.w b).toNat)) ∧
  (∀ h d a b, Yields (.lshl h d a b) fun c =>
    toPair d (if (c.w b).toNat ≥ 64 then 0 else BitVec.ofNat 64 ((c.l a).toNat * 2 ^ (c.w b).toNat))) ∧
  (∀ h d a b, Yields (.lshr h false d a b) fun c =>
    toPair d (if (c.w b).toNat ≥ 64 then (if (c.l a).getLsbD 63 then 0xFFFFFFFFFFFFFFFF else 0)
      else BitVec.ofInt 64 ((c.l a).toInt / 2 ^ (c.w b).toNat))) ∧
  (∀ h d a b, Yields (.lshr h true d a b) fun c =>
    toPair d (if (c.w b).toNat ≥ 64 then 0 else BitVec.ofNat 64 ((c.l a).toNat / 2 ^ (c.w b).toNat))) ∧
  (∀ h sh d a b, Yields (.aadd h false sh d a b) fun c =>
    toPair d (BitVec.ofInt 64 ((c.l a).toInt + (c.w b).toInt * 2 ^ sh.toNat))) ∧
  (∀ h sh d a b, Yields (.aadd h true sh d a b) fun c =>
    toPair d (BitVec.ofNat 64 ((c.l a).toNat + (c.w b).toNat * 2 ^ sh.toNat))) ∧
  (∀ h d a b k, Yields (.alea h false d a b k) fun c =>
    toPair d (BitVec.ofInt 64 ((c.l a).toInt + (c.w b).toInt * (c.w k).toNat))) ∧
  (∀ h d a b k, Yields (.alea h true d a b k) fun c =>
    toPair d (BitVec.ofNat 64 ((c.l a).toNat + (c.w b).toNat * (c.w k).toNat)))

/-- Whenever FADD, FSUB, FMUL, FFMA, FDIV, HADD2, HMUL2, HFMA2, FSCALE, FRINT, FFRAC, FRCP, FRSQ, FEX2 or FLG2 runs, it
completes: d receives the result of its operation in the mode it names, of its operands read under FTZ, and the operation's
flags are ORed into %fstat unless S is set; the packed forms apply the F32 sequence to each 16-bit lane in the named format
and OR both lanes' flags. What each operation gives is stated in FloatSpecialCases. (10_instructions_data.md (Floating point);
06_arithmetic.md (Reference transcendentals).) -/
def Obligations.FloatArithmetic : Prop :=
  ((∀ h rm d a b, Yields (.fadd h rm d a b) fun c =>
     toRes h d (fltAdd .f32 (c.mode rm) c.ftz (c.w a).toNat (c.w b).toNat)) ∧
   (∀ h rm d a b, Yields (.fsub h rm d a b) fun c =>
     toRes h d (fltSub .f32 (c.mode rm) c.ftz (c.w a).toNat (c.w b).toNat)) ∧
   (∀ h rm d a b, Yields (.fmul h rm d a b) fun c =>
     toRes h d (fltMul .f32 (c.mode rm) c.ftz (c.w a).toNat (c.w b).toNat)) ∧
   (∀ h rm d a b k, Yields (.ffma h rm d a b k) fun c =>
     toRes h d (fltFma .f32 (c.mode rm) c.ftz (c.w a).toNat (c.w b).toNat (c.w k).toNat)) ∧
   (∀ h rm d a b, Yields (.fdiv h rm d a b) fun c =>
     toRes h d (fltDiv .f32 (c.mode rm) c.ftz (c.w a).toNat (c.w b).toNat)) ∧
   (∀ h rm bf d a b, Yields (.hadd2 h rm bf d a b) fun c =>
     let op := fltAdd (if bf then .b16 else .f16) (c.mode rm) c.ftz
     let lo := op ((c.w a).toNat % 65536) ((c.w b).toNat % 65536)
     let hi := op ((c.w a).toNat / 65536) ((c.w b).toNat / 65536)
     toD d (BitVec.ofNat 32 (hi.bits * 65536 + lo.bits)) ++ toFlags h (lo.fl ||| hi.fl)) ∧
   (∀ h rm bf d a b, Yields (.hmul2 h rm bf d a b) fun c =>
     let op := fltMul (if bf then .b16 else .f16) (c.mode rm) c.ftz
     let lo := op ((c.w a).toNat % 65536) ((c.w b).toNat % 65536)
     let hi := op ((c.w a).toNat / 65536) ((c.w b).toNat / 65536)
     toD d (BitVec.ofNat 32 (hi.bits * 65536 + lo.bits)) ++ toFlags h (lo.fl ||| hi.fl)) ∧
   (∀ h rm bf d a b k, Yields (.hfma2 h rm bf d a b k) fun c =>
     let op := fltFma (if bf then .b16 else .f16) (c.mode rm) c.ftz
     let lo := op ((c.w a).toNat % 65536) ((c.w b).toNat % 65536) ((c.w k).toNat % 65536)
     let hi := op ((c.w a).toNat / 65536) ((c.w b).toNat / 65536) ((c.w k).toNat / 65536)
     toD d (BitVec.ofNat 32 (hi.bits * 65536 + lo.bits)) ++ toFlags h (lo.fl ||| hi.fl))) ∧
  ((∀ h rm d a b, Yields (.fscale h rm d a b) fun c => toRes h d (fscale (c.mode rm) c.ftz (c.w a).toNat (c.w b).toInt)) ∧
   (∀ h rm d a, Yields (.frint h rm d a) fun c => toRes h d (frint (c.mode rm) c.ftz (c.w a).toNat)) ∧
   (∀ h d a, Yields (.ffrac h d a) fun c => toRes h d (ffrac c.ftz (c.w a).toNat)) ∧
   (∀ h d a, Yields (.frcp h d a) fun c =>
     toRes h d (frcpV c.ftz (FFmt.f32.read (FFmt.f32.flushIn c.ftz (c.w a).toNat)))) ∧
   (∀ h d a, Yields (.frsq h d a) fun c =>
     toRes h d (frsqV c.ftz (FFmt.f32.read (FFmt.f32.flushIn c.ftz (c.w a).toNat)))) ∧
   (∀ h d a, Yields (.fex2 h d a) fun c =>
     toRes h d (fex2V c.ftz (FFmt.f32.read (FFmt.f32.flushIn c.ftz (c.w a).toNat)))) ∧
   (∀ h d a, Yields (.flg2 h d a) fun c =>
     toRes h d (flg2V c.ftz (FFmt.f32.read (FFmt.f32.flushIn c.ftz (c.w a).toNat)))))

/-- In every format but E4M3, in every mode, with and without FTZ: a sum, difference, product, fused sum or quotient of finite
operands is the rounding (ConversionResults) of the exact one, with its flags alone (UF for a nonzero exact value only:
DEDUCED, log entry 15); a zero sum of unlike signs is -0 in RD and +0 in every other mode (R85), and one of like signs keeps
the sign (DEDUCED, log entry 16). An infinity beside a value that leaves the result defined gives the infinity or the zero of
its sign without a flag. A NaN operand gives the canonical NaN, with IO exactly when an operand is signalling; infinity minus
infinity, zero times infinity, 0/0 and infinity/infinity give the canonical NaN with IO (zero times infinity in a fused sum
also beside a NaN addend); a finite nonzero value divided by zero gives the infinity of the quotient's sign with DZ alone.
FSCALE, FRINT, FFRAC, FRCP, FRSQ, FEX2 and FLG2 give the values and flags stated here of a NaN, an infinity, a zero, a
negative value and FEX2's out-of-range values; FSCALE rounds A times 2 to the B (stated for B from -1024 to 1024), FRINT gives
the integer that its mode chooses, FFRAC the fraction, each of the last two without IX. Of every other operand FEX2, FLG2,
FRCP and FRSQ give the value of their reference sequence, each step rounded to F32 in RN, the last one under FTZ, with IX
where a step is inexact and OF and UF from the final scaling alone; the tables hold the F32 values nearest 2^(j/32),
1/(1+j/32) and 1/sqrt c, and for log2(1+j/32) the words listed. (10_instructions_data.md (Floating point); 06_arithmetic.md
(Rounding); 06_arithmetic.md (Subnormals, NaNs and flags); 06_arithmetic.md (Reference transcendentals).) -/
def Obligations.FloatSpecialCases : Prop :=
  let times (p q : Q) : Q := ⟨p.neg != q.neg, p.n * q.n, p.d * q.d⟩
  let plus (down : Bool) (p q : Q) : Q :=
    let i : Int := (if p.neg then -(p.n : Int) else p.n) * q.d + (if q.neg then -(q.n : Int) else q.n) * p.d
    if i = 0 then ⟨if p.neg = q.neg then p.neg else down, 0, 1⟩ else ⟨decide (i < 0), i.natAbs, p.d * q.d⟩
  let scaled (p : Q) (e : Int) : Q := ⟨p.neg, p.n * 2 ^ e.toNat, p.d * 2 ^ (-e).toNat⟩
  let minus (p : Q) : Q := ⟨!p.neg, p.n, p.d⟩
  let gives (r : RRes) (w : Nat) (fl : Flags) : Prop := r.bits = w ∧ r.fl = fl
  let sig (l : List FVal) : Flags := if l.any FVal.isSig then fIO else 0
  (∀ (f : FFmt) (m : RMode) (ftz : Bool) (a b k : Nat), f ≠ .e4m3 →
    let x := f.read (f.flushIn ftz a)
    let y := f.read (f.flushIn ftz b)
    let z := f.read (f.flushIn ftz k)
    let add := fltAdd f m ftz a b
    let sub := fltSub f m ftz a b
    let mul := fltMul f m ftz a b
    let fma := fltFma f m ftz a b k
    let div := fltDiv f m ftz a b
    let inf (neg : Bool) : Nat := (if neg then 2 ^ (f.width - 1) else 0) + (f.maxBits + 1)
    let zero (neg : Bool) : Nat := if neg then 2 ^ (f.width - 1) else 0
    let down := decide (m = .rd)
    let rounds (r : RRes) (e : Q) : Prop :=
      gives r ((NFmt.flt f).round m ftz (.fin e)).bits ((NFmt.flt f).round m ftz (.fin e)).fl
    /- finite operands -/
    (∀ p q, x = .fin p → y = .fin q →
      rounds add (plus down p q) ∧ rounds sub (plus down p (minus q)) ∧ rounds mul (times p q) ∧
      (q.n ≠ 0 → rounds div ⟨p.neg != q.neg, p.n * q.d, p.d * q.n⟩) ∧
      (p.n ≠ 0 → q.n = 0 → gives div (inf (p.neg != q.neg)) fDZ) ∧ (p.n = 0 → q.n = 0 → gives div f.nanBits fIO) ∧
      (∀ r, z = .fin r → rounds fma (plus down (times p q) r)) ∧ ∀ g, z = .inf g → gives fma (inf g) 0) ∧
    /- an infinite operand -/
    (∀ g, x = .inf g →
      (∀ q, y = .fin q → gives add (inf g) 0 ∧ gives sub (inf g) 0 ∧ gives div (inf (g != q.neg)) 0 ∧
        if q.n = 0 then gives mul f.nanBits fIO else gives mul (inf (g != q.neg)) 0) ∧
      ∀ h, y = .inf h → gives div f.nanBits fIO ∧ gives mul (inf (g != h)) 0 ∧
        (if g = h then gives add (inf g) 0 else gives add f.nanBits fIO) ∧
        if g = h then gives sub f.nanBits fIO else gives sub (inf g) 0) ∧
    (∀ p h, x = .fin p → y = .inf h →
      gives add (inf h) 0 ∧ gives sub (inf (!h)) 0 ∧ gives div (zero (p.neg != h)) 0 ∧
      if p.n = 0 then gives mul f.nanBits fIO else gives mul (inf (p.neg != h)) 0) ∧
    (x.isInf = true ∧ y.isZero = true ∨ x.isZero = true ∧ y.isInf = true →
      gives fma f.nanBits fIO) ∧
    (x.isNan = false → y.isNan = false → x.isInf = true ∨ y.isInf = true → x.isZero = false → y.isZero = false →
      z.isNan = false →
      if z = .inf (x.sign == y.sign) then gives fma f.nanBits fIO else gives fma (inf (x.sign != y.sign)) 0) ∧
    /- a NaN operand -/
    (x.isNan = true ∨ y.isNan = true → ∀ r ∈ [add, sub, mul, div], gives r f.nanBits (sig [x, y])) ∧
    (x.isNan = true ∨ y.isNan = true ∨ z.isNan = true → ¬ (x.isInf = true ∧ y.isZero = true) →
      ¬ (x.isZero = true ∧ y.isInf = true) → gives fma f.nanBits (sig [x, y, z]))) ∧
  /- FSCALE, FRINT, FFRAC, FRCP, FRSQ, FEX2, FLG2 of the operand `a` -/
  (∀ (m : RMode) (ftz : Bool) (a : Nat),
     let x := FFmt.f32.read (FFmt.f32.flushIn ftz a)
     let signed (neg : Bool) (w : Nat) : Nat := if neg then 0x80000000 + w else w
     let nan := 0x7FC00000
     let inf := 0x7F800000
     (x.isNan = true → (∀ r ∈ [frint m ftz a, ffrac ftz a, frcpV ftz x, frsqV ftz x, fex2V ftz x, flg2V ftz x],
         gives r nan (sig [x])) ∧ ∀ e, gives (fscale m ftz a e) nan (sig [x])) ∧
     (∀ neg, x = .inf neg → (∀ e, gives (fscale m ftz a e) (signed neg inf) 0) ∧ gives (ffrac ftz a) nan fIO ∧
       gives (frint m ftz a) (FFmt.f32.flushIn ftz a) 0 ∧ gives (frcpV ftz x) (signed neg 0) 0 ∧
       (if neg then gives (frsqV ftz x) nan fIO else gives (frsqV ftz x) 0 0) ∧
       (if neg then gives (fex2V ftz x) 0 0 else gives (fex2V ftz x) inf 0) ∧
       (if neg then gives (flg2V ftz x) nan fIO else gives (flg2V ftz x) inf 0)) ∧
     (∀ p : Q, x = .fin p →
       (p.n = 0 → (∀ e, gives (fscale m ftz a e) (signed p.neg 0) 0) ∧ gives (frint m ftz a) (signed p.neg 0) 0 ∧
         gives (ffrac ftz a) (signed p.neg 0) 0 ∧ gives (frcpV ftz x) (signed p.neg inf) fDZ ∧
         gives (frsqV ftz x) (signed p.neg inf) fDZ ∧ gives (flg2V ftz x) (0x80000000 + inf) fDZ) ∧
       (p.n ≠ 0 → p.neg = true → gives (frsqV ftz x) nan fIO ∧ gives (flg2V ftz x) nan fIO) ∧
       (p.neg = false → 128 * p.d ≤ p.n → gives (fex2V ftz x) inf (fOF ||| fIX)) ∧
       (p.neg = true → 150 * p.d < p.n → gives (fex2V ftz x) 0 (fUF ||| fIX)) ∧
       (∀ e : Int, p.n ≠ 0 → -1024 ≤ e → e ≤ 1024 →
         let r := roundV .f32 m ftz (.fin (scaled p e))
         gives (fscale m ftz a e) r.bits r.fl) ∧
       gives (ffrac ftz a) (roundV .f32 .rn false (.fin ⟨p.neg, p.n % p.d, p.d⟩)).bits 0 ∧
       (p.d * 2 ^ 23 ≤ p.n → gives (frint m ftz a) (FFmt.f32.flushIn ftz a) 0) ∧
       (p.n < p.d * 2 ^ 23 → p.d ≠ 0 → ∃ k, gives (frint m ftz a) (roundV .f32 .rn false (.fin ⟨p.neg, k, 1⟩)).bits 0 ∧
         match m with
         | .rn => 2 * k * p.d ≤ 2 * p.n + p.d ∧ 2 * p.n ≤ 2 * k * p.d + p.d ∧
             (2 * k * p.d = 2 * p.n + p.d ∨ 2 * p.n = 2 * k * p.d + p.d → k % 2 = 0)
         | .rz => k = p.n / p.d
         | .rd => k = if p.neg then (p.n + p.d - 1) / p.d else p.n / p.d
         | .ru => k = if p.neg then p.n / p.d else (p.n + p.d - 1) / p.d
         | .rs _ _ _ => k = p.n / p.d ∨ k = p.n / p.d + 1))) ∧
  /- the reference sequences: `rn` is the value of RoundRN, `ix` whether the rounding is inexact, `fma` the exact a b + c -/
  (let word (w : Nat) : Q := match FFmt.f32.read w with | .fin q => q | _ => ⟨false, 0, 1⟩
   let rn (q : Q) : Q := word ((NFmt.flt .f32).round .rn false (.fin q)).bits
   let fma (p q r : Q) : Q := plus false (times p q) r
   let ends (ftz : Bool) (r : RRes) (e : Q) (steps : List Q) : Prop :=
     let l := (NFmt.flt .f32).round .rn ftz (.fin e)
     gives r l.bits (l.fl ||| if steps.any (fun q => ((NFmt.flt .f32).round .rn false (.fin q)).fl != 0) then fIX else 0)
   let frac (n d : Nat) : Q := ⟨false, n, d⟩
   let EXT (j : Nat) : Q := word (tabEXT.getD j 0)
   let RCT (j : Nat) : Q := word (tabRCT.getD j 0)
   let LGT (j : Nat) : Q := word (tabLGT.getD j 0)
   let RQT (j : Nat) : Q := word (tabRQT.getD j 0)
   (∀ j : Nat, j < 32 → let c : ℚ := if j < 16 then 1 + j / 16 else 2 + (j - 16) / 8
     let e : ℚ := (EXT j).n / (EXT j).d
     let q : ℚ := (RQT j).n / (RQT j).d
     (e - 1 / 2 ^ 24) ^ 32 ≤ 2 ^ j ∧ 2 ^ j ≤ (e + 1 / 2 ^ 24) ^ 32 ∧ (EXT j).neg = false ∧
     rn (frac 32 (32 + j)) = RCT j ∧
     (q - 1 / 2 ^ 25) ^ 2 * c ≤ 1 ∧ 1 ≤ (q + 1 / 2 ^ 25) ^ 2 * c ∧ (RQT j).neg = false) ∧
   tabLGT = [0x00000000, 0x3D35D69C, 0x3DB31FB8, 0x3E0462C4, 0x3E2E00D2, 0x3E567AF1, 0x3E7DE0B6, 0x3E92203D,
     0x3EA4D3C2, 0x3EB7110E, 0x3EC8DDD4, 0x3EDA3F60, 0x3EEB3A9F, 0x3EFBD42B, 0x3F060828, 0x3F0DF989] ++
     [0x3F15C01A, 0x3F1D5DA0, 0x3F24D3C2, 0x3F2C2411, 0x3F335004, 0x3F3A58FF, 0x3F41404F, 0x3F480731,
     0x3F4EAED0, 0x3F553848, 0x3F5BA4A4, 0x3F61F4E5, 0x3F6829FB, 0x3F6E44CD, 0x3F744636, 0x3F7A2F04] ∧
   ∀ (ftz : Bool) (a : Nat) (x : Q), FFmt.f32.read (FFmt.f32.flushIn ftz a) = .fin x →
     /- FEX2 -/
     ((if x.neg then x.n ≤ 150 * x.d else x.n < 128 * x.d) →
       let k : Int := (if x.neg then -(x.n : Int) else x.n) * 32 / x.d
       let j := (k % 32).toNat
       let f := plus false x ⟨decide (0 < k), k.natAbs, 32⟩
       let p1 := fma (word 0x3D635847) (rn f) (word 0x3E75FDF0)
       let p2 := fma (rn p1) (rn f) (word 0x3F317218)
       let p3 := times (rn p2) (rn f)
       let y := fma (EXT j) (rn p3) (EXT j)
       ends ftz (fex2V ftz (.fin x)) (scaled (rn y) (k / 32)) [f, p1, p2, p3, y]) ∧
     ∀ e : Int, x.n ≠ 0 → x.d * 2 ^ e.toNat ≤ x.n * 2 ^ (-e).toNat → x.n * 2 ^ (-e).toNat < 2 * (x.d * 2 ^ e.toNat) →
       let m := frac (x.n * 2 ^ (-e).toNat) (x.d * 2 ^ e.toNat)
       let j := (m.n - m.d) * 32 / m.d
       /- FLG2 -/
       (x.neg = false →
         let w := times (plus false m ⟨true, 32 + j, 32⟩) (RCT j)
         let p1 := fma (word 0xBEB8AA3B) (rn w) (word 0x3EF6384F)
         let p2 := fma (rn p1) (rn w) (word 0xBF38AA3B)
         let p3 := fma (rn p2) (rn w) (word 0x3FB8AA3B)
         let p4 := times (rn p3) (rn w)
         let y := plus false (LGT j) (rn p4)
         let l := (NFmt.flt .f32).round .rn ftz (.fin (plus false ⟨decide (e < 0), e.natAbs, 1⟩ (rn y)))
         gives (flg2V ftz (.fin x)) l.bits (if l.fl != 0 || [w, p1, p2, p3, p4, y].any (fun q =>
           ((NFmt.flt .f32).round .rn false (.fin q)).fl != 0) then fIX else 0)) ∧
       /- FRCP -/
       (let h := fma (minus m) (RCT j) (frac 1 1)
        let p1 := fma (rn h) (rn h) (rn h)
        let p2 := fma (rn p1) (rn h) (rn h)
        let p3 := fma (rn p2) (rn h) (rn h)
        let y := fma (RCT j) (rn p3) (RCT j)
        ends ftz (frcpV ftz (.fin x)) ⟨x.neg, (scaled (rn y) (-e)).n, (scaled (rn y) (-e)).d⟩ [h, p1, p2, p3, y]) ∧
       /- FRSQ -/
       (x.neg = false →
         let a := if e % 2 = 0 then m else frac (2 * m.n) m.d
         let j := if e % 2 = 0 then (a.n - a.d) * 16 / a.d else 16 + (a.n - 2 * a.d) * 8 / a.d
         let t := times a (RQT j)
         let h := fma (minus (rn t)) (RQT j) (frac 1 1)
         let p1 := fma (frac 63 256) (rn h) (frac 35 128)
         let p2 := fma (rn p1) (rn h) (frac 5 16)
         let p3 := fma (rn p2) (rn h) (frac 3 8)
         let p4 := fma (rn p3) (rn h) (frac 1 2)
         let p5 := times (rn p4) (rn h)
         let y := fma (RQT j) (rn p5) (RQT j)
         ends ftz (frsqV ftz (.fin x)) (scaled (rn y) (-(e / 2))) [t, h, p1, p2, p3, p4, p5, y]))

/-- Whenever FMIN, FMAX, FCMP, FSEL or FCLASS runs, it completes: FMIN and FMAX give the other operand where one is a NaN and
the canonical NaN where both are, order -0 below +0, and raise IO for a signalling NaN only; FCMP gives its relation, false on
a NaN but for NE and NAN; FSEL copies the selected operand; FCLASS gives the one-hot class of A's bit pattern, without FTZ.
(10_instructions_data.md (Floating point).) -/
def Obligations.FloatSelections : Prop :=
  (∀ h d a b, Yields (.fmin h d a b) fun c =>
    let p := FFmt.f32.flushIn c.ftz (c.w a).toNat
    let q := FFmt.f32.flushIn c.ftz (c.w b).toNat
    let x := FFmt.f32.read p
    let y := FFmt.f32.read q
    toD d (BitVec.ofNat 32 (if x.isNan && y.isNan then 0x7FC00000 else if x.isNan then q else if y.isNan then p
      else if y.below x then q else p)) ++ toFlags h (if x.isSig || y.isSig then fIO else 0)) ∧
  (∀ h d a b, Yields (.fmax h d a b) fun c =>
    let p := FFmt.f32.flushIn c.ftz (c.w a).toNat
    let q := FFmt.f32.flushIn c.ftz (c.w b).toNat
    let x := FFmt.f32.read p
    let y := FFmt.f32.read q
    toD d (BitVec.ofNat 32 (if x.isNan && y.isNan then 0x7FC00000 else if x.isNan then q else if y.isNan then p
      else if x.below y then q else p)) ++ toFlags h (if x.isSig || y.isSig then fIO else 0)) ∧
  (∀ h cc q a b, Yields (.fcmp h cc q a b) fun c =>
    let x := FFmt.f32.read (FFmt.f32.flushIn c.ftz (c.w a).toNat)
    let y := FFmt.f32.read (FFmt.f32.flushIn c.ftz (c.w b).toNat)
    predWrite q (if x.isNan || y.isNan then (match cc with | .ne => true | .nan => true | _ => false)
      else match cc with
        | .eq => x.same y | .ne => !x.same y | .lt => x.less y | .le => x.less y || x.same y
        | .gt => y.less x | .ge => y.less x || x.same y | .num => true | .nan => false) ::
      toFlags h (if x.isSig || y.isSig then fIO else 0)) ∧
  (∀ h pn pq d a b, Yields (.fsel h pn pq d a b) fun c => toD d (if c.q pq != pn then c.w a else c.w b)) ∧
  (∀ h d a, Yields (.fclass h d a) fun c =>
    let w := (c.w a).toNat
    let e := w / 2 ^ 23 % 256
    let f := w % 2 ^ 23
    let neg := decide (w ≥ 2 ^ 31)
    toD d (BitVec.ofNat 32 (2 ^ (
      if e = 255 then (if f = 0 then (if neg then 0 else 7) else if f < 2 ^ 22 then 8 else 9)
      else if e = 0 then (if f = 0 then (if neg then 3 else 4) else if neg then 2 else 5)
      else if neg then 1 else 6)))) ∧
  /- the order of values: -0 is below +0, and the same as +0 -/
  (∀ x y : FVal, x.isNan = false → y.isNan = false →
    let val (q : Q) : ℚ := (if q.neg then -1 else 1) * q.n / q.d
    match x, y with
    | .fin p, .fin q => 0 < p.d → 0 < q.d →
        x.less y = decide (val p < val q) ∧ x.same y = decide (val p = val q) ∧
        x.below y = (decide (val p < val q) || (p.n == 0 && q.n == 0 && p.neg && !q.neg))
    | .inf g, .inf h => x.less y = (g && !h) ∧ x.same y = (g == h) ∧ x.below y = (g && !h)
    | .inf g, _ => x.less y = g ∧ x.same y = false ∧ x.below y = g
    | _, .inf h => x.less y = !h ∧ x.same y = false ∧ x.below y = !h
    | _, _ => True)

/-- Whenever CVT, DXUNPACK, PACK or UNPACK runs, it completes with the conversion of its operands in the destination format,
sign-extended to a word or written to a pair as the format's width asks, with the conversion's flags unless S is set; the
events of CVT and PACK are counted for tensor id 0 of the launch. A conversion reads its source's value, a subnormal under FTZ
as zero, and rounds it: to a floating-point format by the grid, the modes and the overflow table of R85 with the flags of R90
(UF for a nonzero exact value only: DEDUCED, log entry 15), to an integer by R88, where a negative value beyond an unsigned
format gives 0 (DESIGN CHOICE, log entry 82). PACK rounds an F32 in RN or saturates a word to I16 with IO alone; UNPACK gives
the exact F32 or the sign extension, with IO for a signalling NaN only; neither is under FTZ. The value of a pattern is that
of its sign, exponent and fraction in its format; DXUNPACK takes its exponents from B[7:0] and B[15:8], the fields that R156
names (DESIGN CHOICE between two sentences of R156, log entry 90); a DX element's value is its magnitude times the power of
two of the exponent it selects, and a NaN where that is 0xFF. (10_instructions_data.md (Conversion and DX); 06_arithmetic.md
(Element formats); 06_arithmetic.md (Rounding); 06_arithmetic.md (Subnormals, NaNs and flags); 06_arithmetic.md (DX blocks,
exponent planes and sparse forms); 06_arithmetic.md (DX packing).) -/
def Obligations.ConversionResults : Prop :=
  (∀ h m df sf d a b, Completes (.cvt h m df sf d a b) (fun _ _ => True)
    (fun c s => s.tallyRes c [convert (cvtNum df) (cvtNum sf) (c.cvtMode m b) c.ftz
      (if sf.wide then (c.l a).toNat else (c.w a).toNat)])
    fun c _ =>
      let r := convert (cvtNum df) (cvtNum sf) (c.cvtMode m b) c.ftz (if sf.wide then (c.l a).toNat else (c.w a).toNat)
      (match df with
        | .i8 => toD d ((BitVec.ofNat 8 r.bits).signExtend 32)
        | .i16 => toD d ((BitVec.ofNat 16 r.bits).signExtend 32)
        | .i64 => toPair d (BitVec.ofNat 64 r.bits)
        | .n64 => toPair d (BitVec.ofNat 64 r.bits)
        | .f64 => toPair d (BitVec.ofNat 64 r.bits)
        | _ => toD d (BitVec.ofNat 32 r.bits)) ++ toFlags h r.fl) ∧
  (∀ h d a b, Yields (.dxunpack h false d a b) fun c =>
    toRes h d (roundV .f32 .rn c.ftz
      (dxVal false ((c.w a).toNat % 256) ((c.w b).toNat % 256) ((c.w b).toNat / 256 % 256)))) ∧
  (∀ h d a b, Yields (.dxunpack h true d a b) fun c =>
    toRes h d (roundV .f32 .rn c.ftz
      (dxVal true ((c.w a).toNat % 16) ((c.w b).toNat % 256) ((c.w b).toNat / 256 % 256)))) ∧
  (∀ h f d a b, Completes (.pack h f d a b) (fun _ _ => True)
    (fun c s => s.tallyRes c [packHalf f (c.w a).toNat, packHalf f (c.w b).toNat])
    fun c _ => toD d (BitVec.ofNat 32 ((packHalf f (c.w b).toNat).bits * 65536 + (packHalf f (c.w a).toNat).bits)) ++
      toFlags h ((packHalf f (c.w a).toNat).fl ||| (packHalf f (c.w b).toNat).fl)) ∧
  (∀ h f d a, Yields (.unpack h f d a) fun c =>
    let x := unpackHalf f ((c.w a).toNat % 65536)
    let y := unpackHalf f ((c.w a).toNat / 65536)
    toPair d (BitVec.ofNat 32 y.bits ++ BitVec.ofNat 32 x.bits : Dword) ++ toFlags h (x.fl ||| y.fl)) ∧
  /- a conversion rounds the value that its source pattern holds -/
  (∀ (df : NFmt) (f : FFmt) m ftz w,
    let p := w % 2 ^ f.width
    let v := f.read (if ftz && f.ftz && f.isSub p then p / 2 ^ (f.width - 1) * 2 ^ (f.width - 1) else p)
    (convert df (.flt f) m ftz w).bits = (df.round m ftz v).bits ∧
    (convert df (.flt f) m ftz w).fl = (df.round m ftz v).fl ||| (if v.isSig then fIO else 0)) ∧
  (∀ (df : NFmt) (sgn : Bool) (k : Nat) m ftz (w : Nat), 0 < k →
    let u : Int := w % 2 ^ k
    let v : Int := if sgn && decide (2 ^ (k - 1) ≤ u) then u - 2 ^ k else u
    let r := df.round m ftz (.fin ⟨decide (v < 0), v.natAbs, 1⟩)
    (convert df (.int sgn k) m ftz w).bits = r.bits ∧ (convert df (.int sgn k) m ftz w).fl = r.fl) ∧
  /- Cv of PACK, Wd of UNPACK -/
  (∀ w : Word,
    let i := w.toInt
    ((packHalf .i16 w.toNat).bits = (if i < -32768 then 0x8000 else if 32767 < i then 0x7FFF else w.toNat % 65536) ∧
     (packHalf .i16 w.toNat).fl = (if i < -32768 ∨ 32767 < i then fIO else 0)) ∧
    ∀ p ∈ [(PackFmt.f16, FFmt.f16), (PackFmt.b16, FFmt.b16)],
      let v := FFmt.f32.read w.toNat
      let r := (NFmt.flt p.2).round .rn false v
      (packHalf p.1 w.toNat).bits = r.bits ∧ (packHalf p.1 w.toNat).fl = r.fl ||| (if v.isSig then fIO else 0)) ∧
  (∀ w : BitVec 16,
    ((unpackHalf .i16 w.toNat).bits = (w.signExtend 32).toNat ∧ (unpackHalf .i16 w.toNat).fl = 0) ∧
    ∀ p ∈ [(PackFmt.f16, FFmt.f16), (PackFmt.b16, FFmt.b16)],
      let u := unpackHalf p.1 w.toNat
      u.fl = (if (p.2.read w.toNat).isSig then fIO else 0) ∧
      match p.2.read w.toNat, FFmt.f32.read u.bits with
      | .nan _, _ => u.bits = 0x7FC00000
      | .inf g, v => v = .inf g
      | .fin x, .fin y => y.neg = x.neg ∧ y.n * x.d = x.n * y.d
      | _, _ => False) ∧
  /- the value of a DX element, in units of 2^-127 / 32 or / 2 -/
  (∀ (dx4 : Bool) (code a b : Nat),
    let x := if code.testBit (if dx4 then 3 else 7) then b else a
    if x = 255 then dxVal dx4 code a b = .nan false else
      ∃ q, dxVal dx4 code a b = .fin q ∧ q.neg = code.testBit (if dx4 then 2 else 6) ∧ 0 < q.d ∧
        q.n * ((if dx4 then 2 else 32) * 2 ^ 127) = code % (if dx4 then 4 else 64) * 2 ^ x * q.d) ∧
  /- the value of a pattern: sign, exponent and fraction -/
  (∀ (f : FFmt) (w : Nat),
    let neg := w.testBit (f.width - 1)
    let e := w / 2 ^ f.frac % 2 ^ (f.width - 1 - f.frac)
    let fr := w % 2 ^ f.frac
    if f ≠ .e4m3 ∧ e = 2 ^ (f.width - 1 - f.frac) - 1 then
      f.read w = if fr = 0 then .inf neg else .nan (decide (f ≠ .e5m2) && decide (fr < 2 ^ (f.frac - 1)))
    else if f = .e4m3 ∧ e = 15 ∧ fr = 7 then f.read w = .nan false
    else ∃ q, f.read w = .fin q ∧ q.neg = neg ∧ 0 < q.d ∧
      if e = 0 then q.n * 2 ^ (f.bias + f.frac - 1) = fr * q.d
      else q.n * 2 ^ (f.bias + f.frac) = (2 ^ f.frac + fr) * 2 ^ e * q.d) ∧
  /- Round of R85: `up` says whether the candidate away from zero is taken, `lo` units and `rem / den` of a unit being exact -/
  (let up (m : RMode) (neg : Bool) (lo rem den : Nat) : Nat := if rem != 0 && (match m with
       | .rn => decide (den < 2 * rem) || (2 * rem == den && lo % 2 == 1)
       | .rz => false | .rd => neg | .ru => !neg
       | .rs k i h => decide ((mix k i h).toNat < rem * 2 ^ 32 / den)) then 1 else 0
   (∀ f : FFmt, (f.width, f.frac, f.bias, f.emin, f.maxBits, f.nanBits) = match f with
     | .f64 => (64, 52, 1023, -1022, 0x7FEFFFFFFFFFFFFF, 0x7FF8000000000000)
     | .f32 => (32, 23, 127, -126, 0x7F7FFFFF, 0x7FC00000)
     | .f16 => (16, 10, 15, -14, 0x7BFF, 0x7E00)
     | .b16 => (16, 7, 127, -126, 0x7F7F, 0x7FC0)
     | .e4m3 => (8, 3, 7, -6, 0x7E, 0x7F)
     | .e5m2 => (8, 2, 15, -14, 0x7B, 0x7E)) ∧
   (∀ (f : FFmt) (m : RMode) (ftz : Bool),
     let r (v : FVal) : RRes := (NFmt.flt f).round m ftz v
     let signed (neg : Bool) (w : Nat) : Nat := if neg then 2 ^ (f.width - 1) + w else w
     (∀ b, (r (.nan b)).bits = f.nanBits ∧ (r (.nan b)).fl = 0) ∧
     (∀ neg, if f = .e4m3 then (r (.inf neg)).bits = f.nanBits ∧ (r (.inf neg)).fl = fIO
       else (r (.inf neg)).bits = signed neg (f.maxBits + 1) ∧ (r (.inf neg)).fl = 0) ∧
     (∀ neg d, (r (.fin ⟨neg, 0, d⟩)).bits = signed neg 0 ∧ (r (.fin ⟨neg, 0, d⟩)).fl = 0) ∧
     ∀ (x : Q) (l : Int), 0 < x.n → 0 < x.d →
       /- the magnitude lies between 2^l and 2^(l+1) -/
       x.d * 2 ^ l.toNat ≤ x.n * 2 ^ (-l).toNat → x.n * 2 ^ (-(l + 1)).toNat < x.d * 2 ^ (l + 1).toNat →
       /- in units of 2^k -/
       let num (k : Int) : Nat := x.n * 2 ^ (-k).toNat
       let den (k : Int) : Nat := x.d * 2 ^ k.toNat
       let chosen (k : Int) : Nat := num k / den k + up m x.neg (num k / den k) (num k % den k) (den k)
       let e := max l f.emin
       let exact := num (e - f.frac) % den (e - f.frac) == 0
       let tiny := decide (l < f.emin) && !(decide (l = f.emin - 1) && chosen (l - f.frac) == 2 ^ (f.frac + 1))
       let mag := (e - f.emin).toNat * 2 ^ f.frac + chosen (e - f.frac)
       if tiny && ftz && f.ftz then (r (.fin x)).bits = signed x.neg 0 ∧ (r (.fin x)).fl = fUF ||| fIX
       else if mag ≤ f.maxBits then (r (.fin x)).bits = signed x.neg mag ∧
         (r (.fin x)).fl = (if tiny && !exact then fUF else 0) ||| (if exact then 0 else fIX)
       else (r (.fin x)).fl = fOF ||| fIX ∧ (r (.fin x)).bits = signed x.neg (
         if f == .e4m3 || (match m with | .rz => true | .rd => !x.neg | .ru => x.neg | _ => false) then f.maxBits else f.maxBits + 1)) ∧
   (∀ (sgn : Bool) (k : Nat) m ftz, 0 < k →
     let lo : Int := if sgn then -(2 ^ (k - 1)) else 0
     let hi : Int := if sgn then 2 ^ (k - 1) - 1 else 2 ^ k - 1
     let pattern (i : Int) : Nat := (i % 2 ^ k).toNat
     let gives (v : FVal) (i : Int) (fl : Flags) : Prop :=
       ((NFmt.int sgn k).round m ftz v).bits = pattern i ∧ ((NFmt.int sgn k).round m ftz v).fl = fl
     (∀ b, gives (.nan b) 0 fIO) ∧ (∀ neg, gives (.inf neg) (if neg then lo else hi) fIO) ∧
     ∀ x : Q, 0 < x.d →
       let c : Nat := x.n / x.d + up m x.neg (x.n / x.d) (x.n % x.d) x.d
       let i : Int := if x.neg then -c else c
       if i < lo then gives (.fin x) lo fIO
       else if hi < i then gives (.fin x) hi fIO
       else gives (.fin x) i (if x.n % x.d = 0 then 0 else fIX)))

/-- Whenever MOV, MOVI, SREAD, SWRITE, BMIX, PSET or PLOP runs, it completes: MOV and MOVI write the word or pair; SREAD
writes the special register named (%cyc and %stk as pairs); SWRITE writes %fstat whole or %fmode; BMIX builds each byte by its
control field; PSET and PLOP write their predicate. (10_instructions_data.md (Move and predicate).) -/
def Obligations.MoveResults : Prop :=
  (∀ h d a, Yields (.mov h false d a) fun c => toD d (c.w a)) ∧
  (∀ h d a, Yields (.mov h true d a) fun c => toPair d (c.l a)) ∧
  (∀ h d v, Yields (.movi h false d v) fun _ => toD d (v.extractLsb' 0 32)) ∧
  (∀ h d v, Yields (.movi h true d v) fun _ => toPair d v) ∧
  (∀ h d r, Completes (.sread h d r) (fun _ _ => True) (fun _ s => s) fun c s =>
    match r with
    | .tid => toD d (BitVec.ofNat 32 c.ref.tid) | .gid => toD d (BitVec.ofNat 32 c.g.gid)
    | .nthreads => toD d (BitVec.ofNat 32 c.g.nthreads) | .cid => toD d (BitVec.ofNat 32 c.g.cid)
    | .core => toD d (BitVec.ofNat 32 c.g.core) | .part => toD d (BitVec.ofNat 32 (c.ref.tid / 32 % 8))
    | .fstat => toD d (c.t.fstat.setWidth 32) | .fmode => toD d (c.t.fmode.setWidth 32)
    | .cyc => toPair d (s.core c.g.core).cyc
    | .stk => toPair d (c.g.spill + BitVec.ofNat 64 (8 * c.g.espill * (c.g.gid * c.g.nthreads + c.ref.tid)))
    | .job => toD d (BitVec.ofNat 32 c.g.asid) | .launch => toD d (BitVec.ofNat 32 c.g.launch)) ∧
  (∀ h a, Yields (.swrite h .fstat a) fun c => [.reg .fstat (c.w a)]) ∧
  (∀ h a, Completes (.swrite h .fmode a) (fun _ _ => True)
    (fun c s => s.setThr c.ref fun t => { t with fmode :=
      if (c.w a).toNat % 8 ≥ 4 then (if (c.w a).getLsbD 3 then 8 else 0) else (c.w a).extractLsb' 0 4 })
    fun _ _ => []) ∧
  (∀ h d a b k, ∃ f : Word → Word → Word → Word, (Yields (.bmix h d a b k) fun c => toD d (f (c.w a) (c.w b) (c.w k))) ∧
    ∀ x y z j i, j < 4 → i < 8 →
      let ctl := z.toNat / 2 ^ (8 * j) % 256
      let byte (n : Nat) : Bool := (y ++ x : Dword).getLsbD (8 * (ctl % 8) + n)
      (f x y z).getLsbD (8 * j + i) =
        match ctl / 16 % 4 with
        | 0 => if ctl / 8 % 2 = 1 then byte (7 - i) else byte i
        | 1 => false
        | 2 => true
        | _ => byte 7) ∧
  (∀ h z q a b, Yields (.pset h z q a b) fun c => [predWrite q ((c.w a &&& c.w b != 0) != z)]) ∧
  (∀ h op na nb q qa qb, Yields (.plop h op na nb q qa qb) fun c => [predWrite q (
    match op with
    | .and => (c.q qa != na) && (c.q qb != nb) | .or => (c.q qa != na) || (c.q qb != nb)
    | .xor => (c.q qa != na) != (c.q qb != nb) | .not => !(c.q qa != na))])

/-- Whenever BRA, BRA.U or BRX runs, its thread goes on at next + 4 * SignExtend(offset) modulo 2^57, or at Pair(dN), and
nothing else changes. Whenever EXIT runs, the thread's arrived results are written, its windows close, its call stack is
discarded, it is exited, and the completion tests of every convergence register and every named barrier of its group follow in
ascending order. NOP and YIELD complete with no result. (12_instructions_control.md (Control transfer).) -/
def Obligations.BranchesAndEnds : Prop :=
  ((∀ h off, Transfers (.bra h off) fun c => (c.next + 4 * off.signExtend 57).signExtend 64) ∧
   (∀ h off, Transfers (.braU h off) fun c => (c.next + 4 * off.signExtend 57).signExtend 64) ∧
   (∀ h n, Transfers (.brx h n) fun c => c.t.dpair n.toNat)) ∧
  ((∀ h, Leads (.exit h) (fun _ _ => True) fun c s =>
     let u := (s.setThr c.ref fun t => { t with pc := c.next }).setThr c.ref fun t =>
       { t.deliverAll with windows := [], status := .exited, depth := 0, stack := [], held := none }
     (List.range 16).foldl (fun s b => s.barCheck c.ref.grp b) ((List.range 16).foldl (fun s k => s.testSet c.ref.grp k) u)) ∧
   (∀ h, Yields (.nop h) fun _ => []) ∧
   (∀ h, Yields (.yield h) fun _ => []))

/-- Whenever CALL or CALLX runs below depth 4, the return address is pushed in the core and the thread transfers; from depth 4
on, the entry that no longer fits is first stored at the thread's spill slot; at depth 4 + ESPILL and beyond it takes
CALLSTACK_SPILL with the depth as DETAIL. RET at depth 0 takes CALLSTACK_SPILL; otherwise it pops and transfers, reloading the
spilled entry from depth 5 on through a check for reading and writing (DEDUCED, log entry 24). A CALL from a depth below 4
followed by a RET leaves depth and stack as they were and the thread at the CALL's next instruction. (02_execution_model.md
(The call stack); 12_instructions_control.md (Control transfer).) -/
def Obligations.CallAndReturn : Prop :=
  (let enter (u : State) (c : Ctx) (old : List Dword) : State :=
     u.setThr c.ref fun t => { t with depth := c.t.depth + 1, stack := c.next.setWidth 64 :: old }
   let leave (u : State) (c : Ctx) (old : List Dword) : State :=
     u.setThr c.ref fun t => { t with depth := c.t.depth - 1, stack := c.t.stack.tail ++ old }
   let slot (c : Ctx) (k : Nat) : Dword :=
     c.g.spill + BitVec.ofNat 64 (8 * c.g.espill * (c.g.gid * c.g.nthreads + c.ref.tid)) + BitVec.ofNat 64 (8 * k)
   let rel (c : Ctx) (off : Word) : Dword := (c.next + 4 * off.signExtend 57).signExtend 64
   let ra (c : Ctx) : Dword := ((c.t.stack.headD 0).extractLsb' 0 57).signExtend 64
   let calls (i : Instr) (target : Ctx → Dword) : Prop :=
     Jumps i (fun c _ => c.t.depth < 4) (fun c s => enter s c c.t.stack) (fun c _ => target c) ∧
     Traps i (fun c _ => 4 + c.g.espill ≤ c.t.depth) (fun c _ => ⟨.callstackSpill, BitVec.ofNat 32 c.t.depth, 0, 0⟩) ∧
     ∀ pa ty e, Jumps i
       (fun c s => 4 ≤ c.t.depth ∧ c.t.depth < 4 + c.g.espill ∧
         s.check c.g.asid (slot c (c.t.depth - 4)).toNat .write isNormal = .ok pa ty e)
       (fun c s => enter (s.memWrite c.g.core c.g.asid pa ty e (leBytes 8 (c.t.stack.getD 3 0).toNat)) c (c.t.stack.take 3))
       (fun c _ => target c)
   (∀ h off, calls (.call h off) fun c => rel c off) ∧
   (∀ h n, calls (.callx h n) fun c => c.t.dpair n.toNat) ∧
   (∀ h, Traps (.ret h) (fun c _ => c.t.depth = 0) fun _ _ => ⟨.callstackSpill, 0, 0, 0⟩) ∧
   (∀ h, Jumps (.ret h) (fun c _ => 0 < c.t.depth ∧ c.t.depth ≤ 4) (fun c s => leave s c []) fun c _ => ra c) ∧
   (∀ h pa ty e, Jumps (.ret h)
     (fun c s => 5 ≤ c.t.depth ∧ s.check c.g.asid (slot c (c.t.depth - 5)).toNat .both isNormal = .ok pa ty e)
     (fun c s => let r := s.memRead c.g.core c.g.asid true pa ty e 8
       leave r.1 c [BitVec.ofNat 64 (leNat r.2)]) fun c _ => ra c)) ∧
  (∀ h h' off s g t, Runs s (.call h off) g t → t.depth < 4 →
     ∃ s1 t1, exec (.call h off) s = .next s1 ∧ s1.thr s.cur.ref = some t1 ∧ t1.depth = t.depth + 1 ∧
       ∀ g', Runs s1 (.ret h') g' t1 →
         ∃ s2 t2, exec (.ret h') s1 = .next s2 ∧ s2.thr s.cur.ref = some t2 ∧ t2.depth = t.depth ∧ t2.stack = t.stack ∧
           t2.pc = nextPc s (.call h off) t ∧ t2.badPc = none)

/-- Whenever CVSET runs on a register without an open use, MEMBERS becomes exactly the set of its mode; with an open use it
changes no register when the set equals MEMBERS and takes CONV_SET with the register's number as DETAIL otherwise. Where it
completes its core's L1 is empty, as after any release. (12_instructions_control.md (Convergence registers);
08_memory_model.md (Happens-before).) -/
def Obligations.ConvergenceRegisters : Prop :=
  ∀ h m (k : BitVec 4) a b cv, ∃ f : Nat → Word → Word → TSet,
    (Completes (.cvset h m k a b) (fun c _ => c.g.cvs[k.toNat]? = some cv ∧ cv.pend = false)
      (fun c s => (s.clearL1 c.g.core).setGrp c.ref.grp fun g =>
        { g with cvs := g.cvs.set k.toNat { cv with members := f c.g.nthreads (c.w a) (c.w b) } }) fun _ _ => []) ∧
    (Completes (.cvset h m k a b)
      (fun c _ => c.g.cvs[k.toNat]? = some cv ∧ cv.pend = true ∧ f c.g.nthreads (c.w a) (c.w b) = cv.members)
      (fun c s => s.clearL1 c.g.core) fun _ _ => []) ∧
    (Traps (.cvset h m k a b)
      (fun c _ => c.g.cvs[k.toNat]? = some cv ∧ cv.pend = true ∧ f c.g.nthreads (c.w a) (c.w b) ≠ cv.members)
      fun _ _ => ⟨.convSet, k.setWidth 32, 0, 0⟩) ∧
    ∀ n x y t, t < 1024 → (f n x y).getLsbD t = match m with
      | .range => decide (x.toNat ≤ t ∧ t < x.toNat + y.toNat ∧ t < n)
      | .word => decide (t < n ∧ t / 32 = x.toNat % 32) && y.getLsbD (t % 32)
      | .clear => false

/-- Whenever one of these set instructions runs: a member of a register with a live member signs its open or newly opened use
with the operands it reads, a release which empties its core's L1, and the completion test follows; a thread that is no member
takes CONV_SET; a member that meets a use with another tag takes CONV_SET; a member that has signed the open use waits for the
next one. The last thread to sign completes the instruction for all: the use closes and each participant receives its result
(SetCompletion says which). DXPACK opens a use only over exactly 32 live members and takes CONV_SET otherwise; each
participant receives the block's exponents and its own element, and the block's events are counted once for the instance, for
tensor id 0 (DEDUCED, log entry 53); the block is that of DxChoose over the values of SET's threads in ascending %tid, +0 for
one that did not sign. GSWAP completes with 2 in a launch without a quantum and with 1 where no started group waits for a
slot; otherwise its use waits for the swap. (12_instructions_control.md (Convergence registers); 10_instructions_data.md
(Conversion and DX); 20_scheduling_faults.md (System instructions); 06_arithmetic.md (DX packing); 08_memory_model.md
(Happens-before).) -/
def Obligations.SetSignatures : Prop :=
  let any : Ctx → State → Prop := fun _ _ => True
  let vote (c : Ctx) (na : Bool) (p : QReg) : Word := if c.t.pred p.toNat != na then 1 else 0
  let members (c : Ctx) (cv : Conv) : Nat := (List.range 1024).countP fun t => (cv.members &&& c.g.liveSet).getLsbD t
  (∀ h k, Signs (.cvsign h k) k.toNat (fun _ => []) any) ∧
  (∀ h op d a b k, Signs (.shfl h op d a b k) k.toNat (fun c => [c.w a, c.w b]) any) ∧
  (∀ h na q p k, Signs (.voteAll h na q p k) k.toNat (fun c => [vote c na p]) any) ∧
  (∀ h na q p k, Signs (.voteAny h na q p k) k.toNat (fun c => [vote c na p]) any) ∧
  (∀ h na d p b k, Signs (.voteBallot h na d p b k) k.toNat (fun c => [vote c na p, c.w b]) any) ∧
  (∀ h op ty d a k, Signs (.redux h op ty d a k) k.toNat (fun c => [c.w a]) any) ∧
  (∀ h op ty ex d a k, Signs (.scan h op ty ex d a k) k.toNat (fun c => [c.w a]) any) ∧
  (∀ h dx4 d a k, Signs (.dxpack h dx4 d a k) k.toNat (fun c => [c.w a])
    fun c _ => ∀ cv, c.g.cvs[k.toNat]? = some cv → cv.pend = true ∨ members c cv = 32) ∧
  (∀ h d k, Signs (.gswap h d k) k.toNat (fun _ => []) any) ∧
  /- a use that is complete -/
  (let all : Ctx → Conv → State → Prop := fun _ _ _ => True
   let same : Ctx → Conv → State → State := fun _ _ s => s
   (∀ h k, Finishes (.cvsign h k) k.toNat (fun _ => []) (∃ h k, · = .cvsign h k) all same fun _ _ => []) ∧
   (∀ h op d a b k, Finishes (.shfl h op d a b k) k.toNat (fun c => [c.w a, c.w b]) (∃ h op d a b k, · = .shfl h op d a b k)
     all same setResult) ∧
   (∀ h na q p k, Finishes (.voteAll h na q p k) k.toNat (fun c => [vote c na p]) (∃ h na q p k, · = .voteAll h na q p k)
     all same setResult) ∧
   (∀ h na q p k, Finishes (.voteAny h na q p k) k.toNat (fun c => [vote c na p]) (∃ h na q p k, · = .voteAny h na q p k)
     all same setResult) ∧
   (∀ h na d p b k, Finishes (.voteBallot h na d p b k) k.toNat (fun c => [vote c na p, c.w b])
     (∃ h na d p b k, · = .voteBallot h na d p b k) all same setResult) ∧
   (∀ h op ty d a k, Finishes (.redux h op ty d a k) k.toNat (fun c => [c.w a]) (∃ h op ty d a k, · = .redux h op ty d a k)
     all same setResult) ∧
   (∀ h op ty ex d a k, Finishes (.scan h op ty ex d a k) k.toNat (fun c => [c.w a])
     (∃ h op ty ex d a k, · = .scan h op ty ex d a k) all same setResult) ∧
   (∀ h dx4 d a k, Finishes (.dxpack h dx4 d a k) k.toNat (fun c => [c.w a]) (∃ h d a k, · = .dxpack h dx4 d a k)
     (fun c cv _ => cv.pend = true ∨ members c cv = 32)
     (fun c v s => s.tally c.g.asid c.g.launch 0 (dxBlockOf dx4 v).sats (dxBlockOf dx4 v).flushes (dxBlockOf dx4 v).nans)
     fun v x => let b := dxBlockOf dx4 v
       match x.instr with
       | .dxpack h _ d _ _ => toD d (BitVec.ofNat 32 (b.b * 2 ^ 24 + b.a * 2 ^ 16 +
           b.codes.getD (((List.range 1024).filter fun t => v.set.getLsbD t).findIdx (· == x.tid)) 0)) ++ toFlags h b.fl
       | _ => []) ∧
   /- the block of DxChoose -/
   (∀ (dx4 : Bool) (v : Conv),
     let b := dxBlockOf dx4 v
     let q : Int := if dx4 then 1 else 5
     let mx : Nat := if dx4 then 3 else 63
     let th : Int := if dx4 then 1 else 3
     let at_ := (List.range 1024).filter fun t => v.set.getLsbD t
     let val (t : Nat) : FVal := FFmt.f32.read (match v.sigs.find? (fun x => x.tid == t) with | some x => (x.val 0).toNat | none => 0)
     let special (t : Nat) : Bool := (val t).isNan || (val t).isInf
     let mag (t : Nat) : ℚ := match val t with | .fin x => x.n / x.d | _ => 0
     let nearest (u : ℚ) : Nat := ⌊u⌋₊ + if 1 / 2 < u - ⌊u⌋₊ ∨ u - ⌊u⌋₊ = 1 / 2 ∧ ⌊u⌋₊ % 2 = 1 then 1 else 0
     let scaled (e : Nat) (u : ℚ) : ℚ := u * 2 ^ (127 - (e : Int) + q)
     let chosen (u : ℚ) (e : Nat) : Prop := if u = 0 then e = 0 else ∃ x : Nat, x ≤ 254 ∧
       (x = 0 ∨ (2 : ℚ) ^ ((x : Int) - 127) ≤ u) ∧ (x = 254 ∨ u < (2 : ℚ) ^ ((x : Int) - 126)) ∧
       e = if x < 254 ∧ mx < nearest (scaled x u) then x + 1 else x
     let small (t : Nat) : Bool := !special t && decide (mag t < (2 : ℚ) ^ ((b.a : Int) - 127 - th))
     let sel (t : Nat) : Bool := small t && b.b != 255
     let exact (t : Nat) : ℚ := scaled (if sel t then b.b else b.a) (mag t)
     let sat (t : Nat) : Bool := !special t && decide (mx < nearest (exact t))
     let code (t : Nat) : Nat := if special t then (if dx4 then 8 else 128) else
       (if sel t then (if dx4 then 8 else 128) else 0) + (if (val t).sign then (if dx4 then 4 else 64) else 0) +
         min mx (nearest (exact t))
     chosen ((at_.map mag).foldl max 0) b.a ∧
     (if at_.any special then b.b = 255 else if at_.any small then chosen (((at_.filter small).map mag).foldl max 0) b.b
      else b.b = b.a) ∧
     b.codes = at_.map code ∧
     b.fl = (if at_.any special then fIO else 0) ||| (if at_.any sat then fOF ||| fIX else 0) |||
       (if at_.any (fun t => !special t && decide ((nearest (exact t) : ℚ) ≠ exact t)) then fIX else 0) ∧
     b.sats = at_.countP (fun t => sat t || (val t).isInf) ∧ b.nans = at_.countP special ∧
     b.flushes = at_.countP fun t => !special t && decide (mag t ≠ 0) && decide (nearest (exact t) = 0)) ∧
   (∀ h dx4 d a k cv, Traps (.dxpack h dx4 d a k)
     (fun c _ => c.g.cvs[k.toNat]? = some cv ∧ cv.pend = false ∧ cv.members.getLsbD c.ref.tid = true ∧ members c cv ≠ 32 ∧
       c.t.held = none) fun _ _ => ⟨.convSet, BitVec.ofNat 32 k.toNat, 0, 0⟩) ∧
   (∀ h d k, let like : Instr → Prop := (∃ h d k, · = .gswap h d k)
     let word (n : Word) : Conv → Sig → List Write := fun _ x => match x.instr with | .gswap _ d _ => toD d n | _ => []
     Finishes (.gswap h d k) k.toNat (fun _ => []) like (fun c _ _ => c.g.quant = 0) same (word 2) ∧
     (∀ cv, Leads (.gswap h d k)
       (fun c s => Joins c (.gswap h d k) k.toNat cv ∧ cv.lastFor c ∧ (cv.pend = true → ∀ y ∈ cv.sigs, like y.instr) ∧
         k.toNat ∉ c.g.gramQ ∧ k.toNat ∉ c.g.gswap ∧ c.g.quant ≠ 0 ∧ s.slotWaiter c.g.asid c.g.launch = false)
       fun c s => (s.signedBy c (.gswap h d k) k.toNat cv []).closedUse c.ref.grp k.toNat (cv.signedBy c (.gswap h d k) [])
         (word 1 (cv.signedBy c (.gswap h d k) []))) ∧
     ∀ cv, Leads (.gswap h d k)
       (fun c s => Joins c (.gswap h d k) k.toNat cv ∧ cv.lastFor c ∧ (cv.pend = true → ∀ y ∈ cv.sigs, like y.instr) ∧
         k.toNat ∉ c.g.gramQ ∧ k.toNat ∉ c.g.gswap ∧ c.g.quant ≠ 0 ∧ s.slotWaiter c.g.asid c.g.launch = true)
       fun c s => (s.signedBy c (.gswap h d k) k.toNat cv []).setGrp c.ref.grp fun g => { g with gswap := g.gswap ++ [k.toNat] }))

/-- The completion test leaves the state alone while some live thread of SET has not signed; once every thread of SET has
signed or exited it closes the use and delivers its own result to each participant. Participant j's result of SHFL, VOTE,
REDUX and SCAN is that of the table, over the participants in ascending %tid; a fold starts from the first operand and
combines the rest in order, has the identities stated here over no operand, and returns a single operand unchanged but for an
F32 NaN, which becomes canonical. (12_instructions_control.md (Convergence registers).) -/
def Obligations.SetCompletion : Prop :=
  (∀ (s : State) (gi k : Nat) (g : Group) (cv : Conv) (x : Sig) (xs : List Sig),
     s.groups[gi]? = some g → g.cvs[k]? = some cv → k ∉ g.gramQ → k ∉ g.gswap →
     cv.pend = true → cv.sigs = x :: xs →
     (match x.instr with
       | .cvsign _ _ => True | .shfl _ _ _ _ _ _ => True | .voteAll _ _ _ _ _ => True | .voteAny _ _ _ _ _ => True
       | .voteBallot _ _ _ _ _ _ => True | .redux _ _ _ _ _ _ => True | .scan _ _ _ _ _ _ _ => True | _ => False) →
     ((∃ t, t < 1024 ∧ cv.set.getLsbD t = true ∧ cv.signed.getLsbD t = false ∧ g.live t = true ∧ t < g.threads.length) →
       s.testSet gi k = s) ∧
     ((∀ t, cv.set.getLsbD t = true → cv.signed.getLsbD t = true ∨ g.live t = false) →
       s.testSet gi k = s.setGrp gi fun g => { g with
         cvs := g.cvs.set k { cv with pend := false, signed := 0, sigs := [] }
         threads := cv.sigs.foldl (fun ts y => ts.modify y.tid fun t => t.receive k (setResult cv y)) g.threads })) ∧
  (∀ (cv : Conv) (x : Sig) (j : Nat), cv.sigs.Pairwise (fun y z => y.tid < z.tid) → cv.sigs[j]? = some x →
     let rank (k : Int) : Option Sig := if k < 0 then none else cv.sigs[k.toNat]?
     let ops := cv.sigs.map fun y => y.val 0
     (∀ h op d a b k, x.instr = .shfl h op d a b k →
       let from_ : Int := match op with
         | .idx => (x.val 1).toNat | .up => j - (x.val 1).toNat | .down => j + (x.val 1).toNat
         | .xor => (BitVec.ofNat 32 j ^^^ x.val 1).toNat
       setResult cv x = toD d (((rank from_).getD x).val 0)) ∧
     (∀ h na q p k, x.instr = .voteAll h na q p k → setResult cv x = [predWrite q (decide (∀ y ∈ cv.sigs, y.val 0 ≠ 0))]) ∧
     (∀ h na q p k, x.instr = .voteAny h na q p k → setResult cv x = [predWrite q (decide (∃ y ∈ cv.sigs, y.val 0 ≠ 0))]) ∧
     (∀ h na d p b k, x.instr = .voteBallot h na d p b k → ∃ v : Word, setResult cv x = toD d v ∧
       ∀ i, i < 32 → v.getLsbD i = decide (∃ y, cv.sigs[32 * ((x.val 1).toNat % 32) + i]? = some y ∧ y.val 0 ≠ 0)) ∧
     (∀ h op ty d a k, x.instr = .redux h op ty d a k → ty ≠ .f32 → setResult cv x = toD d (fold op ty ops).1) ∧
     (∀ h op d a k, x.instr = .redux h op .f32 d a k →
       setResult cv x = toD d (fold op .f32 ops).1 ++ toFlags h (fold op .f32 ops).2) ∧
     (∀ h op ty ex d a k, x.instr = .scan h op ty ex d a k → ty ≠ .f32 →
       setResult cv x = toD d (fold op ty (ops.take (if ex then j else j + 1))).1) ∧
     (∀ h op ex d a k, x.instr = .scan h op .f32 ex d a k →
       setResult cv x = toD d (fold op .f32 (ops.take (if ex then j else j + 1))).1 ++
         toFlags h (fold op .f32 (ops.take (if ex then j else j + 1))).2)) ∧
  ((∀ op, (fold op .i32 []).1 = (match op with
     | .min => 0x7FFFFFFF | .max => 0x80000000 | .and => 0xFFFFFFFF | _ => 0)) ∧
   (∀ op, (fold op .n32 []).1 = (match op with | .min => 0xFFFFFFFF | .and => 0xFFFFFFFF | _ => 0)) ∧
   (∀ op, (fold op .f32 []).1 = (match op with | .min => 0x7F800000 | .max => 0xFF800000 | _ => 0)) ∧
   (∀ op ty (a : Word) (l : List Word) (b : Word), ty ≠ .f32 →
     let r := (fold op ty (a :: l)).1
     fold op ty [a] = (a, 0) ∧
     (fold op ty (a :: l ++ [b])).1 = match op with
       | .add => r + b | .and => r &&& b | .or => r ||| b | .xor => r ^^^ b
       | .min => if (if ty = .n32 then decide (b.toNat < r.toNat) else decide (b.toInt < r.toInt)) then b else r
       | .max => if (if ty = .n32 then decide (r.toNat < b.toNat) else decide (r.toInt < b.toInt)) then b else r) ∧
   (∀ (a b : Word) (l : List Word),
     let r := fold .add .f32 (a :: l ++ [b])
     let p := (l.foldl (fun x y => (BitVec.ofNat 32 (fltAdd .f32 .rn false x.1.toNat y.toNat).bits,
       x.2 ||| (fltAdd .f32 .rn false x.1.toNat y.toNat).fl)) ((a, 0) : Word × Flags))
     r = (BitVec.ofNat 32 (fltAdd .f32 .rn false p.1.toNat b.toNat).bits, p.2 ||| (fltAdd .f32 .rn false p.1.toNat b.toNat).fl)) ∧
   (∀ up (a b : Word) (l : List Word),
     let op : FoldOp := if up then .max else .min
     let r := fold op .f32 (a :: l ++ [b])
     let p := (l.foldl (fun x y => (BitVec.ofNat 32 (fltMinMax .f32 up x.1.toNat y.toNat).1,
       x.2 ||| (fltMinMax .f32 up x.1.toNat y.toNat).2)) ((a, 0) : Word × Flags))
     r = (BitVec.ofNat 32 (fltMinMax .f32 up p.1.toNat b.toNat).1, p.2 ||| (fltMinMax .f32 up p.1.toNat b.toNat).2)) ∧
   (∀ op (a : Word), fold op .f32 [a] =
     if (FFmt.f32.read a.toNat).isNan then (0x7FC00000, if (FFmt.f32.read a.toNat).isSig then fIO else 0) else (a, 0)))

/-- Whenever BAR.ARRIVE runs it completes and counts one arrival, the first of a phase fixing COUNT; BAR.WAIT makes its thread
a waiter; BAR.SYNC does both; an arrival is a release, which empties its core's L1; the test that follows leaves the state
alone while arrivals are fewer than needed (COUNT, or the live threads for COUNT 0), and otherwise opens the barrier: ARRIVED
0, the next PHASE, no waiters, and every waiter goes on. (12_instructions_control.md (Named barriers); 08_memory_model.md
(Happens-before).) -/
def Obligations.NamedBarriers : Prop :=
  let arrival (c : Ctx) (cnt : Option Src) (b : Bar) : Bar :=
    ⟨b.arrived + 1, if b.arrived = 0 then (match cnt with | some v => max 1 (min (c.w v).toNat 1024) | none => 0) else b.count,
      b.phase, b.waiters⟩
  let change (s : State) (c : Ctx) (n : BitVec 4) (f : Bar → Bar) : State :=
    s.setGrp c.ref.grp fun g => { g with bars := g.bars.modify n.toNat f }
  let sleep (s : State) (c : Ctx) (n : BitVec 4) : State :=
    ((change s c n fun b => { b with waiters := setMem b.waiters c.ref.tid true }).block c.ref (.barrier n.toNat)
      c.next).barCheck c.ref.grp n.toNat
  (∀ h n cnt, Completes (.barArrive h n cnt) (fun _ _ => True)
    (fun c s => (change (s.clearL1 c.g.core) c n (arrival c cnt)).barCheck c.ref.grp n.toNat) fun _ _ => []) ∧
  (∀ h n, Leads (.barWait h n) (fun _ _ => True) fun c s => sleep s c n) ∧
  (∀ h n cnt, Leads (.barSync h n cnt) (fun _ _ => True) fun c s => sleep (change (s.clearL1 c.g.core) c n (arrival c cnt)) c n) ∧
  (∀ (s : State) gi n g b, s.groups[gi]? = some g → g.bars[n]? = some b →
    let need := if b.count = 0 then g.threads.countP Thread.live else b.count
    (b.arrived = 0 ∨ b.arrived < need → s.barCheck gi n = s) ∧
    (0 < b.arrived → need ≤ b.arrived → s.barCheck gi n =
      ((List.range 1024).filter fun t => b.waiters.getLsbD t).foldl (fun s t => s.wake ⟨gi, t⟩ [])
        (s.setGrp gi fun g => { g with bars := g.bars.set n ⟨0, b.count, b.phase + 1, 0⟩ })))

/-- Whenever QCFG runs it takes QUEUE_CFG where the queue holds an entry or a thread waits on it, or where depth and allowance
are out of range, and otherwise sets both. QPUSH and QPOP take QUEUE_CFG on an unconfigured queue; QPUSH appends its word
where the queue and the thread's allowance have room, QPOP takes the oldest; where they cannot, the TRY form reports 0 and the
other form blocks its thread. A push, also one that blocks, is a release and empties its core's L1. With no thread waiting on
the queue a change of it is just that change. (12_instructions_control.md (Hand-off queues); 08_memory_model.md
(Happens-before).) -/
def Obligations.HandOffQueues : Prop :=
  let has (c : Ctx) (n : BitVec 3) (q : HQueue) : Prop := c.g.hqs[n.toNat]? = some q
  let full (c : Ctx) (q : HQueue) : Prop :=
    q.entries.length = q.depth ∨ q.entries.countP (fun e => e.2 == c.ref.tid) = q.allow
  let fault (n : BitVec 3) : TrapInfo := ⟨.queueCfg, n.setWidth 32, 0, 0⟩
  let waits (c : Ctx) (n : BitVec 3) : Prop := ∃ t ∈ c.g.threads, ∃ next, (∃ v, t.status = .blocked (.push n.toNat v) next) ∨
    ∃ sr d, t.status = .blocked (.pop n.toNat sr d) next
  let good (a b : Word) : Prop := 1 ≤ b.toNat ∧ b.toNat ≤ a.toNat ∧ a.toNat ≤ 32
  (∀ h n a b q,
    (Traps (.qcfg h n a b) (fun c _ => has c n q ∧ (q.entries ≠ [] ∨ waits c n)) fun _ _ => fault n) ∧
    (Traps (.qcfg h n a b) (fun c _ => has c n q ∧ (c.w a).toNat ≠ 0 ∧ ¬ good (c.w a) (c.w b)) fun _ _ => fault n) ∧
    Completes (.qcfg h n a b)
      (fun c _ => has c n q ∧ q.entries = [] ∧ ¬ waits c n ∧ ((c.w a).toNat = 0 ∨ good (c.w a) (c.w b)))
      (fun c s => s.setGrp c.ref.grp fun g => { g with
        hqs := g.hqs.set n.toNat ⟨(c.w a).toNat, if (c.w a).toNat = 0 then 0 else (c.w b).toNat, []⟩ }) fun _ _ => []) ∧
  (∀ h tr p n b q,
    (Traps (.qpush h tr p n b) (fun c _ => has c n q ∧ q.depth = 0) fun _ _ => fault n) ∧
    (Completes (.qpush h tr p n b) (fun c _ => has c n q ∧ q.depth ≠ 0 ∧ ¬ full c q)
      (fun c s => (s.clearL1 c.g.core).setQueue c.ref.grp n.toNat { q with entries := q.entries ++ [(c.w b, c.ref.tid)] })
      fun _ _ => if tr then [predWrite p true] else []) ∧
    (Completes (.qpush h true p n b) (fun c _ => has c n q ∧ q.depth ≠ 0 ∧ full c q) (fun _ s => s)
      fun _ _ => [predWrite p false]) ∧
    Leads (.qpush h false p n b) (fun c _ => has c n q ∧ q.depth ≠ 0 ∧ full c q)
      fun c s => (s.clearL1 c.g.core).block c.ref (.push n.toNat (c.w b)) c.next) ∧
  (∀ h tr p sr d n q,
    (Traps (.qpop h tr p sr d n) (fun c _ => has c n q ∧ q.depth = 0) fun _ _ => fault n) ∧
    (∀ v from_ es, Completes (.qpop h tr p sr d n) (fun c _ => has c n q ∧ q.depth ≠ 0 ∧ q.entries = (v, from_) :: es)
      (fun c s => s.setQueue c.ref.grp n.toNat { q with entries := es })
      fun _ _ => toD d v ++ (if sr then [.reg (.d (d.toNat + 1)) (BitVec.ofNat 32 from_)] else []) ++
        (if tr then [predWrite p true] else [])) ∧
    (Completes (.qpop h true p sr d n) (fun c _ => has c n q ∧ q.depth ≠ 0 ∧ q.entries = []) (fun _ s => s)
      fun _ _ => [predWrite p false]) ∧
    Leads (.qpop h false p sr d n) (fun c _ => has c n q ∧ q.depth ≠ 0 ∧ q.entries = [])
      fun c s => s.block c.ref (.pop n.toNat sr d.toNat) c.next) ∧
  (∀ (s : State) gi n q g, s.groups[gi]? = some g →
    (∀ t ∈ g.threads, ∀ next v sr d, t.status ≠ .blocked (.push n v) next ∧ t.status ≠ .blocked (.pop n sr d) next) →
    s.setQueue gi n q = s.setGrp gi fun g => { g with hqs := g.hqs.set n q })

/-- Whenever LD, LDS or LDR runs on an aligned address that its checks pass, it completes, and d and the registers after it
receive the bytes read, extended as the width says; an acquiring order at cluster scope or wider also empties L1.
(10_instructions_data.md (Loads and stores).) -/
def Obligations.LoadResults : Prop :=
  let at_ (c : Ctx) (n : DReg) (off : Word) : Dword := c.t.dpair n.toNat + off.signExtend 64
  let loc (c : Ctx) (n : DReg) (off : Word) : Nat := (c.t.dreg n.toNat + off).toNat
  let regs (w : LdW) (d : DReg) (bs : List Byte) : List Write :=
    let v := leNat bs
    match w with
    | .s8 => toD d ((BitVec.ofNat 8 v).signExtend 32)
    | .s16 => toD d ((BitVec.ofNat 16 v).signExtend 32)
    | .b64 => toD d (BitVec.ofNat 32 v) ++ [.reg (.d (d.toNat + 1)) (BitVec.ofNat 32 (v / 2 ^ 32))]
    | .b128 => toD d (BitVec.ofNat 32 v) ++ [.reg (.d (d.toNat + 1)) (BitVec.ofNat 32 (v / 2 ^ 32)),
        .reg (.d (d.toNat + 2)) (BitVec.ofNat 32 (v / 2 ^ 64)), .reg (.d (d.toNat + 3)) (BitVec.ofNat 32 (v / 2 ^ 96))]
    | _ => toD d (BitVec.ofNat 32 v)
  let near (m : Mc) : Bool := decide (m.scope = .thr ∨ m.scope = .grp)
  let after (u : State) (c : Ctx) (m : Mc) : State :=
    if (m.order = .acq ∨ m.order = .ar ∨ m.order = .sc) ∧ m.scope ≠ .thr ∧ m.scope ≠ .grp then u.clearL1 c.g.core else u
  (∀ h w m d n off pa ty e, Completes (.ld h w m d n off)
    (fun c s => (at_ c n off).toNat % w.bytes = 0 ∧ ty ≠ .io ∧
      s.check c.g.asid (at_ c n off).toNat .read (accessType w.bytes) = .ok pa ty e)
    (fun c s => after (s.memRead c.g.core c.g.asid (near m) pa ty e w.bytes).1 c m)
    fun c s => regs w d (s.memRead c.g.core c.g.asid (near m) pa ty e w.bytes).2) ∧
  (∀ h w m d n off pa e, Completes (.ld h w m d n off)
    (fun c s => (at_ c n off).toNat % w.bytes = 0 ∧
      s.check c.g.asid (at_ c n off).toNat .read (accessType w.bytes) = .ok pa .io e)
    (fun c s => after s c m) fun _ s => regs w d (s.bar0Read pa w.bytes)) ∧
  (∀ h w m d n off, Completes (.lds h w m d n off)
    (fun c _ => loc c n off % w.bytes = 0 ∧ loc c n off + w.bytes ≤ c.g.scratchLen)
    (fun c s => after s c m) fun c _ => regs w d (cRead c.g.scratch (loc c n off) w.bytes)) ∧
  (∀ h w m d n off peer, Completes (.ldr h w m d n off)
    (fun c s => loc c n off % w.bytes = 0 ∧ loc c n off / 2 ^ 19 < c.g.csize ∧ loc c n off / 2 ^ 19 < 4 ∧
      s.groups[c.g.rank (loc c n off / 2 ^ 19)]? = some peer ∧ loc c n off % 2 ^ 19 + w.bytes ≤ peer.scratchLen)
    (fun c s => after s c m) fun c _ => regs w d (cRead peer.scratch (loc c n off % 2 ^ 19) w.bytes))

/-- Whenever ST, STS or STR runs on an aligned address that its checks pass, it completes, and exactly the width's bytes of
its source registers are stored at that address: in memory, in BAR0 for an IO page, or in the named group's scratchpad. A
releasing order also empties L1. (10_instructions_data.md (Loads and stores); 08_memory_model.md (Happens-before).) -/
def Obligations.StoreResults : Prop :=
  let at_ (c : Ctx) (n : DReg) (off : Word) : Dword := c.t.dpair n.toNat + off.signExtend 64
  let loc (c : Ctx) (n : DReg) (off : Word) : Nat := (c.t.dreg n.toNat + off).toNat
  let datum (w : StW) (c : Ctx) (sr : DReg) : Nat :=
    let r (k : Nat) : Nat := (c.t.dreg (sr.toNat + k)).toNat
    match w with
    | .b64 => r 0 + 2 ^ 32 * r 1
    | .b128 => r 0 + 2 ^ 32 * r 1 + 2 ^ 64 * r 2 + 2 ^ 96 * r 3
    | _ => r 0
  let after (u : State) (c : Ctx) (m : Mc) : State :=
    if m.order = .rel ∨ m.order = .ar ∨ m.order = .sc ∨ m.order = .acq ∧ m.scope ≠ .thr ∧ m.scope ≠ .grp
    then u.clearL1 c.g.core else u
  (∀ h w m n off sr pa ty e, Completes (.st h w m n off sr)
    (fun c s => (at_ c n off).toNat % w.bytes = 0 ∧ ty ≠ .io ∧
      s.check c.g.asid (at_ c n off).toNat .write (accessType w.bytes) = .ok pa ty e)
    (fun c s => after (s.memWrite c.g.core c.g.asid pa ty e (leBytes w.bytes (datum w c sr))) c m) fun _ _ => []) ∧
  (∀ h w m n off sr pa e, Completes (.st h w m n off sr)
    (fun c s => (at_ c n off).toNat % w.bytes = 0 ∧
      s.check c.g.asid (at_ c n off).toNat .write (accessType w.bytes) = .ok pa .io e)
    (fun c s => (after s c m).bar0Write (some c.ref.grp) pa w.bytes (datum w c sr % 2 ^ (8 * w.bytes))) fun _ _ => []) ∧
  (∀ h w m n off sr, Completes (.sts h w m n off sr)
    (fun c _ => loc c n off % w.bytes = 0 ∧ loc c n off + w.bytes ≤ c.g.scratchLen)
    (fun c s => after (s.setGrp c.ref.grp fun g =>
      { g with scratch := cWrite g.scratch (loc c n off) (leBytes w.bytes (datum w c sr)) }) c m) fun _ _ => []) ∧
  (∀ h w m n off sr peer, Completes (.str h w m n off sr)
    (fun c s => loc c n off % w.bytes = 0 ∧ loc c n off / 2 ^ 19 < c.g.csize ∧ loc c n off / 2 ^ 19 < 4 ∧
      s.groups[c.g.rank (loc c n off / 2 ^ 19)]? = some peer ∧ loc c n off % 2 ^ 19 + w.bytes ≤ peer.scratchLen)
    (fun c s => after (s.setGrp (c.g.rank (loc c n off / 2 ^ 19)) fun g =>
      { g with scratch := cWrite g.scratch (loc c n off % 2 ^ 19) (leBytes w.bytes (datum w c sr)) }) c m) fun _ _ => [])

/-- In a state with no pending row function, no sibling state and no row error: whenever ST runs on an aligned NORMAL address
it completes, every byte of device memory but those stored keeps its value and those read as stored, host and peer memory,
translations, jobs, launches, queues and engine operations are unchanged, every other thread is unchanged, and of its own
thread %fmode, call depth and stack are, with d, q and %fstat when no window is open. A memory write is seen by a read at any
scope, and a read changes no memory and no group; one made at its home for an instruction leaves none of its bytes in its
core's L1. (10_instructions_data.md (Loads and stores); 08_memory_model.md (Memory types and spaces); 08_memory_model.md
(Happens-before).) -/
def Obligations.StoreFrame : Prop :=
  (∀ h w m n off sr s g t pa e, Runs s (.st h w m n off sr) g t → s.quietMem →
     let va := t.dpair n.toNat + off.signExtend 64
     va.toNat % w.bytes = 0 → s.check g.asid va.toNat .write (accessType w.bytes) = .ok pa .normal e →
     ∃ s', exec (.st h w m n off sr) s = .next s' ∧
       (∀ a, cGet s'.mem a = if pa ≤ a ∧ a < pa + w.bytes then (storeBytes w t sr.toNat).getD (a - pa) 0 else cGet s.mem a) ∧
       s'.hostMem = s.hostMem ∧ s'.peerMem = s.peerMem ∧ s'.tlb = s.tlb ∧ s'.jobs = s.jobs ∧ s'.launches = s.launches ∧
       s'.mgmt = s.mgmt ∧ s'.queues = s.queues ∧ s'.ops = s.ops ∧
       (∀ r, r ≠ s.cur.ref → s'.thr r = s.thr r) ∧
       ∃ t', s'.thr s.cur.ref = some t' ∧ t'.fmode = t.fmode ∧ t'.depth = t.depth ∧ t'.stack = t.stack ∧
         (t.windows = [] → t'.d = t.d ∧ t'.q = t.q ∧ t'.fstat = t.fstat)) ∧
  ((∀ (s : State) core asid pa bs, s.quietMem →
     let s' := s.memWrite core asid pa .normal 0 bs
     (∀ a, s'.peek a = if pa ≤ a ∧ a < pa + bs.length then bs.getD (a - pa) 0 else s.peek a) ∧
     (∀ near, bs ≠ [] → (s'.memRead core asid near pa .normal 0 bs.length).2 = bs)) ∧
   (∀ (s : State) core asid near pa n, s.quietMem →
     let r := s.memRead core asid near pa .normal 0 n
     (near = false → r.2 = (List.range' pa n).map (cGet s.mem)) ∧ r.1.mem = s.mem ∧ r.1.groups = s.groups) ∧
   (∀ (s : State) core asid pa n, s.quietMem →
     let r := s.readFor core asid pa n
     r.2 = (List.range' pa n).map (cGet s.mem) ∧ r.1.mem = s.mem ∧ r.1.groups = s.groups ∧
     ∀ k x, k < s.cores.length → (x ∈ (r.1.core k).l1 ↔ x ∈ (s.core k).l1 ∧ (k = core → x.1 < pa ∨ pa + n ≤ x.1))))

/-- Whenever ATOM or RED runs on an aligned address that its checks pass, it completes, replacing the location's value by the
operation's result, and ATOM returns the value before. Add wraps, MIN and MAX compare as signed or unsigned, CAS stores only
on equality, the float forms ignore %fmode. A releasing order that has written, and an acquiring one at cluster scope or
wider, empties L1. On a NORMAL location every byte outside the operand keeps its value. (10_instructions_data.md (Atomics and
reductions); 08_memory_model.md (Happens-before).) -/
def Obligations.AtomicResults : Prop :=
  let at_ (c : Ctx) (n : DReg) (off : Word) : Dword := c.t.dpair n.toNat + off.signExtend 64
  let width (m : Mc) : Nat := if m.w64 then 8 else 4
  let val (m : Mc) (c : Ctx) (b : DReg) : Nat := if m.w64 then (c.t.dpair b.toNat).toNat else (c.t.dreg b.toNat).toNat
  let new (op : AtomOp) (m : Mc) (x cmp old : Nat) : Option Nat :=
    let f := if m.w64 then FFmt.f64 else FFmt.f32
    let lt (p q : Nat) : Bool := if m.nsg then decide (p < q)
      else if m.w64 then decide ((BitVec.ofNat 64 p).toInt < (BitVec.ofNat 64 q).toInt)
      else decide ((BitVec.ofNat 32 p).toInt < (BitVec.ofNat 32 q).toInt)
    match op with
    | .add => some ((old + x) % 2 ^ (8 * width m))
    | .min => some (if lt x old then x else old)
    | .max => some (if lt old x then x else old)
    | .and => some (old &&& x) | .or => some (old ||| x) | .xor => some (old ^^^ x) | .exch => some x
    | .cas => if old = cmp then some x else none
    | .fadd => some (fltAdd f .rn false old x).bits
    | .fmin => some (fltMinMaxNan f false old x).1
    | .fmax => some (fltMinMaxNan f true old x).1
  let after (wrote : Bool) (u : State) (c : Ctx) (m : Mc) : State :=
    if wrote = true ∧ (m.order = .rel ∨ m.order = .ar ∨ m.order = .sc) ∨
      (m.order = .acq ∨ m.order = .ar ∨ m.order = .sc) ∧ m.scope ≠ .thr ∧ m.scope ≠ .grp then u.clearL1 c.g.core else u
  (∀ op m, ∃ f : Nat → Nat → Nat → Option Nat,
    (∀ x cmp old, x < 2 ^ (8 * width m) → old < 2 ^ (8 * width m) → f x cmp old = new op m x cmp old) ∧
    (∀ h d n off b cmp pa ty e, Completes (.atom h op m d n off b cmp)
      (fun c s => (at_ c n off).toNat % width m = 0 ∧
        s.check c.g.asid (at_ c n off).toNat .both (atomType true op) = .ok pa ty e)
      (fun c s => let r := s.memRmw c.g.core c.g.asid pa ty e (width m) (f (val m c b) (val m c cmp))
        after (f (val m c b) (val m c cmp) r.2).isSome r.1 c m)
      fun c s => let old := (s.memRmw c.g.core c.g.asid pa ty e (width m) (f (val m c b) (val m c cmp))).2
        if m.w64 then toPair d (BitVec.ofNat 64 old) else toD d (BitVec.ofNat 32 old)) ∧
    (∀ h n off b pa ty e, Completes (.red h op m n off b)
      (fun c s => (at_ c n off).toNat % width m = 0 ∧
        s.check c.g.asid (at_ c n off).toNat .both (atomType false op) = .ok pa ty e)
      (fun c s => let r := s.memRmw c.g.core c.g.asid pa ty e (width m) (f (val m c b) (val m c b))
        after (f (val m c b) (val m c b) r.2).isSome r.1 c m)
      fun _ _ => [])) ∧
  (∀ (s : State) core asid pa n f, s.quietMem →
    let old := leNat ((List.range' pa n).map (cGet s.mem))
    (s.memRmw core asid pa .normal 0 n f).2 = old ∧
    ∀ a, cGet (s.memRmw core asid pa .normal 0 n f).1.mem a =
      match f old with
      | some v => if pa ≤ a ∧ a < pa + n then (leBytes n v).getD (a - pa) 0 else cGet s.mem a
      | none => cGet s.mem a)

/-- Whenever LD, ST, ATOM or RED runs: a misaligned address takes MISALIGN; an aligned one takes XLATE_PERMISSION or MEMTYPE
where translation answers so, and parks its thread where the page is absent. LDS, STS, LDR and STR take MISALIGN before
SCRATCH_BOUNDS. Each trap names the faulting address. (10_instructions_data.md (Loads and stores).) -/
def Obligations.AccessFaults : Prop :=
  let at_ (c : Ctx) (n : DReg) (off : Word) : Dword := c.t.dpair n.toNat + off.signExtend 64
  let loc (c : Ctx) (n : DReg) (off : Word) : Nat := (c.t.dreg n.toNat + off).toNat
  let fault (code : FCode) (a : Dword) : TrapInfo := ⟨code, 0, 0, a⟩
  let global (i : Instr) (n : DReg) (off : Word) (al : Nat) (need : Need) (acc : MType → Bool) : Prop :=
    Traps i (fun c _ => (at_ c n off).toNat % al ≠ 0) (fun c _ => fault .misalign (at_ c n off)) ∧
    Traps i (fun c s => (at_ c n off).toNat % al = 0 ∧ s.check c.g.asid (at_ c n off).toNat need acc = .perm)
      (fun c _ => fault .xlatePermission (at_ c n off)) ∧
    Traps i (fun c s => (at_ c n off).toNat % al = 0 ∧ s.check c.g.asid (at_ c n off).toNat need acc = .memtype)
      (fun c _ => fault .memtype (at_ c n off)) ∧
    Leads i (fun c s => (at_ c n off).toNat % al = 0 ∧ s.check c.g.asid (at_ c n off).toNat need acc = .absent)
      (fun c s => s.parkThread c.ref (some (insnOf i)) s.cur.shortw (at_ c n off) false need.w)
  let own (i : Instr) (n : DReg) (off : Word) (al : Nat) : Prop :=
    Traps i (fun c _ => loc c n off % al ≠ 0) (fun c _ => fault .misalign (BitVec.ofNat 64 (loc c n off))) ∧
    Traps i (fun c _ => loc c n off % al = 0 ∧ c.g.scratchLen < loc c n off + al)
      (fun c _ => fault .scratchBounds (BitVec.ofNat 64 (loc c n off)))
  let remote (i : Instr) (n : DReg) (off : Word) (al : Nat) : Prop :=
    Traps i (fun c _ => loc c n off % al ≠ 0) (fun c _ => fault .misalign (BitVec.ofNat 64 (loc c n off))) ∧
    Traps i (fun c _ => loc c n off % al = 0 ∧ (2 ^ 21 ≤ loc c n off ∨ c.g.csize ≤ loc c n off / 2 ^ 19 % 4))
      (fun c _ => fault .scratchBounds (BitVec.ofNat 64 (loc c n off))) ∧
    ∀ peer, Traps i (fun c s => loc c n off % al = 0 ∧ s.groups[c.g.rank (loc c n off / 2 ^ 19 % 4)]? = some peer ∧
        peer.scratchLen < loc c n off % 2 ^ 19 + al) (fun c _ => fault .scratchBounds (BitVec.ofNat 64 (loc c n off)))
  (∀ h w m d n off, global (.ld h w m d n off) n off w.bytes .read (accessType w.bytes)) ∧
  (∀ h w m n off sr, global (.st h w m n off sr) n off w.bytes .write (accessType w.bytes)) ∧
  (∀ h op m d n off b k, global (.atom h op m d n off b k) n off (if m.w64 then 8 else 4) .both (atomType true op)) ∧
  (∀ h op m n off b, global (.red h op m n off b) n off (if m.w64 then 8 else 4) .both (atomType false op)) ∧
  (∀ h w m d n off, own (.lds h w m d n off) n off w.bytes) ∧
  (∀ h w m n off sr, own (.sts h w m n off sr) n off w.bytes) ∧
  (∀ h w m d n off, remote (.ldr h w m d n off) n off w.bytes) ∧
  (∀ h w m n off sr, remote (.str h w m n off sr) n off w.bytes)

/-- Whenever FENCE runs it completes, emptying its core's L1 when its kind releases, or acquires at cluster scope or wider.
CCTL.ALL empties it; CCTL.RANGE leaves no byte of a line that holds a byte of the range, as the issuing job's NORMAL pages
translate it page by page, and keeps every other byte, every other core's L1 and everything else. PREF completes with no
effect (what an L1 holds is filled by turns, log entry 6), FENCE.F with none (no instruction is fetched ahead, log entry 27).
LDP completes with no effect where it is one of the loads that the group's prologue performed, and takes ILLEGAL_VARIANT
elsewhere or as a short. (10_instructions_data.md (Fences and cache hints); 10_instructions_data.md (Loads and stores);
12_instructions_control.md (Dictionaries); 08_memory_model.md (Memory types and spaces).) -/
def Obligations.FencesAndHints : Prop :=
  (∀ h k sc, Completes (.fence h k sc) (fun _ _ => True)
    (fun c s => if k = .acq then (match sc with | .thr => s | .grp => s | _ => s.clearL1 c.g.core) else s.clearL1 c.g.core)
    fun _ _ => []) ∧
  (∀ h n l, ∃ f : State → Nat → Nat → Nat → Nat → List (Nat × Byte),
    (Completes (.cctlRange h n l) (fun _ _ => True)
      (fun c s => s.setCore c.g.core fun k =>
        { k with l1 := f s c.g.core c.g.asid (c.t.dpair n.toNat).toNat (c.t.dreg l.toNat).toNat }) fun _ _ => []) ∧
    /- byte j from the first byte of the range on one of its pages -/
    ∀ (s : State) core asid va len x, x ∈ f s core asid va len ↔ x ∈ (s.core core).l1 ∧
      ¬ ∃ i j pa ty e, (i = 0 ∨ (va + i) % 4096 = 0) ∧ i + j < len ∧ (va + i) % 4096 + j < 4096 ∧
        s.check asid (va + i) .read isNormal = .ok pa ty e ∧ x.1 / 64 = (pa + j) / 64) ∧
  (∀ h, Completes (.cctlAll h) (fun _ _ => True) (fun c s => s.clearL1 c.g.core) fun _ _ => []) ∧
  (∀ h n off, Yields (.pref h n off) fun _ => []) ∧
  (∀ h g k m off, Completes (.ldp h g k m off)
    (fun c s => s.cur.shortw = none ∧ c.t.pc ∈ c.g.prologue)
    (fun _ s => s) fun _ _ => []) ∧
  (∀ h g k m off, Traps (.ldp h g k m off)
    (fun c s => s.cur.shortw.isSome = true ∨ c.t.pc ∉ c.g.prologue)
    fun _ _ => ⟨.illegalVariant, 0, 0, 0⟩) ∧
  (∀ h, Yields (.fenceF h) fun _ => [])

/-- Whenever a sibling operation runs on an aligned address of a SIBLING page, it completes with the values, token and status
word stated here and leaves the cell as stated; SST.T takes SIB_FULL instead where its store is refused. SLD, RECON, RECON.SET
and a refused SST or SST.T, acquire patterns at device scope, and SST and SST.T that store, release patterns, empty the core's
L1. (10_instructions_data.md (Sibling instructions); 08_memory_model.md (Sibling cells); 08_memory_model.md (Memory types and
spaces); 08_memory_model.md (Happens-before).) -/
def Obligations.SiblingOperations : Prop :=
  let reached (s : State) (c : Ctx) (pa : Nat) : State := s.sibReach c.g.core c.g.asid pa
  let cell (s : State) (c : Ctx) (pa : Nat) : SibCell := (reached s c pa).cellAt pa
  let read (s : State) (c : Ctx) (pa : Nat) : State := ((reached s c pa).putCell (cell s c pa)).clearL1 c.g.core
  let after (s : State) (c : Ctx) (pa : Nat) (y : SibCell) : State := (read s c pa).putCell y
  let ok (c : Ctx) (s : State) (n : DReg) (need : Need) (pa e : Nat) : Prop :=
    (c.t.dpair n.toNat).toNat % 8 = 0 ∧ s.check c.g.asid (c.t.dpair n.toNat).toNat need (· == .sibling) = .ok pa .sibling e
  let word (count flags status : Nat) : Word := BitVec.ofNat 32 (count * 2 ^ 24 + flags * 2 ^ 8 + status)
  let limit (e : Nat) : Nat := 2 ^ (bits e 10 9 + 1)
  let stored (s : State) (c : Ctx) (pa e : Nat) (v : DReg) (tok : Option DReg) : SibCell × Nat :=
    (cell s c pa).store (limit e) ((reached s c pa).putCell (cell s c pa) |>.sliceUsed (cell s c pa).pa) (c.t.dpair v.toNat)
      (tok.map fun k => c.t.dpair k.toNat) (BitVec.ofNat 16 (c.g.core * 8 + c.ref.tid / 32 % 8))
  let put (s : State) (c : Ctx) (pa e : Nat) (v : DReg) (tok : Option DReg) : State :=
    let u := (reached s c pa).putCell (cell s c pa)
    ((match (stored s c pa e v tok).2 with
      | 3 => u.countHome (cell s c pa).pa 6 (some c.g.asid)
      | _ => u).clearL1 c.g.core).putCell (stored s c pa e v tok).1
  let dom (c : Ctx) : Half := BitVec.ofNat 16 (c.g.core * 8 + c.ref.tid / 32 % 8)
  (∀ h v d n pa e, Completes (.sld h v d n) (fun c s => ok c s n .read pa e)
    (fun c s => read s c pa)
    fun c s => let x := cell s c pa
      dWrites d.toNat (((List.range v.toNat).flatMap fun k =>
          let y := ((x.sibs[k]?).map Sib.val).getD 0
          [loWord y, hiWord y]) ++
        [sibCheck x.pa, x.stamp, BitVec.ofNat 32 (x.sibs.length * 2 ^ 24 + limit e * 2 ^ 16)])) ∧
  (∀ h sr n v tok pa e, Completes (.sst h sr n v tok) (fun c s => ok c s n .both pa e)
    (fun c s => put s c pa e v tok)
    fun c s => toD sr (word (stored s c pa e v tok).1.sibs.length 0 (stored s c pa e v tok).2)) ∧
  (∀ h sr n v tok pa e, Completes (.sstT h sr n v tok)
    (fun c s => ok c s n .both pa e ∧ (stored s c pa e v tok).2 ≠ sFULL ∧ (stored s c pa e v tok).2 ≠ sEND)
    (fun c s => put s c pa e v tok)
    fun c s => toD sr (word (stored s c pa e v tok).1.sibs.length 0 (stored s c pa e v tok).2)) ∧
  (∀ h sr n v tok pa e, ∀ s g t, Runs s (.sstT h sr n v tok) g t →
    let c := ctxOf s (.sstT h sr n v tok) g t
    ok c s n .both pa e → (stored s c pa e v tok).2 = sFULL ∨ (stored s c pa e v tok).2 = sEND →
    exec (.sstT h sr n v tok) s = .next (s.trappedAt (put s c pa e v tok) c (.sstT h sr n v tok)
      ⟨.sibFull, word (stored s c pa e v tok).1.sibs.length 0 (stored s c pa e v tok).2, 0, c.t.dpair n.toNat⟩)) ∧
  (∀ h op ty d n pa e, Completes (.recon h op ty d n)
    (fun c s => ok c s n .both pa e ∧ (cell s c pa).stamp ≠ 0xFFFFFFFF)
    (fun c s => let x := cell s c pa
      after s c pa ⟨x.pa, x.stamp + 1, x.floor, [⟨BitVec.ofNat 64 (recon op ty x.sibs).1, x.stamp + 1, dom c⟩]⟩)
    fun c s => let x := cell s c pa
      let r := recon op ty x.sibs
      dWrites d.toNat [loWord (BitVec.ofNat 64 r.1), hiWord (BitVec.ofNat 64 r.1), sibCheck x.pa, x.stamp + 1,
        word 1 r.2.toNat sDONE] ++ toFlags h r.2) ∧
  (∀ h op ty d n pa e, Completes (.recon h op ty d n)
    (fun c s => ok c s n .both pa e ∧ (cell s c pa).stamp = 0xFFFFFFFF)
    (fun c s => read s c pa)
    fun c s => dWrites (d.toNat + 4) [word (cell s c pa).sibs.length 0 sEND]) ∧
  (∀ h sr n v t pa e, Completes (.reconSet h sr n v t)
    (fun c s => ok c s n .both pa e ∧ (cell s c pa).stamp ≠ 0xFFFFFFFF ∧
      loWord (c.t.dpair t.toNat) = sibCheck (cell s c pa).pa ∧ hiWord (c.t.dpair t.toNat) = (cell s c pa).stamp)
    (fun c s => let x := cell s c pa
      after s c pa ⟨x.pa, x.stamp + 1, x.floor, [⟨c.t.dpair v.toNat, x.stamp + 1, dom c⟩]⟩)
    fun _ _ => toD sr (word 1 0 sDONE)) ∧
  (∀ h sr n v t pa e, Completes (.reconSet h sr n v t)
    (fun c s => ok c s n .both pa e ∧ ((cell s c pa).stamp = 0xFFFFFFFF ∨
      loWord (c.t.dpair t.toNat) ≠ sibCheck (cell s c pa).pa ∨ hiWord (c.t.dpair t.toNat) ≠ (cell s c pa).stamp))
    (fun c s => read s c pa)
    fun c s => toD sr (word (cell s c pa).sibs.length 0 (
      if (cell s c pa).stamp = 0xFFFFFFFF then sEND
      else if loWord (c.t.dpair t.toNat) ≠ sibCheck (cell s c pa).pa then sMISMATCH else sSTALE))) ∧
  /- reaching a cell: its row is activated for the job, and no cell, core or group changes but by what its pending applications do -/
  (∀ (s : State) core asid pa, s.quietMem → (s.sibReach core asid pa).mem = s.mem ∧ (s.sibReach core asid pa).cells = [] ∧
    (s.sibReach core asid pa).cellAt pa = ⟨pa, 0, 0, [⟨BitVec.ofNat 64 (leNat ((List.range' pa 8).map (cGet s.mem))), 0, 0xFFFF⟩]⟩ ∧
    (s.sibReach core asid pa).groups = s.groups ∧ (s.sibReach core asid pa).cores = s.cores)

/-- A store to a cell keeps the siblings that its token does not supersede, is refused at the last stamp or where the limit or
the slice's table has no room, and otherwise appends the value with the next stamp and reports DONE, TOKEN_MISMATCH or STALE
as the token decides; ascending stamps at most sigma stay so, and sigma never falls. RECON's value and flags are the fold of
its operation over the siblings in their order, from the first one's value, on whole values or on two F32 lanes; those of a
single sibling are its value, a NaN lane made canonical. (08_memory_model.md (Sibling cells).) -/
def Obligations.SiblingStoreRules : Prop :=
  (∀ (op : ReconOp) (ty : ReconTy) (x : Sib) (l : List Sib), (op = .and ∨ op = .or → ty = .i64 ∨ ty = .n64) →
    let lanes (f : Nat → Nat → Nat × Flags) (a b : Nat) : Nat × Flags :=
      let lo := f (a % 2 ^ 32) (b % 2 ^ 32)
      let hi := f (a / 2 ^ 32) (b / 2 ^ 32)
      (hi.1 * 2 ^ 32 + lo.1, lo.2 ||| hi.2)
    let one (f : FFmt) (a _ : Nat) : Nat × Flags :=
      if (f.read a).isNan then (f.nanBits, if (f.read a).isSig then fIO else 0) else (a, 0)
    let two (f : FFmt) (a b : Nat) : Nat × Flags :=
      let y := f.read a
      let z := f.read b
      if op = .sum then ((fltAdd f .rn false a b).bits, (fltAdd f .rn false a b).fl)
      else if y.isNan || z.isNan then (f.nanBits, if y.isSig || z.isSig then fIO else 0)
      else (if op = .max then (if y.below z then b else a) else if z.below y then b else a, 0)
    let below (a b : Nat) : Bool :=
      if ty = .i64 then decide ((BitVec.ofNat 64 a).toInt < (BitVec.ofNat 64 b).toInt) else decide (a < b)
    let step (a b : Nat) : Nat × Flags := match ty with
      | .f64 => two .f64 a b
      | .f32 => lanes (two .f32) a b
      | _ => (match op with
        | .sum => (a + b) % 2 ^ 64 | .and => a &&& b | .or => a ||| b
        | .max => if below a b then b else a
        | .min => if below b a then b else a, 0)
    recon op ty [x] = (match ty with
      | .f64 => one .f64 x.val.toNat 0
      | .f32 => lanes (one .f32) x.val.toNat 0
      | _ => (x.val.toNat, 0)) ∧
    (l ≠ [] → recon op ty (x :: l) =
      l.foldl (fun r y => ((step r.1 y.val.toNat).1, r.2 ||| (step r.1 y.val.toNat).2)) (x.val.toNat, 0))) ∧
  ∀ (x : SibCell) (limit used : Nat) (v : Dword) (tok : Option Dword) (dom : Half),
    let r := x.store limit used v tok dom
    let kept : List Sib := match tok with
      | some t => if loWord t = sibCheck x.pa ∧ hiWord t ≤ x.stamp ∧ x.floor ≤ hiWord t
          then x.sibs.filter fun y => decide (hiWord t < y.stamp) else x.sibs
      | none => x.sibs
    let good (t : Dword) : Prop := loWord t = sibCheck x.pa ∧ hiWord t ≤ x.stamp
    (x.stamp = 0xFFFFFFFF → r = (x, 4)) ∧
    (x.stamp ≠ 0xFFFFFFFF → limit < kept.length + 1 ∨ 8192 < used + kept.length → r = (x, 3)) ∧
    (x.stamp ≠ 0xFFFFFFFF → kept.length + 1 ≤ limit → used + kept.length ≤ 8192 →
      r.1 = ⟨x.pa, x.stamp + 1, x.floor, kept ++ [⟨v, x.stamp + 1, dom⟩]⟩ ∧
      (∀ t, tok = some t → good t → x.floor ≤ hiWord t → r.2 = 0) ∧
      (∀ t, tok = some t → good t → hiWord t < x.floor → r.2 = 2) ∧
      (∀ t, tok = some t → ¬ good t → r.2 = 1) ∧ (tok = none → r.2 = 1)) ∧
    (x.sibs.Pairwise (fun a b => a.stamp < b.stamp) → (∀ y ∈ x.sibs, y.stamp ≤ x.stamp) →
      r.1.sibs.Pairwise (fun a b => a.stamp < b.stamp) ∧ (∀ y ∈ r.1.sibs, y.stamp ≤ r.1.stamp) ∧ x.stamp ≤ r.1.stamp)

/-- Whenever ROWREG or ROWREQ runs and its descriptor is found good: a program that fails validation gives REFUSED with its
reason and place, too many functions give BUSY, and otherwise a new function is registered for the covered rows and banks and
the thread waits for every bank to accept it. A bad descriptor takes ROW_REGION with the descriptor's address (DEDUCED, log
entry 25); a descriptor is bad exactly under the conditions stated here. An image is rejected at the first word that meets a
reason, with that word's least reason of 1 to 5, or for a missing REND or a byte after the constants with reason 5 at 16.
(14_row_functions.md (Registrations and requests); 14_row_functions.md (ROWREG, ROWREQ); 14_row_functions.md (Row programs).)
-/
def Obligations.RowRegistration : Prop :=
  (let addr (c : Ctx) (n : DReg) : Nat := (c.t.dpair n.toNat).toNat
   let desc (s : State) (c : Ctx) (pa : Nat) : State × Nat := let r := s.readFor c.g.core c.g.asid pa 32; (r.1, leNat r.2)
   /- the descriptor stands at `pa`, and every check of it passes: rows `rows`, program at `pi`, completion word at `cw` -/
   let found (c : Ctx) (s : State) (rq : Bool) (n : DReg) (pa : Nat) (rows : List Nat) (pi : Nat) (cw : Option Nat) : Prop :=
     let w := (desc s c pa).2
     let x := RowDesc.ofNat w
     addr c n % 32 = 0 ∧ (∃ e, s.check c.g.asid (addr c n) .read isNormal = .ok pa .normal e) ∧ badDesc rq w = false ∧
     (desc s c pa).1.rangeRows c.g.asid x.base (x.len / 1024) = .ok rows ∧
     (∃ e, (desc s c pa).1.check c.g.asid (BitVec.ofNat 64 x.prog).toNat .read isNormal = .ok pi .normal e) ∧
     (match cw with
       | none => x.cword = 0
       | some pw => x.cword ≠ 0 ∧ ∃ e, (desc s c pa).1.check c.g.asid (BitVec.ofNat 64 x.cword).toNat .write isNormal = .ok pw .normal e)
   let image (s : State) (c : Ctx) (pa pi : Nat) : State × List Byte :=
     let r := (desc s c pa).1.readFor c.g.core c.g.asid pi 128; (r.1.clearL1 c.g.core, r.2)
   let go (i : Instr) (rq : Bool) (d n : DReg) : Prop := ∀ pa rows pi cw,
     (∀ why, Completes i (fun c s => found c s rq n pa rows pi cw ∧
         rowValidate (imagePad (image s c pa pi).2) 0 false (imageWords (image s c pa pi).2) = some why)
       (fun c s => (image s c pa pi).1) fun _ _ => dWrites d.toNat [BitVec.ofNat 32 (2 + 256 * why.2 + 65536 * why.1), 0]) ∧
     Completes i (fun c s => found c s rq n pa rows pi cw ∧
         rowValidate (imagePad (image s c pa pi).2) 0 false (imageWords (image s c pa pi).2) = none ∧
         (image s c pa pi).1.rowBusy rq rows.dedup = true)
       (fun c s => (image s c pa pi).1) (fun _ _ => dWrites d.toNat [1, 0]) ∧
     Leads i (fun c s => found c s rq n pa rows pi cw ∧
         rowValidate (imagePad (image s c pa pi).2) 0 false (imageWords (image s c pa pi).2) = none ∧
         (image s c pa pi).1.rowBusy rq rows.dedup = false)
       (fun c s => let u := (image s c pa pi).1
         let f := RowFn.make u.nextHandle (u.rowName c.g.asid) c.g.asid c.ref.grp rq (image s c pa pi).2 cw (rows.dedup.map u.bankOf).dedup rows.dedup
         ({ u with rowFns := u.rowFns ++ [f], nextHandle := u.nextHandle + 1 }).block c.ref (.rowFn u.nextHandle d.toNat) c.next) ∧
     (∀ e, Traps i (fun c s => addr c n % 32 = 0 ∧ s.check c.g.asid (addr c n) .read isNormal = .ok pa .normal e ∧
         badDesc rq (desc s c pa).2 = true) fun c _ => ⟨.rowRegion, 0, 0, c.t.dpair n.toNat⟩)
   (∀ h d n, go (.rowreg h d n) false d n) ∧ (∀ h d n, go (.rowreq h d n) true d n)) ∧
  (∀ rq w, badDesc rq w = true ↔
     let base := w % 2 ^ 64
     let len := w / 2 ^ 64 % 2 ^ 32
     let gap := w / 2 ^ 96 % 2 ^ 32
     let prog := w / 2 ^ 128 % 2 ^ 64
     let cword := w / 2 ^ 192 % 2 ^ 64
     base % 1024 ≠ 0 ∨ len = 0 ∨ len % 1024 ≠ 0 ∨ 2 ^ 28 < len ∨ gap ≠ 0 ∨ prog % 128 ≠ 0 ∨ cword % 8 ≠ 0 ∨
       (rq = true ∧ len ≠ 1024)) ∧
  /- Validate: the first word with a reason, and its least reason -/
  (∀ (pad : Bool) (ws : List Nat), ws.length = 16 → (∀ w ∈ ws, w < 2 ^ 32) →
     let rend := ws.findIdx fun w => w / 2 ^ 27 == 0x15
     let why (i : Nat) : Option Nat :=
       let w := ws.getD i 0
       let op := w / 2 ^ 27
       let fmt := w / 2 ^ 24 % 8
       let pl := w / 2 ^ 22 % 4
       let ph := w / 2 ^ 19 % 8
       let mk := w / 2 ^ 18 % 2
       let msel := w / 2 ^ 16 % 4
       let dw := w / 2 ^ 14 % 4
       let aw := w / 2 ^ 12 % 4
       let bw := w / 2 ^ 10 % 4
       let cw := w / 2 ^ 8 % 4
       let kb := w / 2 ^ 6 % 4
       let kc := w / 2 ^ 4 % 4
       let sub := w % 16
       let float := decide (fmt < 3)
       let listed : Nat := if op ∈ [3, 4, 5, 6] then (if float then 4 else 1) else if op = 0x0B then 4 else if op = 0x0C then 6
         else if op ∈ [0x0E, 0x0F, 0x10, 0x12] then 2 else if op = 0x13 then 16 else 1
       let masks := decide (op ∈ [0x0E, 0x0F, 0x10]) && sub == 1
       let hasD := decide (op ∉ [0x00, 0x02, 0x14, 0x15])
       let hasA := decide (op ∉ [0x00, 0x01, 0x15])
       let hasB := decide (op ∉ [0x00, 0x01, 0x02, 0x09, 0x13, 0x14, 0x15])
       let hasC := decide (op ∈ [0x06, 0x0A])
       if 0x16 ≤ op ∨ 6 ≤ fmt then some 1
       else if 2 ^ pl ≤ ph ∨ kb = 3 ∨ kc = 3 ∨ listed ≤ sub ∨ (op = 0x13 ∧ 6 ≤ sub % 8) then some 2
       else if (dw ≠ 0 ∧ ¬ hasD) ∨ (aw ≠ 0 ∧ ¬ hasA) ∨ (bw ≠ 0 ∧ ¬ (hasB ∧ kb = 0)) ∨ (kb ≠ 0 ∧ ¬ hasB) ∨
           (cw ≠ 0 ∧ ¬ (hasC ∧ kc = 0)) ∨ (kc ≠ 0 ∧ ¬ hasC) ∨ (masks ∧ kb ≠ 0) ∨ (msel ≠ 0 ∧ mk = 0 ∧ op ≠ 0x0D) ∨
           (op = 0x15 ∧ w ≠ 0xA8000000) then some 3
       else if (op = 0x00 ∧ fmt ≠ 0) ∨ (op = 0x0B ∧ ¬ (float ∧ kb ≠ 0)) ∨ (op = 0x0D ∧ mk = 1) ∨
           (masks ∧ (fmt ≠ 0 ∨ pl ≠ 0 ∨ ph ≠ 0 ∨ mk ≠ 0)) ∨ (op ∈ [0x0E, 0x0F, 0x10] ∧ ¬ masks ∧ float) ∨
           (op ∈ [0x11, 0x12] ∧ float) ∨ (op = 0x14 ∧ (fmt ≠ 0 ∨ pl ≠ 0 ∨ ph ≠ 0 ∨ mk ≠ 0)) then some 4
       else if rend < i ∧ w ≠ 0 then some 5 else none
     rowValidate pad 0 false ws = match (List.range 16).find? fun i => (why i).isSome with
       | some i => (why i).map fun r => (r, i)
       | none => if rend = 16 ∨ pad then some (5, 16) else none)

/-- Whatever value the device proposes, the handle that the model assigns to a job's next registration or request is not 0 and
differs from the handle of every pending or retained function of that job, while the job has fewer than 2^32 - 1 of them.
(14_row_functions.md (Registrations and requests).) -/
def Obligations.NewHandles : Prop :=
  ∀ (s : State) (asid : Nat), (s.rowFns.filter fun f => f.asid == asid).length < 2 ^ 32 - 1 →
    s.rowName asid ≠ 0 ∧ ∀ f ∈ s.rowFns, f.asid = asid → f.name ≠ s.rowName asid

/-- Whenever ROWWAIT runs, an unknown handle gives NOHANDLE, a complete one its completion pair, and one in progress leaves a
window for the pair. ROWCANCEL gives NOHANDLE, LATE, or cancels: the function's pending applications are gone, it is marked
CANCELLED where a row that is not poisoned was still to come, its other rows count as poisoned (both DEDUCED, log entry 57),
banks that had not accepted it do so, and it completes (stated where the rows of the completion words await nothing). ROWQRY
on a ROW page completes with the bank's sweep position, the row's place, the number of pending applications (0 on a poisoned
row) and the stack's sweep period. (14_row_functions.md (ROWWAIT); 14_row_functions.md (ROWQRY); 14_row_functions.md
(ROWCANCEL).) -/
def Obligations.RowJoins : Prop :=
  let named (c : Ctx) (s : State) (a : DReg) : Option RowFn :=
    s.rowFns.find? fun f => f.asid == c.g.asid && f.name == c.t.dreg a.toNat
  (∀ h d a, Completes (.rowwait h d a) (fun c s => named c s a = none) (fun _ s => s) fun _ _ => toPair d 2) ∧
  (∀ h d a f p, Completes (.rowwait h d a) (fun c s => named c s a = some f ∧ f.done = some p)
    (fun c s => s.clearL1 c.g.core) fun _ _ => toPair d p) ∧
  (∀ h d a f, Leads (.rowwait h d a) (fun c s => named c s a = some f ∧ f.done = none)
    fun c s => s.setLive s.cur.ref fun t => t.completeLook c.next (lookOf (.rowwait h d a)) (destSet (.rowwait h d a)) (.row f.handle)) ∧
  (∀ h d a, Completes (.rowcancel h d a) (fun c s => named c s a = none) (fun c s => s.clearL1 c.g.core)
    fun _ _ => toD d 2) ∧
  (∀ h d a f, Completes (.rowcancel h d a) (fun c s => named c s a = some f ∧ f.done.isSome = true)
    (fun c s => s.clearL1 c.g.core) fun _ _ => toD d 1) ∧
  (∀ h d a f, Completes (.rowcancel h d a) (fun c s => named c s a = some f ∧ f.done = none)
    (fun c s => (s.clearL1 c.g.core).cancelRows fun x => x.handle == f.handle) fun _ _ => toD d 0) ∧
  (∀ (s : State) (f : RowFn), s.rowFns.filter (fun x => x.done.isNone && x.handle == f.handle) = [f] →
    let u := { s with
      rowApps := s.rowApps.filter fun a => a.2 != f.handle
      rowFns := s.rowFns.map fun (x : RowFn) => if x.done.isNone && x.handle == f.handle then
        { x with cancelled := f.rows.any (fun r => decide (r ∉ s.poisoned)),
                 poisoned := f.poisoned + f.rows.countP (fun r => decide (r ∈ s.poisoned)), banks := [], rows := [] } else x }
    let v := if f.banks = [] then u else u.rowAccepted f
    v.wordsQuiet → s.cancelRows (fun x => x.handle == f.handle) = v.rowsCompleted) ∧
  (∀ h d n pa e, Completes (.rowqry h d n)
    (fun c s => s.check c.g.asid (c.t.dpair n.toNat).toNat .read (· == .row) = .ok pa .row e) (fun _ s => s)
    fun _ s =>
      let row := pa / 1024
      let k := if s.build.small then 2 else 3
      let bank := row % 2 ^ (11 + k)
      dWrites d.toNat [BitVec.ofNat 32 (((s.sweep.find? fun p => p.1 == bank).map Prod.snd).getD 0),
        BitVec.ofNat 32 (row / 2 ^ 5 % 2 ^ k * 2 ^ 26 + row % 32 * 2 ^ 21 + row / 2 ^ (5 + k) % 2 ^ 6 * 2 ^ 15 + row / 2 ^ (11 + k)),
        BitVec.ofNat 32 (if row ∈ s.poisoned then 0 else s.rowApps.countP fun x => x.1 == row),
        s.mgmt.periods.getD (row / 2 ^ 5 % 2 ^ k) 0])

/-- Whenever a copy instruction runs with aligned offsets, a readable record, a mask within the cluster, and boxes and
barriers inside the scratchpads, it completes and appends one engine operation with the operands it read and the record, or
the reason that its record ends it with: POISONED for one in a poisoned row, else MALFORMED. The fork is a release, which
empties its core's L1. CPY takes MISALIGN for an offset that is no multiple of 64 and SCRATCH_BOUNDS for a mask beyond the
cluster, with the destination's offset as its address (DESIGN CHOICE, log entry 106). A record's fields are those of its
table, and it is malformed, alone or with a box and a transpose bit, exactly under the conditions stated here. (16_engines.md
(Issue, errors and completion words); 16_engines.md (Copy engine); 16_engines.md (Layout records); 08_memory_model.md
(Happens-before).) -/
def Obligations.CopyIssue : Prop :=
  let quad (c : Ctx) (q : DReg) : List Nat := (List.range 4).map fun k => (c.t.dreg (q.toNat + k)).toNat
  let fits (s : State) (gs : List Nat) (off n : Nat) : Prop :=
    ∀ gi ∈ gs, ∀ g, s.groups[gi]? = some g → off + n ≤ g.scratchLen
  let after (s : State) (c : Ctx) (k : EngKind) (l : Except Nat Layout) : State :=
    { s.clearL1 c.g.core with
      ops := s.ops ++ [⟨s.nextOp, k, c.ref.grp, c.g.asid, c.g.launch, match l with | .ok x => some x | .error _ => none,
        match l with | .ok _ => 0 | .error r => r, false⟩]
      nextOp := s.nextOp + 1 }
  /- the record at the address in `n` is read from `pa` -/
  let record (c : Ctx) (s : State) (n : DReg) (pa : Nat) : Prop :=
    (c.t.dpair n.toNat).toNat % 64 = 0 ∧ ∃ e, s.check c.g.asid (c.t.dpair n.toNat).toNat .read isNormal = .ok pa .normal e
  let seen (s : State) (c : Ctx) (pa : Nat) : State := (s.readFor c.g.core c.g.asid pa 64).1
  let lay (s : State) (c : Ctx) (pa : Nat) (f : Option LFmt) (t : Bool) (q : DReg) (sp : Bool) : Except Nat Layout :=
    let l := Layout.ofBytes (s.readFor c.g.core c.g.asid pa 64).2
    if pa / 1024 ∈ (seen s c pa).poisoned then .error 4
    else if l.malformed then .error 1
    else match l.format with
      | none => .error 1
      | some rf => if l.badBox (quad c q) t ∨ rf.sparse ≠ sp ∨ (f.isSome = true ∧ rf.plain = false) then .error 1 else .ok l
  let at_ (c : Ctx) (r : DReg) : Nat := (c.t.dreg r.toNat).toNat
  (∀ h f t mask d n q b pa, Completes (.cpy h f t mask d n q b)
    (fun c s => at_ c d % 64 = 0 ∧ at_ c b % 8 = 0 ∧ record c s n pa ∧ mask.toNat < 2 ^ c.g.cluster.length ∧
      fits (seen s c pa) (c.g.targets c.ref.grp mask) (at_ c d) (boxExtent (lay s c pa f t q false) f) ∧
      fits (seen s c pa) (c.g.targets c.ref.grp mask) (at_ c b) 8)
    (fun c s => after (seen s c pa) c (.cpy f t mask (at_ c d) (quad c q) (at_ c b)) (lay s c pa f t q false))
    fun _ _ => []) ∧
  (∀ h f t o n q w pa,
    let ok (c : Ctx) (s : State) : Prop := at_ c o % 64 = 0 ∧ (c.t.dpair w.toNat).toNat % 8 = 0 ∧ record c s n pa ∧
      (∃ pw e, (seen s c pa).check c.g.asid (c.t.dpair w.toNat).toNat .write isNormal = .ok pw .normal e) ∧
      at_ c o + boxExtent (lay s c pa f t q false) f ≤ c.g.scratchLen
    (Completes (.cpyo h f t o n q w) ok (fun c s => after (seen s c pa) c (.cpyo f t (at_ c o) (quad c q)
      (c.t.dpair w.toNat)) (lay s c pa f t q false)) fun _ _ => []) ∧
    (Completes (.cpyhTo h f t o n q w) ok (fun c s => after (seen s c pa) c (.cpyhTo f t (at_ c o) (quad c q)
      (c.t.dpair w.toNat)) (lay s c pa f t q false)) fun _ _ => []) ∧
    Completes (.cpyhFrom h f t o n q w) ok (fun c s => after (seen s c pa) c (.cpyhFrom f t (at_ c o) (quad c q)
      (c.t.dpair w.toNat)) (lay s c pa f t q false)) fun _ _ => []) ∧
  (∀ h mask d n q b pa, Completes (.cpyx h mask d n q b)
    (fun c s => let dbar := (c.t.dreg b.toNat).toNat
      let sbar := (c.t.dreg (b.toNat + 1)).toNat
      at_ c d % 64 = 0 ∧ dbar % 8 = 0 ∧ sbar % 8 = 0 ∧ record c s n pa ∧ mask.toNat < 2 ^ c.g.cluster.length ∧
      fits (seen s c pa) (c.g.targets c.ref.grp mask) (at_ c d) (boxExtent (lay s c pa none false q true) none) ∧
      fits (seen s c pa) (c.g.targets c.ref.grp mask) dbar 8 ∧ sbar + 8 ≤ c.g.scratchLen)
    (fun c s => after (seen s c pa) c (.cpyx mask (at_ c d) (quad c q) (c.t.dreg b.toNat).toNat
      (c.t.dreg (b.toNat + 1)).toNat) (lay s c pa none false q true)) fun _ _ => []) ∧
  (∀ h f t mask d n q b, Traps (.cpy h f t mask d n q b) (fun c _ => at_ c d % 64 ≠ 0)
    fun c _ => ⟨.misalign, 0, 0, (c.t.dreg d.toNat).setWidth 64⟩) ∧
  (∀ h f t mask d n q b pa, Traps (.cpy h f t mask d n q b)
    (fun c s => at_ c d % 64 = 0 ∧ at_ c b % 8 = 0 ∧ record c s n pa ∧ 2 ^ c.g.cluster.length ≤ mask.toNat)
    fun c _ => ⟨.scratchBounds, 0, 0, (c.t.dreg d.toNat).setWidth 64⟩) ∧
  /- the record's fields, and when it is malformed -/
  (∀ bs : List Byte, bs.length = 64 →
    let num (at_ n : Nat) : Nat := leNat ((bs.drop at_).take n)
    let l := Layout.ofBytes bs
    l.base = BitVec.ofNat 64 (num 0 8) ∧ l.plane = BitVec.ofNat 64 (num 8 8) ∧
    l.size = (List.range 4).map (fun k => num (16 + 4 * k) 4) ∧ l.stride = (List.range 4).map (fun k => num (32 + 4 * k) 4) ∧
    l.tile = (List.range 4).map (fun k => num (48 + 2 * k) 2) ∧ l.tid = num 56 2 ∧ l.ndim = num 58 1 / 16 % 8 ∧
    l.fmt = num 58 1 % 16 ∧ l.trans = decide (num 59 1 % 2 = 1) ∧
    (l.resv = true ↔ num 60 4 ≠ 0 ∨ 1 < num 59 1 ∨ 128 ≤ num 58 1)) ∧
  (∀ l : Layout, l.fmt < 16 →
    let size (k : Nat) : Nat := l.size.getD k 0
    let tile (k : Nat) : Nat := l.tile.getD k 0
    let stride (k : Nat) : Nat := l.stride.getD k 0
    let dx := l.fmt = 8 ∨ l.fmt = 9
    let sparse := l.fmt = 11 ∨ l.fmt = 12
    let nibble := l.fmt = 9 ∨ l.fmt = 10
    (l.malformed = true ↔ 13 ≤ l.fmt ∨ l.ndim = 0 ∨ 4 < l.ndim ∨ l.resv = true ∨
      (∃ k, k < 4 ∧ k < l.ndim ∧ (size k = 0 ∨ tile k = 0)) ∨
      (∃ k, k < 4 ∧ l.ndim ≤ k ∧ (size k ≠ 0 ∨ tile k ≠ 0 ∨ stride k ≠ 0)) ∨
      stride 0 ≠ [1, 2, 4, 2, 2, 4, 1, 1, 1].getD l.fmt 0 ∨ ((dx ∨ sparse) ∧ size 0 % 32 ≠ 0) ∨
      (dx ∧ l.plane.toNat % 2 ≠ 0) ∨ (sparse ∧ l.plane.toNat % 4 ≠ 0) ∨ (nibble ∧ size 0 % 2 ≠ 0)) ∧
    ∀ (c : List Nat) (t : Bool), l.malformed = false → (l.badBox c t = true ↔
      ((dx ∨ sparse) ∧ (c.getD 0 0 % 32 ≠ 0 ∨ tile 0 % 32 ≠ 0)) ∨ (nibble ∧ (c.getD 0 0 % 2 ≠ 0 ∨ tile 0 % 2 ≠ 0)) ∨
      (t = true ∧ (l.trans = false ∨ l.ndim = 1 ∨ dx ∨ sparse))))

/-- Whenever an ARV instruction runs on an aligned barrier word of its own or a cluster group's scratchpad, INIT writes the
count, ADD makes one arrival of its bytes and as a release empties its core's L1, WAIT completes with the word once it is
complete and waits until then, TEST completes with the predicate. An arrival subtracts and saturates the count, sets the
underflow mark, keeps the first reason, and leaves every other bit. (16_engines.md (Arrival barriers); 08_memory_model.md
(Happens-before).) -/
def Obligations.ArrivalBarriers : Prop :=
  let addr (c : Ctx) (a : DReg) : Nat := (c.t.dreg a.toNat).toNat
  /- the word at offset `off` of the group at place `gi` -/
  let names (c : Ctx) (s : State) (rm : Bool) (a : DReg) (gi off : Nat) (g : Group) : Prop :=
    addr c a % 8 = 0 ∧ s.groups[gi]? = some g ∧ off + 8 ≤ g.scratchLen ∧
    if rm then addr c a < 2 ^ 21 ∧ addr c a / 2 ^ 19 < c.g.cluster.length ∧ gi = c.g.rank (addr c a / 2 ^ 19) ∧ off = addr c a % 2 ^ 19
    else gi = c.ref.grp ∧ off = addr c a
  let word (g : Group) (off : Nat) : Dword := BitVec.ofNat 64 (leNat (cRead g.scratch off 8))
  let put (s : State) (gi off : Nat) (v : Dword) : State :=
    s.setGrp gi fun g => { g with scratch := cWrite g.scratch off (leBytes 8 v.toNat) }
  let complete (w : Dword) : Prop := w.getLsbD 63 = true ∨ (w.extractLsb' 0 32).toInt ≤ 0
  (∀ h rm a b gi off g, Completes (.arvInit h rm a b) (fun c s => names c s rm a gi off g)
    (fun c s => put s gi off ((c.w b).setWidth 64)) fun _ _ => []) ∧
  (∀ h rm a b gi off g, Completes (.arvAdd h rm a b) (fun c s => names c s rm a gi off g)
    (fun c s => put (s.clearL1 c.g.core) gi off (arvArrive (word g off) (c.w b).toNat 0)) fun _ _ => []) ∧
  (∀ h rm d a gi off g, Completes (.arvWait h rm d a) (fun c s => names c s rm a gi off g ∧ complete (word g off))
    (fun c s => s.clearL1 c.g.core) fun _ _ => toPair d (word g off)) ∧
  (∀ h rm d a gi off g, Waits (.arvWait h rm d a) (fun c s => names c s rm a gi off g ∧ ¬ complete (word g off))
    fun _ _ => .arrival gi off) ∧
  (∀ h rm q a gi off g, Completes (.arvTest h rm q a) (fun c s => names c s rm a gi off g ∧ complete (word g off))
    (fun c s => s.clearL1 c.g.core) fun _ _ => [predWrite q true]) ∧
  (∀ h rm q a gi off g, Completes (.arvTest h rm q a) (fun c s => names c s rm a gi off g ∧ ¬ complete (word g off))
    (fun _ s => s) fun _ _ => [predWrite q false]) ∧
  (∀ (w : Dword) (n : Nat),
    let r := arvArrive w n 0
    let pending : Int := (w.extractLsb' 0 32).toInt - n
    (-(2 ^ 31) ≤ pending → (r.extractLsb' 0 32).toInt = pending) ∧ (pending < -(2 ^ 31) → (r.extractLsb' 0 32).toInt = -(2 ^ 31)) ∧
    (∀ i, 32 ≤ i → i < 64 → i ≠ 62 → r.getLsbD i = w.getLsbD i) ∧
    r.getLsbD 62 = (w.getLsbD 62 || decide (pending < 0))) ∧
  (∀ (w : Dword) (e : Nat), e < 256 → e ≠ 0 →
    let r := arvArrive w 0 e
    r.getLsbD 63 = true ∧ (w.getLsbD 63 = true → ∀ i, 32 ≤ i → i < 64 → i ≠ 62 → r.getLsbD i = w.getLsbD i) ∧
    (w.getLsbD 63 = false → (r.extractLsb' 48 8).toNat = e))

/-- Whenever a tile or reduction instruction runs and its operands pass the checks stated here, it signs its convergence
register with the operands it read (see SetSignatures for what signing does). The last thread to sign completes the
instruction for all: the use closes, and the tile operation that participant 0's words describe is forked, a weight load with
the record it reads and its slot's tag, or the contribution joins its channel's next instance, as a late one where the
instance is full (DEDUCED, log entry 37); either is a release, which empties its core's L1. What a slot reads as once its tag
has changed is a free value (DESIGN CHOICE, log entry 49). MMA, MMZ, WBLD, ACCLD and ACCST take ACC_OWNER where their rows
(DETAIL2 0) or slot (DETAIL2 1), given in DETAIL, are not the group's. (16_engines.md (Tile engine); 16_engines.md (Cluster
reduction unit); 20_scheduling_faults.md (Faults and traps); 08_memory_model.md (Happens-before).) -/
def Obligations.TileSignatures : Prop :=
  (let at_ (c : Ctx) (r : DReg) : Nat := (c.t.dreg r.toNat).toNat
   let word (c : Ctx) (q : DReg) (k : Nat) : Nat := (c.t.dreg (q.toNat + k)).toNat
   let five (c : Ctx) (q b : DReg) : List Word := [c.t.dreg q.toNat, c.t.dreg (q.toNat + 1), c.t.dreg (q.toNat + 2),
     c.t.dreg (q.toNat + 3), c.t.dreg b.toNat]
   let bar (c : Ctx) (b : DReg) : Prop := at_ c b % 8 = 0 ∧ at_ c b + 8 ≤ c.g.scratchLen
   let dx (f : LFmt) : Prop := f = .dx8 ∨ f = .dx4
   let mmaIn (f : LFmt) (q b : DReg) (c : Ctx) : Prop :=
     let stride := word c q 1 % 2 ^ 20
     word c q 0 % 64 = 0 ∧ stride % 64 = 0 ∧ 64 ≤ stride ∧ word c q 0 + (63 * stride + 64) ≤ c.g.scratchLen ∧
     (dx f → word c q 2 % 64 = 0 ∧ word c q 2 + 64 * LFmt.kOf f / 16 ≤ c.g.scratchLen) ∧ bar c b
   let accIn (f : LFmt) (q b : DReg) (c : Ctx) : Prop :=
     let stride := word c q 1 % 2 ^ 20
     let rows := word c q 2 / 2 ^ 16 % 2 ^ 9 + 1
     word c q 0 % 64 = 0 ∧ stride % 64 = 0 ∧ 128 * f.eb ≤ stride ∧
     word c q 0 + ((rows - 1) * stride + 128 * f.eb) ≤ c.g.scratchLen ∧ bar c b
   let wbldIn (n b : DReg) (c : Ctx) (s : State) : Prop :=
     bar c b ∧ (c.t.dpair n.toNat).toNat % 64 = 0 ∧
       ∃ pa e, s.check c.g.asid (c.t.dpair n.toNat).toNat .read isNormal = .ok pa .normal e
   let wbldWords (c : Ctx) (sl n q b : DReg) : List Word := [BitVec.ofNat 32 (at_ c sl % 32), c.t.dreg n.toNat,
     c.t.dreg (n.toNat + 1), c.t.dreg q.toNat, c.t.dreg (q.toNat + 1), c.t.dreg (q.toNat + 2), c.t.dreg (q.toNat + 3), c.t.dreg b.toNat]
   (∀ h f q b k, Signs (.mma h f q b k) k.toNat (five · q b) fun c _ => mmaIn f q b c ∧
     64 * (word c q 3 % 8) + 64 ≤ c.g.accRows ∧ word c q 3 / 2 ^ 8 % 32 < c.g.accRows / 16) ∧
   (∀ h f q b k, Traps (.mma h f q b k) (fun c _ => mmaIn f q b c ∧ c.g.accRows < 64 * (word c q 3 % 8) + 64)
     fun c _ => ⟨.accOwner, BitVec.ofNat 32 (64 * (word c q 3 % 8)), 0, 0⟩) ∧
   (∀ h f q b k, Traps (.mma h f q b k) (fun c _ => mmaIn f q b c ∧ 64 * (word c q 3 % 8) + 64 ≤ c.g.accRows ∧
       c.g.accRows / 16 ≤ word c q 3 / 2 ^ 8 % 32) fun c _ => ⟨.accOwner, BitVec.ofNat 32 (word c q 3 / 2 ^ 8 % 32), 1, 0⟩) ∧
   (∀ h a b k, Signs (.mmz h a b k) k.toNat (fun c => [c.t.dreg a.toNat, c.t.dreg b.toNat]) fun c _ => bar c b ∧
     at_ c a % 2 ^ 9 + (at_ c a / 2 ^ 16 % 2 ^ 9 + 1) ≤ c.g.accRows) ∧
   (∀ h a b k, Traps (.mmz h a b k) (fun c _ => bar c b ∧ c.g.accRows < at_ c a % 2 ^ 9 + (at_ c a / 2 ^ 16 % 2 ^ 9 + 1))
     fun c _ => ⟨.accOwner, BitVec.ofNat 32 (at_ c a % 2 ^ 9), 0, 0⟩) ∧
   (∀ h sl n q b k, Signs (.wbld h sl n q b k) k.toNat (wbldWords · sl n q b)
     fun c s => wbldIn n b c s ∧ at_ c sl % 32 < c.g.accRows / 16) ∧
   (∀ h sl n q b k, Signs (.wbldSparse h sl n q b k) k.toNat (wbldWords · sl n q b)
     fun c s => wbldIn n b c s ∧ at_ c sl % 32 < c.g.accRows / 16) ∧
   (∀ h sl n q b k, Traps (.wbld h sl n q b k) (fun c s => wbldIn n b c s ∧ c.g.accRows / 16 ≤ at_ c sl % 32)
     fun c _ => ⟨.accOwner, BitVec.ofNat 32 (at_ c sl % 32), 1, 0⟩) ∧
   (∀ h sl n q b k, Traps (.wbldSparse h sl n q b k) (fun c s => wbldIn n b c s ∧ c.g.accRows / 16 ≤ at_ c sl % 32)
     fun c _ => ⟨.accOwner, BitVec.ofNat 32 (at_ c sl % 32), 1, 0⟩) ∧
   (∀ h b k, Signs (.wbrel h b k) k.toNat (fun c => [c.t.dreg b.toNat]) fun c _ => bar c b) ∧
   (∀ h f q b k, Signs (.accld h f q b k) k.toNat (five · q b) fun c _ => accIn f q b c ∧
     word c q 2 % 2 ^ 9 + (word c q 2 / 2 ^ 16 % 2 ^ 9 + 1) ≤ c.g.accRows) ∧
   (∀ h f q b k, Signs (.accst h f q b k) k.toNat (five · q b) fun c _ => accIn f q b c ∧
     word c q 2 % 2 ^ 9 + (word c q 2 / 2 ^ 16 % 2 ^ 9 + 1) ≤ c.g.accRows) ∧
   (∀ h f q b k, Traps (.accld h f q b k) (fun c _ => accIn f q b c ∧
     c.g.accRows < word c q 2 % 2 ^ 9 + (word c q 2 / 2 ^ 16 % 2 ^ 9 + 1))
     fun c _ => ⟨.accOwner, BitVec.ofNat 32 (word c q 2 % 2 ^ 9), 0, 0⟩) ∧
   (∀ h f q b k, Traps (.accst h f q b k) (fun c _ => accIn f q b c ∧
     c.g.accRows < word c q 2 % 2 ^ 9 + (word c q 2 / 2 ^ 16 % 2 ^ 9 + 1))
     fun c _ => ⟨.accOwner, BitVec.ofNat 32 (word c q 2 % 2 ^ 9), 0, 0⟩) ∧
   /- a use that is complete: the operation that participant 0's words describe is forked -/
   (let forked (s : State) (c : Ctx) (k : EngKind) (l : Option Layout) : State :=
      { s.clearL1 c.g.core with ops := s.ops ++ [⟨s.nextOp, k, c.ref.grp, c.g.asid, c.g.launch, l, 0, false⟩], nextOp := s.nextOp + 1 }
    let w (x : Sig) (k : Nat) : Nat := (x.val k).toNat
    let fork (kind : Sig → EngKind) (c : Ctx) (v : Conv) (s : State) : State :=
      match v.sigs with
      | [] => s
      | x :: _ => forked s c (kind x) none
    let accK (kind : Nat → Nat → Nat → Nat → Nat → Nat → EngKind) (x : Sig) : EngKind :=
      kind (w x 0) (w x 1 % 2 ^ 20) (w x 2 / 2 ^ 16 % 2 ^ 9 + 1) (w x 2 % 2 ^ 9) (w x 3 / 2 ^ 16) (w x 4)
    let load (sp : Bool) (c : Ctx) (v : Conv) (s : State) : State :=
      match v.sigs with
      | [] => s
      | x :: _ =>
        let lay : Dword := x.val 2 ++ x.val 1
        let slot := w x 0
        let kind : EngKind := .wbld sp slot lay [w x 3, w x 4, w x 5, w x 6] (w x 7)
        match s.engRead (some (c.g.core / 48)) c.g.asid isNormal ((List.range 64).map fun j => (lay.toNat + j) % 2 ^ 64) with
        | (u, .error _) => forked u c kind none
        | (u, .ok bs) =>
          let f := (Layout.ofBytes bs).format
          let z := forked u c kind (some (Layout.ofBytes bs))
          /- the slot takes the format's tag, but not over a later load's; what it reads as until it is filled is free -/
          z.setCore c.g.core fun k => { k with slots := k.slots.modify (c.g.accBase / 16 + slot) fun y =>
            if u.nextOp < y.load then y
            else if y.tag = f then { y with load := u.nextOp }
            else ⟨f, ((List.range 16384).map fun i => (i, Config.staleWeight u.nextOp i)).filter fun e => e.2 != 0, u.nextOp⟩ }
    (∀ h f q b k, Finishes (.mma h f q b k) k.toNat (five · q b) (∃ h q b k, · = .mma h f q b k) (fun c _ _ => mmaIn f q b c ∧
        64 * (word c q 3 % 8) + 64 ≤ c.g.accRows ∧ word c q 3 / 2 ^ 8 % 32 < c.g.accRows / 16)
      (fork fun x => .mma f (w x 0) (w x 1 % 2 ^ 20) (w x 2) (w x 3 / 2 ^ 16) (w x 3 / 2 ^ 8 % 32) (w x 3 % 8) (w x 4)) fun _ _ => []) ∧
    (∀ h a b k, Finishes (.mmz h a b k) k.toNat (fun c => [c.t.dreg a.toNat, c.t.dreg b.toNat]) (∃ h a b k, · = .mmz h a b k)
      (fun c _ _ => bar c b ∧ at_ c a % 2 ^ 9 + (at_ c a / 2 ^ 16 % 2 ^ 9 + 1) ≤ c.g.accRows)
      (fork fun x => .mmz (w x 0 % 2 ^ 9) (w x 0 / 2 ^ 16 % 2 ^ 9 + 1) (w x 1)) fun _ _ => []) ∧
    (∀ h sl n q b k, Finishes (.wbld h sl n q b k) k.toNat (wbldWords · sl n q b) (∃ h sl n q b k, · = .wbld h sl n q b k)
      (fun c _ s => wbldIn n b c s ∧ at_ c sl % 32 < c.g.accRows / 16) (load false) fun _ _ => []) ∧
    (∀ h sl n q b k, Finishes (.wbldSparse h sl n q b k) k.toNat (wbldWords · sl n q b)
      (∃ h sl n q b k, · = .wbldSparse h sl n q b k)
      (fun c _ s => wbldIn n b c s ∧ at_ c sl % 32 < c.g.accRows / 16) (load true) fun _ _ => []) ∧
    (∀ h b k, Finishes (.wbrel h b k) k.toNat (fun c => [c.t.dreg b.toNat]) (∃ h b k, · = .wbrel h b k)
      (fun c _ _ => bar c b) (fork fun x => .wbrel (w x 0)) fun _ _ => []) ∧
    (∀ h f q b k, Finishes (.accld h f q b k) k.toNat (five · q b) (∃ h q b k, · = .accld h f q b k) (fun c _ _ => accIn f q b c ∧
        word c q 2 % 2 ^ 9 + (word c q 2 / 2 ^ 16 % 2 ^ 9 + 1) ≤ c.g.accRows) (fork (accK (.accld f))) fun _ _ => []) ∧
    (∀ h f q b k, Finishes (.accst h f q b k) k.toNat (five · q b) (∃ h q b k, · = .accst h f q b k) (fun c _ _ => accIn f q b c ∧
        word c q 2 % 2 ^ 9 + (word c q 2 / 2 ^ 16 % 2 ^ 9 + 1) ≤ c.g.accRows) (fork (accK (.accst f))) fun _ _ => []))) ∧
  (let at_ (c : Ctx) (r : DReg) : Nat := (c.t.dreg r.toNat).toNat
   let four (c : Ctx) (d sr b kk : DReg) : List Word := [c.t.dreg d.toNat, c.t.dreg sr.toNat, c.t.dreg b.toNat, c.t.dreg kk.toNat]
   let ok (op : CredOp) (d sr b kk : DReg) (c : Ctx) (s : State) : Prop :=
     let n := at_ c kk % 2 ^ 7 + 1
     let part := at_ c kk / 2 ^ 16 % 16
     let recv := at_ c kk / 2 ^ 20 % 16
     at_ c d % 4 = 0 ∧ at_ c sr % 4 = 0 ∧ at_ c b % 8 = 0 ∧ at_ c sr + 4 * credWords op n ≤ c.g.scratchLen ∧
     c.g.cid < 4 ∧ part / 2 ^ c.g.cid % 2 = 1 ∧ part < 2 ^ c.g.cluster.length ∧ recv < 2 ^ c.g.cluster.length ∧
     ∀ r, r < 4 → recv / 2 ^ r % 2 = 1 → ∀ p, s.groups[c.g.rank r]? = some p →
       at_ c d + 4 * credWords op n ≤ p.scratchLen ∧ at_ c b + 8 ≤ p.scratchLen
   (∀ h d sr b kk k, Signs (.credSmx h d sr b kk k) k.toNat (four · d sr b kk) (ok .smx d sr b kk)) ∧
   (∀ h d sr b kk k, Signs (.credSum h d sr b kk k) k.toNat (four · d sr b kk) (ok .sum d sr b kk)) ∧
   (∀ h d sr b kk k, Signs (.credMax h d sr b kk k) k.toNat (four · d sr b kk) (ok .max d sr b kk)) ∧
   /- a use that is complete: the record that participant 0's words name joins the next instance of its channel -/
   (let joins (op : CredOp) (c : Ctx) (v : Conv) (s : State) : State :=
      match v.sigs with
      | [] => s
      | x :: _ =>
        let w (k : Nat) : Nat := (x.val k).toNat
        let n := w 3 % 2 ^ 7 + 1
        let chan := w 3 / 2 ^ 8 % 16
        let kth := c.g.credK.getD chan 0
        let mine : Contrib :=
          { rank := c.g.cid, grp := c.ref.grp, op, part := BitVec.ofNat 4 (w 3 / 2 ^ 16), recv := BitVec.ofNat 4 (w 3 / 2 ^ 20), n
            dOff := w 0, bOff := w 2, answered := false, late := false
            data := (List.range (if op = .smx then n + 2 else n)).map fun i => BitVec.ofNat 32 (leNat (cRead c.g.scratch (w 1 + 4 * i) 4)) }
        let u := (s.clearL1 c.g.core).setGrp c.ref.grp fun g => { g with credK := g.credK.set chan (kth + 1) }
        let same (y : CredOne) : Bool := y.lead == c.g.rank 0 && y.chan == chan && y.k == kth
        /- every rank that a contribution names has contributed -/
        let full (y : CredOne) : Bool := !y.mismatch && !y.contribs.isEmpty && (List.range 4).all fun r =>
          !(y.contribs.any fun d => !d.late && d.part.getLsbD r) || y.contribs.any fun d => !d.late && d.rank == r
        let odd (d : Contrib) : Bool := d.op != op || d.part != mine.part || d.n != n
        let add (y : CredOne) : CredOne :=
          if full y then { y with contribs := y.contribs ++ [{ mine with late := true }] }
          else { y with contribs := y.contribs ++ [mine], mismatch := y.mismatch || y.contribs.any odd }
        if s.creds.any same then { u with creds := s.creds.map fun y => if same y then add y else y }
        else { u with creds := s.creds ++ [⟨s.nextOp, c.g.rank 0, chan, kth, [mine], false⟩], nextOp := s.nextOp + 1 }
    (∀ h d sr b kk k, Finishes (.credSmx h d sr b kk k) k.toNat (four · d sr b kk) (∃ h d sr b kk k, · = .credSmx h d sr b kk k)
      (fun c _ => ok .smx d sr b kk c) (joins .smx) fun _ _ => []) ∧
    (∀ h d sr b kk k, Finishes (.credSum h d sr b kk k) k.toNat (four · d sr b kk) (∃ h d sr b kk k, · = .credSum h d sr b kk k)
      (fun c _ => ok .sum d sr b kk c) (joins .sum) fun _ _ => []) ∧
    (∀ h d sr b kk k, Finishes (.credMax h d sr b kk k) k.toNat (four · d sr b kk) (∃ h d sr b kk k, · = .credMax h d sr b kk k)
      (fun c _ => ok .max d sr b kk c) (joins .max) fun _ _ => [])))

/-- Whenever GSEG, GVEC, GRUN or GOUT runs and passes its checks, it signs its convergence register. GWAIT gives 0 where the
thread has signed no operation; otherwise it waits until the last one it signed, and those before it, have ended, and then
gives DONE, the error status with its reason, or takes the stream's fault, also where the segment has been closed since
(DESIGN CHOICE, log entry 107). (18_grammar_engine.md (Instructions); 18_grammar_engine.md (GWAIT).) -/
def Obligations.GrammarSignatures : Prop :=
  let word (c : Ctx) (q : DReg) (k : Nat) : Nat := (c.t.dreg (q.toNat + k)).toNat
  (∀ h d n k, Signs (.gseg h d n k) k.toNat (fun c => [c.t.dreg n.toNat, c.t.dreg (n.toNat + 1)]) fun c s =>
    (c.t.dpair n.toNat).toNat % 32 = 0 ∧ (c.t.dpair n.toNat = 0 ∨
      ∃ pa e, s.check c.g.asid (c.t.dpair n.toNat).toNat .read isNormal = .ok pa .normal e)) ∧
  (∀ h d q k, Signs (.gvec h d q k) k.toNat
    (fun c => [c.t.dreg q.toNat, c.t.dreg (q.toNat + 1), c.t.dreg (q.toNat + 2), c.t.dreg (q.toNat + 3)]) fun c _ =>
      word c q 0 % 4 = 0 ∧ word c q 1 % 2 ^ 20 % 4 = 0 ∧
      word c q 0 + ((word c q 3 % 8) * (word c q 1 % 2 ^ 20) +
        (word c q 2 % 2 ^ 22 + 1) * (if word c q 3 / 2 ^ 8 % 2 = 1 then 2 else 4)) ≤ c.g.scratchLen) ∧
  (∀ h d k, Signs (.grun h d k) k.toNat (fun _ => []) fun _ _ => True) ∧
  (∀ h d k, Signs (.gout h d k) k.toNat (fun _ => []) fun _ _ => True) ∧
  (∀ h d, Completes (.gwait h d) (fun c _ => ∀ o ∈ c.g.gram, o.signers.getLsbD c.ref.tid = false)
    (fun _ s => s) fun _ _ => toD d 0) ∧
  /- the last operation whose use the thread signed, and those before it, have ended -/
  (∀ h d (before later : List GramOp) (o : GramOp),
    let mine (c : Ctx) : Prop := c.g.gram = before ++ o :: later ∧ o.signers.getLsbD c.ref.tid = true ∧
      (∀ p ∈ later, p.signers.getLsbD c.ref.tid = false)
    let ended (c : Ctx) : Prop := mine c ∧ ∀ p ∈ before, p.res.isSome = true
    Completes (.gwait h d) (fun c _ => ended c ∧ o.res = some .ok) (fun _ s => s) (fun _ _ => toD d 0) ∧
    (∀ r, Completes (.gwait h d) (fun c _ => ended c ∧ o.res = some (.err r)) (fun _ s => s)
      fun _ _ => toD d (BitVec.ofNat 32 (5 + 256 * r))) ∧
    (∀ code i n, Traps (.gwait h d) (fun c _ => ended c ∧ o.res = some (.stream code i n))
      fun _ _ => ⟨code, BitVec.ofNat 32 i, BitVec.ofNat 32 n, 0⟩) ∧
    Waits (.gwait h d) (fun c _ => mine c ∧ ∃ p ∈ before ++ [o], p.res = none)
      fun _ _ => .grammar ((before ++ [o]).map GramOp.id))

/-- Whenever DICT.LOAD runs on an aligned image of two NORMAL pages: a refused image gives its status with entry and reason,
no free slot (R280; whose reserves count is log entry 108) gives BUSY, and otherwise the image is placed in a slot, selected,
and the status is 0; each way its core's L1 is emptied, as by a release. The translation faults of both pages come before
MEMTYPE of either. The image is refused at its first valid entry, of 1 to 255, that meets one of the five reasons, with the
least of them. DICT.READ gives zeros without a selection, and otherwise the four words of the entry.
(12_instructions_control.md (Dictionaries); 04_encoding.md (Dictionary images, slots and loads); 08_memory_model.md
(Happens-before).) -/
def Obligations.DictionaryInstructions : Prop :=
  let addr (c : Ctx) (n : DReg) : Dword := c.t.dpair n.toNat
  let read (s : State) (c : Ctx) (p0 p1 : Nat) : State × List Byte :=
    let x := s.readFor c.g.core c.g.asid (p0 + 32) 4064
    let y := x.1.readFor c.g.core c.g.asid p1 4096
    (y.1, List.replicate 32 0 ++ x.2 ++ y.2)
  let pages (c : Ctx) (s : State) (n : DReg) (p0 p1 : Nat) : Prop := (addr c n).toNat % 8192 = 0 ∧
    (∃ e, s.check c.g.asid (addr c n).toNat .read isNormal = .ok p0 .normal e) ∧
    ∃ e, s.check c.g.asid (addr c n + 4096).toNat .read isNormal = .ok p1 .normal e
  (∀ h d n p0 p1 i r, Completes (.dictLoad h d n)
    (fun c s => pages c s n p0 p1 ∧ imageFault (imageOf (read s c p0 p1).2) = some (i, r))
    (fun c s => (read s c p0 p1).1.clearL1 c.g.core) fun _ _ => toD d (BitVec.ofNat 32 (2 + 256 * i + 65536 * r))) ∧
  (∀ h d n p0 p1, Completes (.dictLoad h d n)
    (fun c s => pages c s n p0 p1 ∧ imageFault (imageOf (read s c p0 p1).2) = none ∧
      (read s c p0 p1).1.dictSlot c.g.core c.g.asid (addr c n) (some c.ref.grp) c.g.sel c.g.handler.isSome = none)
    (fun c s => (read s c p0 p1).1.clearL1 c.g.core) fun _ _ => toD d 1) ∧
  (∀ h d n p0 p1 k, Completes (.dictLoad h d n)
    (fun c s => pages c s n p0 p1 ∧ imageFault (imageOf (read s c p0 p1).2) = none ∧
      (read s c p0 p1).1.dictSlot c.g.core c.g.asid (addr c n) (some c.ref.grp) c.g.sel c.g.handler.isSome = some k)
    (fun c s => (((read s c p0 p1).1.setCore c.g.core fun x => { x with
      dicts := (x.dicts.map fun o => match o with
          | some y => if y.asid = c.g.asid ∧ y.addr = addr c n then none else some y
          | none => none).set k (some ⟨c.g.asid, addr c n, imageOf (read s c p0 p1).2, 0⟩) }).setGrp c.ref.grp fun g =>
        { g with sel := some k }).clearL1 c.g.core) fun _ _ => toD d 0) ∧
  (let any : MType → Bool := fun _ => true
   (∀ h d n p ty e, Leads (.dictLoad h d n)
     (fun c s => (addr c n).toNat % 8192 = 0 ∧ s.check c.g.asid (addr c n).toNat .read any = .ok p ty e ∧
       s.check c.g.asid (addr c n + 4096).toNat .read any = .absent)
     fun c s => s.parkThread c.ref (some (insnOf (.dictLoad h d n))) s.cur.shortw (addr c n + 4096) false false) ∧
   (∀ h d n p ty e, Traps (.dictLoad h d n)
     (fun c s => (addr c n).toNat % 8192 = 0 ∧ s.check c.g.asid (addr c n).toNat .read any = .ok p ty e ∧
       s.check c.g.asid (addr c n + 4096).toNat .read any = .perm)
     fun c _ => ⟨.xlatePermission, 0, 0, addr c n + 4096⟩) ∧
   (∀ h d n p ty e p' ty' e', (ty ≠ .normal ∨ ty' ≠ .normal) → Traps (.dictLoad h d n)
     (fun c s => (addr c n).toNat % 8192 = 0 ∧ s.check c.g.asid (addr c n).toNat .read any = .ok p ty e ∧
       s.check c.g.asid (addr c n + 4096).toNat .read any = .ok p' ty' e')
     fun c _ => ⟨.memtype, 0, 0, if ty = .normal then addr c n + 4096 else addr c n⟩)) ∧
  (∀ h d b, Completes (.dictRead h d b) (fun c _ => c.g.sel = none) (fun _ s => s) fun _ _ => dWrites d.toNat [0, 0, 0, 0]) ∧
  (∀ h d b j x, Completes (.dictRead h d b)
    (fun c s => c.g.sel = some j ∧ (s.core c.g.core).dicts[j]? = some (some x) ∧ x.undef = 0) (fun _ s => s)
    fun c _ => dWrites d.toNat ((List.range 4).map fun k =>
      BitVec.ofNat 32 (leNat (cRead x.img (16 * ((c.w b).toNat % 512) + 4 * k) 4)))) ∧
  /- what a load rejects: the first valid entry with a reason, and its least reason -/
  (∀ bs : List Byte, bs.length = 8192 →
    let entry (i : Nat) : Nat := leNat ((bs.drop (32 * i)).take 32)
    let why (i : Nat) : Option Nat :=
      let t := entry i % 2 ^ 128
      let map := entry i / 2 ^ 128 % 2 ^ 32
      let len := 32 + 32 * (t % 4)
      let used (k : Nat) : Bool := map.testBit (24 + k)
      let pos (k : Nat) : Nat := map / 2 ^ (8 * k) % 2 ^ 8
      let covers (k b : Nat) : Bool := used k && decide (pos k ≤ b) && decide (b < pos k + 7)
      let barred (k b : Nat) : Bool := covers k b && (decide (b ≤ 2) || decide (12 ≤ b) && decide (b ≤ 19) ||
        [0, 1, 2].any fun j => j != k && covers j b)
      if t % 4 = 0 then some 1
      else if 0xCC ≤ t / 2 ^ 12 % 256 ∧ t / 2 ^ 12 % 256 ≤ 0xCF then some 2
      else if t / 2 ^ len ≠ 0 then some 3
      else if [0, 1, 2].any (fun k => used k && (decide (len < pos k + 7) || (List.range 262).any (barred k))) then some 4
      else if map / 2 ^ 27 % 16 ≠ 0 ∨ entry i / 2 ^ 160 ≠ 0 ∨ [0, 1, 2].any (fun k => !used k && pos k != 0) then some 5
      else none
    imageFault (imageOf bs) = ((List.range' 1 255).filter fun i => (entry i).testBit 159).findSome? fun i =>
      (why i).map fun r => (i, r))

/-- A short without a defined entry takes DICT_UNDEFINED; one whose expansion decodes executes it as if it stood at its
address, with next 4 bytes on; one whose expansion is an instruction of regDests completes and changes only its thread, at its
pc + 4, and one that expands to IADD leaves the sum in d; the short with index 0 only advances 4 bytes. The expansion is the
template with bit 2 from the short and each used hole's 7 bits at its place. (04_encoding.md (The short form).) -/
def Obligations.Shorts : Prop :=
  (let at_ (s : State) (g : Group) (t : Thread) : Prop := s.groups[s.cur.ref.grp]? = some g ∧ s.thr s.cur.ref = some t
   let as (s : State) (w : Word) : State := { s with cur := ⟨s.cur.ref, some w⟩ }
   (∀ b idx h0 h1 h2 s g t, at_ s g t → s.expand g b idx.toNat [h0, h1, h2] = none →
     exec (.short b idx h0 h1 h2) s =
       .next (s.takeTrap s.cur.ref none (some (shortBits b idx h0 h1 h2)) ⟨.dictUndefined, 0, 0, 0⟩)) ∧
   (∀ b idx h0 h1 h2 s g t x i u, at_ s g t → s.expand g b idx.toNat [h0, h1, h2] = some x → decode x = .ok i →
     (∀ a k m n o, i ≠ .short a k m n o) → (∀ a m n o, i ≠ .shortNop a m n o) → isEvent i = false →
     exec i (as s (shortBits b idx h0 h1 h2)) = .next u →
     exec (.short b idx h0 h1 h2) s = .next { u with cur := s.cur }) ∧
   /- a short completes wherever its expansion runs -/
   (∀ b idx h0 h1 h2 s g t x i ds, at_ s g t → s.expand g b idx.toNat [h0, h1, h2] = some x → decode x = .ok i →
     regDests i = some ds → Runs (as s (shortBits b idx h0 h1 h2)) i g t →
     ∃ t', exec (.short b idx h0 h1 h2) s = .next (s.setThr s.cur.ref fun _ => t') ∧ t'.pc = t.pc + 4 ∧ t'.badPc = none ∧
       t'.status = .ready ∧ t'.held = none) ∧
   (∀ b idx h0 h1 h2 s g t x h d p q, at_ s g t → s.expand g b idx.toNat [h0, h1, h2] = some x → decode x = .ok (.iadd h d p q) →
     Runs (as s (shortBits b idx h0 h1 h2)) (.iadd h d p q) g t →
     let c := ctxOf (as s (shortBits b idx h0 h1 h2)) (.iadd h d p q) g t
     exec (.short b idx h0 h1 h2) s = .next (s.finished c (.iadd h d p q) (toD d (c.w p + c.w q))) ∧ c.next = t.pc + 4) ∧
   (∀ b h0 h1 h2 s g t, at_ s g t → t.live = true → s.cur.shortw = none → t.windows = [] →
     exec (.shortNop b h0 h1 h2) s =
       .next (s.setThr s.cur.ref fun t => { t with pc := t.pc + 4, badPc := none, status := .ready, held := none }))) ∧
  (∀ (s : State) (g : Group) (b : Bool) (idx : Nat) (hs : List (BitVec 7)) (k : Nat) (x : DictSlot),
     g.sel = some k → (s.core g.core).dicts[k]? = some (some x) →
     let e := imageEntry x.img idx
     ((e.valid = false ∨ x.undef.getLsbD idx = true) → s.expand g b idx hs = none) ∧
     (e.valid = true → x.undef.getLsbD idx = false → e.tmpl < 2 ^ 128 → ∃ w : BitVec 128, s.expand g b idx hs = some w ∧
       w.getLsbD 2 = b ∧
       (∀ i, i < 128 → i ≠ 2 → (∀ j, j < 3 → e.used j = true → ¬ (e.pos j ≤ i ∧ i < e.pos j + 7)) →
         w.getLsbD i = e.tmpl.testBit i) ∧
       (e.reason = none → ∀ j, j < 3 → e.used j = true → ∀ i, i < 7 → w.getLsbD (e.pos j + i) = (hs.getD j 0).getLsbD i)))

/-- Whenever LAUNCH runs on an aligned readable record: a refused record gives REFUSED with its reason, an accepted one its
id, and BUSY where it would need one more identifier than 2^32 (R199; that the first is 1 is DEDUCED, and that nothing else
gives BUSY is a DESIGN CHOICE, log entry 26). The record is read after a release, which empties the core's L1. TAPE.PUSH is
refused likewise, appends its record to the tape of its phase while there is room, and reports NOTAPE or FULL. CANCEL gives
NOSUCH, LATE, or completes and cancels. A record is refused for the first reason that holds of RESERVED, RANGE, CLUSTER, FIT,
NOJOB, QUOTA, DEP and CLOSED (of MODE bits 7:1 that are not 0, RESERVED: DEDUCED, log entry 28); a handler record meets the
first four alone, with fields that it ignores. (12_instructions_control.md (Launch, wait, cancel and the tape);
20_scheduling_faults.md (Launch records); 08_memory_model.md (Happens-before).) -/
def Obligations.LaunchInstructions : Prop :=
  let record (s : State) (c : Ctx) (pa : Nat) : State × LaunchRec :=
    let r := s.readFor c.g.core c.g.asid pa 128
    (r.1.clearL1 c.g.core, LaunchRec.ofBytes r.2)
  let at_ (c : Ctx) (s : State) (n : DReg) (pa : Nat) : Prop := (c.t.dpair n.toNat).toNat % 128 = 0 ∧
    ∃ e, s.check c.g.asid (c.t.dpair n.toNat).toNat .read isNormal = .ok pa .normal e
  let next (u : State) (c : Ctx) : Nat := ((u.job c.g.asid).map Job.nextId).getD 1
  let two (d : DReg) (a b : Nat) : List Write := dWrites d.toNat [BitVec.ofNat 32 a, BitVec.ofNat 32 b]
  (∀ h d n pa why, Completes (.launch h d n)
    (fun c s => at_ c s n pa ∧ (record s c pa).1.recordReason c.g.asid (record s c pa).2 false = some why)
    (fun c s => (record s c pa).1.countHub 2 (some c.g.asid) 1) fun _ _ => two d (2 + 256 * why) 0) ∧
  (∀ h d n pa, Completes (.launch h d n)
    (fun c s => at_ c s n pa ∧ (record s c pa).1.recordReason c.g.asid (record s c pa).2 false = none ∧
      next (record s c pa).1 c ≤ 2 ^ 32)
    (fun c s => ((record s c pa).1.accept c.g.asid (record s c pa).2 .instr none none).1)
    fun c s => two d 0 (next (record s c pa).1 c)) ∧
  (∀ h d n pa, Completes (.launch h d n)
    (fun c s => at_ c s n pa ∧ (record s c pa).1.recordReason c.g.asid (record s c pa).2 false = none ∧
      2 ^ 32 < next (record s c pa).1 c)
    (fun c s => (record s c pa).1) fun _ _ => two d 1 0) ∧
  (∀ h d n pa why, Completes (.tapePush h d n)
    (fun c s => at_ c s n pa ∧ (record s c pa).1.recordReason c.g.asid (record s c pa).2 false = some why)
    (fun c s => (record s c pa).1.countHub 2 (some c.g.asid) 1) fun _ _ => toD d (BitVec.ofNat 32 (2 + 256 * why))) ∧
  (∀ h d n pa j, Completes (.tapePush h d n)
    (fun c s => at_ c s n pa ∧ (record s c pa).1.recordReason c.g.asid (record s c pa).2 false = none ∧
      (record s c pa).1.job c.g.asid = some j ∧ (record s c pa).1.tapePhase c.g = true ∧ j.tapeN < j.desc.tapecap)
    (fun c s => ((record s c pa).1.homeWrite (some c.g.asid) (j.desc.tape + 128 * j.tapeN)
      (s.readFor c.g.core c.g.asid pa 128).2).setJob c.g.asid fun j => { j with tapeN := j.tapeN + 1 })
    fun _ _ => toD d 0) ∧
  (∀ h d n pa j, Completes (.tapePush h d n)
    (fun c s => at_ c s n pa ∧ (record s c pa).1.recordReason c.g.asid (record s c pa).2 false = none ∧
      (record s c pa).1.job c.g.asid = some j ∧
      ((record s c pa).1.tapePhase c.g = false ∨ j.desc.tapecap ≤ j.tapeN))
    (fun c s => (record s c pa).1)
    fun c s => toD d (if (record s c pa).1.tapePhase c.g then 9 else 10)) ∧
  (∀ h lvl d a, Completes (.cancel h lvl d a) (fun c s => s.named c.g.asid lvl (c.w a).toNat = none) (fun _ s => s)
    fun _ _ => toD d 6) ∧
  (∀ h lvl d a x, Completes (.cancel h lvl d a)
    (fun c s => s.named c.g.asid lvl (c.w a).toNat = some x ∧ (s.statusOf c.g.asid x).isSome = true) (fun _ s => s)
    fun _ _ => toD d 8) ∧
  (∀ h lvl d a x, Leads (.cancel h lvl d a)
    (fun c s => s.named c.g.asid lvl (c.w a).toNat = some x ∧ s.statusOf c.g.asid x = none)
    fun c s => (s.setThr c.ref fun t => t.complete c.next (toD d 0)).cancel c.g.asid x) ∧
  /- what refuses a record, in the order of the tests; `hand`: a handler record -/
  (∀ (s : State) (asid : Nat) (bs : List Byte) (hand : Bool), bs.length = 128 →
    let num (at_ n : Nat) : Nat := leNat ((bs.drop at_).take n)
    let address (at_ : Nat) : Nat := num at_ 8
    let astray (a : Nat) : Prop := a / 2 ^ 57 ≠ if a.testBit 56 then 127 else 0
    let regs := num 76 1 + 1
    let scratch := num 44 4
    let acc := num 70 2
    let threads := num 68 2
    let ctl := num 78 1
    let size := 2 ^ (ctl / 8 % 4)
    let values : Prop := ctl / 8 % 4 = 3 ∨ (if hand then 62 else 64) < num 77 1 ∨ threads = 0 ∨ 1024 < threads ∨ 512 < acc ∨
      acc % 64 ≠ 0 ∨ 393216 < scratch ∨ address 32 % 16 ≠ 0 ∨ (address 32 = 0 ∧ num 74 2 ≠ 0) ∨ address 24 % 8 ≠ 0 ∨
      address 16 % 8192 ≠ 0 ∨ address 8 % 4 ≠ 0 ∨ (address 8 = 0 ∧ num 77 1 ≠ 0) ∨ address 0 % 4 ≠ 0 ∨
      (∃ k, k < 5 ∧ astray (address (8 * k))) ∨
      (hand = false ∧ (num 40 4 = 0 ∨ num 40 4 % size ≠ 0 ∨ (ctl.testBit 2 ∧ num 52 4 = 0) ∨ (ctl.testBit 1 ∧ num 56 4 = 0)))
    let latest (isPhase : Bool) (id : Nat) : Option Inst :=
      (s.insts.filter fun i => i.asid == asid && i.isPhase == isPhase && i.ident == id).getLast?
    let refused : List (Nat × Prop) :=
      [(1, num 88 40 ≠ 0 ∨ 2 ≤ num 79 1), (2, values),
       (3, ∀ q, q < (if s.build.small then 24 else 48) → (List.range' (4 * q) 4).countP (fun c => !s.build.disabled.contains c) < size),
       (4, ∃ p, p < 8 ∧ 65536 < (List.range threads).countP (fun t => t / 32 % 8 == p) * regs * 4)] ++
      if hand then [] else
        [(8, ∀ j, s.job asid = some j → j.stopping.isSome = true),
         (5, ∃ j, s.job asid = some j ∧
           (j.desc.qslots = 0 ∨ j.desc.qreg * 1024 < threads * regs * 4 ∨ j.desc.qscr < scratch ∨ j.desc.qacc < acc)),
         (6, ∃ d ∈ [num 60 4, num 64 4], d ≠ 0 ∧ ∀ l ∈ s.launches, ¬ (l.asid = asid ∧ l.id = d)),
         (7, ∃ p ∈ [(false, num 52 4), (true, num 56 4)], p.2 ≠ 0 ∧ ∃ i, latest p.1 p.2 = some i ∧ i.closed = true ∧ i.status = none)]
    let reason := s.recordReason asid (LaunchRec.ofBytes bs) hand
    (∀ before why P after, refused = before ++ (why, P) :: after → P → (∀ x ∈ before, ¬ x.2) → reason = some why) ∧
    ((∀ x ∈ refused, ¬ x.2) → reason = none))

/-- Whenever CNT.WAIT runs afresh: an id that names nothing gives NOSUCH, one that contains the thread's own group gives SELF,
a complete one its status, and one in progress gives PENDING in the TRY form and waits otherwise. The levels name the job
itself, a launch of the job, or the graph or phase of that identifier that opened last; an identifier that no launch, graph or
phase of the job has names nothing. (12_instructions_control.md (Launch, wait, cancel and the tape); 20_scheduling_faults.md
(Launch records); 20_scheduling_faults.md (Completion and cancel).) -/
def Obligations.CounterWaits : Prop :=
  let fresh (c : Ctx) (s : State) (lvl : Lvl) (a : Src) (x : Option Named) : Prop :=
    c.t.held = none ∧ s.named c.g.asid lvl (c.w a).toNat = x
  (∀ h lvl tr d a, Completes (.cntWait h lvl tr d a) (fun c s => fresh c s lvl a none) (fun _ s => s) fun _ _ => toD d 6) ∧
  (∀ h lvl tr d a x, Completes (.cntWait h lvl tr d a) (fun c s => fresh c s lvl a (some x) ∧ s.contains c.g x = true)
    (fun _ s => s) fun _ _ => toD d 5) ∧
  (∀ h lvl tr d a x st, Completes (.cntWait h lvl tr d a)
    (fun c s => fresh c s lvl a (some x) ∧ s.contains c.g x = false ∧ s.statusOf c.g.asid x = some st)
    (fun c s => s.clearL1 c.g.core) fun _ _ => toD d (match st with | .done => 0 | .cancelled => 3 | .faulted => 4)) ∧
  (∀ h lvl d a x, Completes (.cntWait h lvl true d a)
    (fun c s => fresh c s lvl a (some x) ∧ s.contains c.g x = false ∧ s.statusOf c.g.asid x = none) (fun _ s => s)
    fun _ _ => toD d 7) ∧
  (∀ h lvl d a x, Waits (.cntWait h lvl false d a)
    (fun c s => fresh c s lvl a (some x) ∧ s.contains c.g x = false ∧ s.statusOf c.g.asid x = none)
    fun _ _ => .counter lvl x.key) ∧
  /- what the levels name -/
  (∀ (s : State) asid id, (s.named asid .job id = if id = asid then some .job else none) ∧
    (s.named asid .launch id = ((s.launches.find? fun l => l.asid == asid && l.id == id).map fun l => .launch l.id)) ∧
    (∀ isPhase : Bool, let is (k : Inst) : Prop := k.asid = asid ∧ k.isPhase = isPhase ∧ k.ident = id
      let names := s.named asid (if isPhase then .phase else .graph) id
      (∀ before k after, s.insts = before ++ k :: after → is k → (∀ x ∈ after, ¬ is x) → names = some (.inst k.serial)) ∧
      ((∀ x ∈ s.insts, ¬ is x) → names = none)))

/-- TRAP and ASSERT take their trap with the code, and ASSERT with its pair; an unassigned opcode takes ILLEGAL_OPCODE. Taking
a trap with no result outstanding delivers every arrived result, builds the record stated here with the job's next SEQ, and
then stops the job for a fault in a handler group (an ASSERT there too: DEDUCED, log entry 30), an ASSERT or a missing
handler, and otherwise holds the thread and writes the record. The record's bytes are the 64 of the table.
(12_instructions_control.md (Traps); 20_scheduling_faults.md (Faults and traps).) -/
def Obligations.TrapEntry : Prop :=
  ((∀ h (code : Half), Traps (.trap h code) (fun _ _ => True) fun _ _ => ⟨.trap, code.setWidth 32, 0, 0⟩) ∧
   (∀ h n (code : Half), Traps (.assert h n code) (fun _ _ => True)
     fun c _ => ⟨.assert, code.setWidth 32, 0, c.t.dpair n.toNat⟩) ∧
   (∀ r s g t, s.groups[s.cur.ref.grp]? = some g → s.thr s.cur.ref = some t → t.guardOpen r.hdr = false →
     t.guardHolds r.hdr = true → s.unitAbsent r.op.toNat = false →
     exec (.illegalOpcode r) s = .next (s.takeTrap s.cur.ref (some (insnOf (.illegalOpcode r))) s.cur.shortw ⟨.illegalOpcode, 0, 0, 0⟩)) ∧
   (∀ (s : State) r insn sw info g t j, s.groups[r.grp]? = some g → s.thr r = some t → t.pending = false →
     s.job g.asid = some j →
     let x : TrapRec :=
       { seq := BitVec.ofNat 32 j.seq, core := BitVec.ofNat 16 g.core, info := info, launch := BitVec.ofNat 32 g.launch
         gid := BitVec.ofNat 32 g.gid, tid := BitVec.ofNat 16 r.tid, window := t.windows.any fun w => w.left != 0
         insnValid := insn.isSome, short := sw.isSome, shortw := sw.getD 0, insn := insn.getD 0, pc := t.pc }
     let u := (s.setThr r Thread.deliverAll).setJob g.asid fun j => { j with seq := j.seq + 1 }
     (g.handler.isSome = true → s.takeTrap r insn sw info = u.jobStop g.asid .handler x.bytes) ∧
     (g.handler = none → info.code = .assert → s.takeTrap r insn sw info = u.jobStop g.asid .assert x.bytes) ∧
     (g.handler = none → info.code ≠ .assert → j.handler = none →
       s.takeTrap r insn sw info = u.jobStop g.asid .nohandler x.bytes) ∧
     (g.handler = none → info.code ≠ .assert → j.handler.isSome = true →
       s.takeTrap r insn sw info = { u.setThr r fun t => { t with status := .trapped s.nextSerial, held := none } with
         nextSerial := s.nextSerial + 1
         traps := s.traps ++ [Trap.mk s.nextSerial g.asid x g.core none (some r) 0 none false] }.writeTrap s.nextSerial))) ∧
  (∀ (r : TrapRec), r.bytes.length = 64 ∧
     let f (lo n : Nat) : Nat := leNat ((r.bytes.drop lo).take n)
     f 0 8 = r.pc.toNat ∧ f 8 16 = r.insn.toNat ∧ f 24 4 = r.shortw.toNat ∧ f 28 1 = r.info.code.code ∧
     f 29 1 = 4 * b2n r.window + 2 * b2n r.insnValid + b2n r.short ∧ f 30 2 = r.tid.toNat ∧ f 32 4 = r.gid.toNat ∧
     f 36 4 = r.launch.toNat ∧ f 40 8 = r.info.addr.toNat ∧ f 48 4 = r.info.detail.toNat ∧ f 52 4 = r.info.detail2.toNat ∧
     f 56 2 = r.core.toNat ∧ f 58 2 = 0 ∧ f 60 4 = r.seq.toNat)

/-- Outside a handler group each takes ILLEGAL_VARIANT. In a handler group that serves a trap, RESUME ends the trap and
releases its thread to execute the instruction again or to go on behind it, KILL stops the job, and the executing thread ends
(DEDUCED, log entry 22). (20_scheduling_faults.md (Faults and traps); 20_scheduling_faults.md (System instructions).) -/
def Obligations.HandlerInstructions : Prop :=
  let leave (u : State) (c : Ctx) : State := if (u.thr c.ref).any Thread.live then (u.setThr c.ref fun t => { t with pc := c.next }).exitThread c.ref else u
  let serves (c : Ctx) (s : State) (id : Nat) (x : Trap) : Prop :=
    c.g.handler = some id ∧ s.traps.find? (fun t => t.id == id) = some x
  let ended (s : State) (x : Trap) : State := { s with traps := s.traps.map fun (t : Trap) => if t.id = x.id then { t with ended := true } else t }
  let outside (i : Instr) : Prop := Traps i (fun c _ => c.g.handler = none) fun _ _ => ⟨.illegalVariant, 0, 0, 0⟩
  (∀ h, outside (.resumeRetry h) ∧ outside (.resumeSkip h) ∧ outside (.kill h)) ∧
  (∀ h id x, Leads (.resumeRetry h) (fun c s => serves c s id x ∧ x.ended = false)
    fun c s => leave ((ended s x).release x false) c) ∧
  (∀ h id x, Leads (.resumeSkip h) (fun c s => serves c s id x ∧ x.ended = false)
    fun c s => leave ((ended s x).release x true) c) ∧
  (∀ h id x, Leads (.kill h) (fun c s => serves c s id x ∧ x.ended = false)
    fun c s => leave ((ended s x).jobStop x.asid .kill x.tr.bytes) c) ∧
  (∀ (s : State) (x : Trap) r g t, x.thread = some r → s.groups[r.grp]? = some g → g.status = .running → s.thr r = some t →
    let u := s.clearL1 g.core
    (s.release x false = u.setThr r fun t => { t with status := .ready, held := none }) ∧
    (x.tr.insnValid = true → x.tr.short = false →
      s.release x true = u.setThr r fun t => t.complete (x.tr.pc + BitVec.ofNat 57 (lengthOf x.tr.insn)) []) ∧
    (x.tr.short = true → s.release x true = u.setThr r fun t => t.complete (x.tr.pc + 4) []) ∧
    (x.tr.insnValid = false → x.tr.short = false → s.release x true = s.release x false))

/-- Whenever SRD names FEAT or CMAP it completes with it in any group. In a handler group whose thread is held, SRD reads and
SWR writes the held thread's d registers, predicates, %fstat and %fmode, and SRD its call depth and pc. Everything else stated
here takes ILLEGAL_VARIANT. (20_scheduling_faults.md (System instructions).) -/
def Obligations.SystemRegisters : Prop :=
  let held (c : Ctx) (s : State) (id : Nat) (x : Trap) (r : ThreadRef) (t : Thread) : Prop :=
    c.g.handler = some id ∧ s.traps.find? (fun t => t.id == id) = some x ∧ x.thread = some r ∧ x.ended = false ∧ s.thr r = some t
  let illegal : TrapInfo := ⟨.illegalVariant, 0, 0, 0⟩
  let num (c : Ctx) (b : Src) : Nat := (c.w b).toNat
  (∀ h d b, Completes (.srd h d b) (fun c _ => 0x200 ≤ num c b ∧ num c b ≤ 0x203) (fun _ s => s)
    fun c s => toD d (s.feat (num c b - 0x200))) ∧
  (∀ h d b, Completes (.srd h d b) (fun c _ => 0x210 ≤ num c b ∧ num c b ≤ 0x215) (fun _ s => s)
    fun c s => toD d (s.cmap (num c b - 0x210))) ∧
  (∀ h d b, Traps (.srd h d b) (fun c _ => c.g.handler = none ∧ ¬ (0x200 ≤ num c b ∧ num c b ≤ 0x203) ∧
    ¬ (0x210 ≤ num c b ∧ num c b ≤ 0x215)) fun _ _ => illegal) ∧
  (∀ h d b id x r t, Completes (.srd h d b) (fun c s => held c s id x r t ∧ num c b < 256 ∧ num c b < t.d.length)
    (fun _ s => s) fun c _ => toD d (t.d.getD (num c b) 0)) ∧
  (∀ h d b id x r t, Traps (.srd h d b) (fun c s => held c s id x r t ∧ t.d.length ≤ num c b ∧ num c b < 256)
    fun _ _ => illegal) ∧
  (∀ h d b id x r t, Completes (.srd h d b) (fun c s => held c s id x r t ∧ 0x100 ≤ num c b ∧ num c b ≤ 0x105) (fun _ s => s)
    fun c _ => toD d (match num c b with
      | 0x100 => BitVec.ofNat 32 (128 + t.q.toNat % 128) | 0x101 => t.fstat.setWidth 32 | 0x102 => t.fmode.setWidth 32
      | 0x103 => BitVec.ofNat 32 t.depth | 0x104 => BitVec.ofNat 32 t.pc.toNat | _ => BitVec.ofNat 32 (t.pc.toNat / 2 ^ 32))) ∧
  (∀ h b a, Traps (.swr h b a) (fun c _ => c.g.handler = none) fun _ _ => illegal) ∧
  (∀ h b a id x r t, Completes (.swr h b a) (fun c s => held c s id x r t ∧ num c b < 256 ∧ num c b < t.d.length)
    (fun c s => s.setThr r fun _ => { t with d := t.d.set (num c b) (c.t.dreg a.toNat) }) fun _ _ => []) ∧
  (∀ h b a id x r t, Completes (.swr h b a) (fun c s => held c s id x r t ∧ 0x100 ≤ num c b ∧ num c b ≤ 0x102)
    (fun c s => s.setThr r fun _ =>
      let v := (c.t.dreg a.toNat).toNat
      match num c b with
      | 0x100 => { t with q := BitVec.ofNat 8 (v % 128 + t.q.toNat / 128 * 128) }
      | 0x101 => { t with fstat := BitVec.ofNat 5 v }
      | _ => { t with fmode := BitVec.ofNat 4 (v / 8 % 2 * 8 + if v % 8 ≥ 4 then 0 else v % 8) }) fun _ _ => []) ∧
  (∀ h b a id x r t, Traps (.swr h b a) (fun c s => held c s id x r t ∧ 0x103 ≤ num c b) fun _ _ => illegal)

/-- Whenever TLBINV.ALL runs, it completes and exactly the retained translations of its job's ASID are gone; TLBINV.PAGE drops
exactly those of the job that cover Pair(dN), with no check of the address and no fault; both empty the core's L1 as an
acquire does. (R312.) -/
def Obligations.TranslationDrops : Prop :=
  let drop (s : State) (asid : Nat) (hit : Tlb → Bool) : State := { s with tlb := s.tlb.filter fun t => !(t.asid == asid && hit t) }
  (∀ h, Completes (.tlbinvAll h) (fun _ _ => True) (fun c s => (drop s c.g.asid fun _ => true).clearL1 c.g.core) fun _ _ => []) ∧
  (∀ h n, Completes (.tlbinvPage h n) (fun _ _ => True)
    (fun c s => let a := (c.t.dpair n.toNat).toNat
      (drop s c.g.asid fun t => canonical a && decide (t.va ≤ a % 2 ^ 57) && decide (a % 2 ^ 57 < t.va + t.size)).clearL1 c.g.core)
    fun _ _ => [])

/-- While the device is not frozen: RESULT_DELIVERY writes the oldest arrived result of a thread; RUN_PICK fills a free
context of the partition with gangs of the chosen kernel, threads of one PC, at most 32, with the one that has waited longest
where any is aged (DEDUCED, log entry 77; the choice of a kernel is log entries 20 and 97); QUANTUM_EXPIRY makes a group ready
to swap once every partition with a live thread has had its quantum (log entry 78); stage 2 and stage 3 of a pre-emption start
at their deadlines. A cluster that is due for swap-out (log entries 21, 61 and 76) with each open group at a run boundary is
swapped out: what the swap writes lies in the job's swap area, and each group's threads, scratchpad, registers, barriers,
queues and segment are kept; while a group of a core is due, its pickers give no run. A swapped-out cluster whose turn it is
(log entry 87) comes back at places that fit with what was kept, a group with a dictionary with its image read again.
(02_execution_model.md (Runs, the picker and gangs); 20_scheduling_faults.md (Pre-emption); 20_scheduling_faults.md (Group
swap); 18_grammar_engine.md (Segments and evaluation); 02_execution_model.md (Progress).) -/
def Obligations.CoreSteps : Prop :=
  (∀ s : State, s.frozen = false →
     (∀ r t, s.thr r = some t → exec (.resultDelivery r) s = .next (s.setThr r fun _ => t.deliverOne)) ∧
     (∀ core part k u asid lid, s.coreOn core = true → part < 8 →
       ((s.core core).partCtxs part).findIdx? (· == none) = some k → s.swapsFirst core = false → s.chooseKernel core part = some (u, (asid, lid)) →
       ∃ v, exec (.runPick core part) s = .next v ∧
         (core < s.cores.length → 4 * part + k < (u.core core).ctxs.length →
           (v.core core).ctxs[4 * part + k]? = some (some ⟨asid, lid,
             .start (u.gangs (u.readyThreads core part asid lid)).1, .start (u.gangs (u.readyThreads core part asid lid)).2⟩))) ∧
     (∀ core part asid lid r, r ∈ s.readyThreads core part asid lid → ∃ g t, s.groups[r.grp]? = some g ∧ s.thr r = some t ∧
       g.core = core ∧ r.tid / 32 % 8 = part ∧ g.asid = asid ∧ g.launch = lid ∧ s.ready g t = true) ∧
     /- a group that is due comes first -/
     (∀ (core part gi : Nat) g, s.groups[gi]? = some g → g.core = core → g.resident = true → s.due g = true →
       exec (.runPick core part) s = .next s) ∧
     (∀ gi g, s.groups[gi]? = some g → g.status = .running → g.handler = none → g.quant ≠ 0 →
       (∀ p, p < 8 → (∀ t, t < g.threads.length → t / 32 % 8 = p → g.live t = false) ∨ g.quant ≤ g.quanta.getD p 0) →
       exec (.quantumExpiry gi) s = .next (s.setGrp gi fun g => { g with swapReady := true })) ∧
     (∀ asid j d, s.job asid = some j → (∀ k ∈ s.jobs, k.desc.asid = asid → k = j) → j.pre = some d →
       d + j.desc.dl1 ≤ s.hubClock →
       exec (.preemptStage2 asid) s = .next (s.setJob asid fun j => { j with stage2 := true })) ∧
     (∀ asid j d, s.job asid = some j → j.pre = some d → d + max j.desc.dl1 j.desc.dl2 ≤ s.hubClock →
       exec (.preemptStage3 asid) s = .next (s.jobStop asid .stage3 (List.replicate 64 0)))) ∧
  /- the gangs of a run -/
  (∀ (s : State) (rs : List ThreadRef),
     let pc (r : ThreadRef) : Nat := ((s.thr r).map fun t => t.pc.toNat).getD 0
     let age (r : ThreadRef) : Nat := ((s.thr r).map Thread.age).getD 0
     let gs := s.gangs rs
     (∀ k ∈ [gs.1, gs.2], k.length ≤ 32 ∧ (∀ r ∈ k, r ∈ rs) ∧ ∀ p ∈ k, ∀ q ∈ k, pc p = pc q) ∧
     (rs ≠ [] → gs.1 ≠ []) ∧
     ((∀ r ∈ rs, age r < 64) → ∀ p ∈ gs.1, ∀ r ∈ rs, pc p ≤ pc r) ∧
     ((∃ r ∈ rs, 64 ≤ age r) → ∃ q ∈ gs.1, 64 ≤ age q ∧ ∀ r ∈ rs, age r ≤ age q)) ∧
  /- swap-out -/
  (∀ s : State, s.frozen = false → ∀ gi g, s.groups[gi]? = some g →
     let open_ := g.cluster.filter fun k => (s.groups[k]?).any fun x => x.status != .done
     g.resident = true → s.due g = true → (∀ k ∈ open_, ∃ x, s.groups[k]? = some x ∧ s.quiet k x = true) →
     ∃ u, exec (.groupSwapOut gi) s = .next u ∧
       ∀ k ∈ open_, ∀ x, (s.writeSwap g.asid s.nextSerial).groups[k]? = some x →
         ∃ v, u.groups[k]? = some v ∧ v.status = .swapped ∧ v.threads = x.threads ∧ v.scratch = x.scratch ∧ v.cvs = x.cvs ∧
           v.bars = x.bars ∧ v.hqs = x.hqs ∧ v.g = x.g ∧ v.seg = x.seg ∧ v.gswap = x.gswap ∧ v.swapSeq = s.nextSerial ∧
           (g.cluster.Nodup → v.startAt = x.status.stage ∧ v.selAddr = (x.sel.bind fun j =>
             ((s.writeSwap g.asid s.nextSerial).core x.core).dicts.getD j none).map DictSlot.addr)) ∧
  (∀ (s : State) asid n j, s.quietMem → s.job asid = some j →
     (s.writeSwap asid n).groups = s.groups ∧
     ∀ a, (a < j.desc.swap ∨ j.desc.swap + j.desc.swaplen ≤ a) → cGet (s.writeSwap asid n).mem a = cGet s.mem a) ∧
  /- swap-in -/
  (∀ s : State, s.frozen = false → ∀ gi g ps, s.groups[gi]? = some g →
     let gis := g.cluster.filter fun k => (s.groups[k]?).any fun x => x.status == .swapped
     g.status = .swapped → (s.job g.asid).any Job.active = true → s.swapTurn g = true → s.swapParked gis = false →
     s.quotaHeld g.asid g.launch (gis.filterMap fun k => (s.groups[k]?).map Group.gid) = false →
     clusterPlaces gis.length ps = true →
     (∀ x ∈ gis.zip ps, ∃ v, s.groups[x.1]? = some v ∧ s.placeOk v.asid v.take v.selAddr false x.2 = true ∧
       (v.seg = none ∨ s.engineUsed x.2.core none = false)) →
     (∀ u imgs, State.rereadImages gis s = (u, some imgs) → exec (.groupSwapIn gi ps) s = .next
       ((gis.zip ps).foldl (fun s x => s.restoreGroup x.1 x.2 ((imgs.find? fun i => i.1 == x.1).map Prod.snd)) u)) ∧
     (∀ u, State.rereadImages gis s = (u, none) → exec (.groupSwapIn gi ps) s = .next u)) ∧
  (∀ (s : State) gi g, s.groups[gi]? = some g →
     (g.selAddr = none ∨ g.startAt.isSome = true → State.rereadImages [gi] s = (s, some [])) ∧
     (∀ a u bs, g.selAddr = some a → g.startAt = none →
       s.engRead (some (g.core / 48)) g.asid isNormal ((List.range 8160).map fun k => (a.toNat + 32 + k) % 2 ^ 64) = (u, .ok bs) →
       State.rereadImages [gi] s = (u, some [(gi, List.replicate 32 0 ++ bs)]))) ∧
  (∀ (s : State) gi g p img, s.groups[gi]? = some g → g.gswap = [] → (∀ q ∈ s.parked, q.rung = false) →
     ∃ v, (s.restoreGroup gi p img).groups[gi]? = some v ∧ v.core = p.core ∧ v.accBase = p.acc ∧ v.threads = g.threads ∧
       v.scratch = g.scratch ∧ v.cvs = g.cvs ∧ v.bars = g.bars ∧ v.hqs = g.hqs ∧ v.g = g.g ∧ v.seg = g.seg ∧
       v.status = (match g.startAt with | some n => .starting n | none => .running) ∧
       (g.selAddr = none → v.sel = none) ∧
       (∀ a bs k, g.selAddr = some a → img = some bs → p.core < s.cores.length → k < (s.core p.core).dicts.length →
         s.dictSlot p.core g.asid a none none false = some k →
         v.sel = some k ∧ ∃ d, (((s.restoreGroup gi p img).core p.core).dicts)[k]? = some (some d) ∧ d.asid = g.asid ∧
           d.addr = a ∧ d.img = imageOf bs))

/-- While the device is not frozen: an open queue's next record is taken, refused with its RESULT or accepted; a startable
launch (log entry 87) that none outranks starts its next cluster, which no open QUOTA record holds (DEDUCED, log entry 36), on
places that fit; a launch that is over completes with its status and its RESULT; a closed tape-mode phase with every launch
complete is replayed; a replay pops the latest record, behind the launch popped before it unless the record has OVERLAP, and
accepts it or ends refused. A queue and a tape whose job has no identifier left take nothing (DEDUCED, log entry 26).
(20_scheduling_faults.md (Launch queues); 20_scheduling_faults.md (Dispatch and group start); 20_scheduling_faults.md
(Completion and cancel); 20_scheduling_faults.md (The tape).) -/
def Obligations.LaunchSteps : Prop :=
  ∀ s : State, s.frozen = false →
    (∀ qi q why, s.queues[qi]? = some q → s.queueOpen q = true →
      let pa := q.base.toNat + 128 * (q.rd.toNat % 2 ^ q.log2n)
      let r := s.homeRead (some q.asid.toNat) pa 128
      let u := { r.1 with queues := r.1.queues.modify qi fun q => { q with rd := q.rd + 1 } }
      pa + 128 ≤ s.memSize →
      (u.recordReason q.asid.toNat (LaunchRec.ofBytes r.2) false = some why → exec (.launchQueueTake qi) s =
        .next ((u.countHub 2 (some q.asid.toNat) 1).writeResult (some q.asid.toNat) qi q.rd.toNat pa (2 ^ 31 + why * 256 + 2))) ∧
      (u.recordReason q.asid.toNat (LaunchRec.ofBytes r.2) false = none → exec (.launchQueueTake qi) s =
        .next (u.accept q.asid.toNat (LaunchRec.ofBytes r.2) (.queue qi q.rd.toNat pa) none none).1)) ∧
    (∀ asid lid l ps, s.launch? asid lid = some l → s.booted = true → s.startable l = true →
      clusterPlaces (2 ^ l.lr.csize) ps = true → (∀ p ∈ ps, s.placeOk asid l.lr.take l.lr.dict? false p = true) →
      s.quotaHeld asid lid [l.nextGid] = false → s.outranked l = false →
      exec (.groupStart asid lid ps) s =
        .next ((s.setLaunch asid lid fun l => { l with nextGid := l.nextGid + 2 ^ l.lr.csize }).startCluster l.lr asid lid l.nextGid ps)) ∧
    (∀ asid lid l, s.launch? asid lid = some l → s.launchOver l = true → (l.statsDone = true ∨ l.lr.cap = 0) → s.depFailed l = false →
      let u := (s.setLaunch asid lid fun m => { m with status := some (s.launchStatus l) }).updateInsts
      (∀ q idx pa, l.origin = .queue q idx pa → exec (.launchCompletion asid lid) s = .next (u.writeResult (some asid) q idx pa
        (lid * 2 ^ 32 + 2 ^ 31 + match s.launchStatus l with | .done => 0 | .cancelled => 3 | .faulted => 4))) ∧
      ((∀ q idx pa, l.origin ≠ .queue q idx pa) → exec (.launchCompletion asid lid) s = .next u)) ∧
    (∀ n i, s.insts.find? (fun (i : Inst) => i.serial == n) = some i → i.isPhase = true → i.tapeMode = true → i.closed = true →
      i.replay = false → i.status = none → i.cancelled = false →
      (∀ l ∈ s.launches, l.asid = i.asid → l.phase = some n → l.status.isSome = true) →
      exec (.tapeReplay n) s =
        .next (State.updateInsts { s with
          insts := s.insts.map fun (i : Inst) => if i.serial = n then { i with replay := true } else i })) ∧
    (∀ qi q j, s.queues[qi]? = some q → s.job q.asid.toNat = some j → 2 ^ 32 < j.nextId → exec (.launchQueueTake qi) s = .next s) ∧
    (∀ n i j, s.insts.find? (fun (i : Inst) => i.serial == n) = some i → s.job i.asid = some j → i.replay = true → i.status = none →
      i.cancelled = false → j.stopping = none → j.tapeN ≠ 0 →
      (2 ^ 32 < j.nextId → exec (.tapePop n) s = .next s) ∧
      (j.nextId ≤ 2 ^ 32 →
        let r := s.homeRead (some i.asid) (j.desc.tape + 128 * (j.tapeN - 1)) 128
        let rec_ := (LaunchRec.ofBytes r.2).popped
        let u := r.1.setJob i.asid fun j => { j with tapeN := j.tapeN - 1 }
        (rec_.overlap = true ∨ ∀ p, i.lastPop = some p → ∃ l, r.1.launch? i.asid p = some l ∧ l.status.isSome = true) →
        (u.recordReason i.asid rec_ false = none → exec (.tapePop n) s = .next
          ((u.accept i.asid rec_ .tape (some n) (if rec_.overlap then none else i.lastPop)).1.setInst n fun i =>
            { i with lastPop := some (u.accept i.asid rec_ .tape (some n) (if rec_.overlap then none else i.lastPop)).2 })) ∧
        (∀ why, u.recordReason i.asid rec_ false = some why → exec (.tapePop n) s = .next
          (((u.countHub 2 (some i.asid) 1).setInst n fun i => { i with popRefused := true }).updateInsts))))

/-- While the device is not frozen an engine performs a forked operation in its turn (log entry 7: at once and whole). A copy
whose record is not good ends with the reason it was forked with. What an operation reads and writes: the first address that
fails decides the wait or the reason (DESIGN CHOICE, log entry 105); else it moves every byte, a box that is written by
ascending position, so that of two elements at one address the later stays (DESIGN CHOICE, log entry 104). CPY and CPYH.FROM
place a box, converted where a format is given, with zeros for what lies out of bounds; CPYX expands bitmap-sparse blocks, and
arrives at its source barrier for what it consumed if anything; a CPY or CPYX to several groups counts each element once
(DESIGN CHOICE, log entry 89); CPYO and CPYH.TO write the box from the scratchpad and then the completion word. GRUN reads its
symbols in order and ends as they say: every rule closed, or a stream fault at the symbol that fails; GOUT writes, for each
row, the values of the last rule that names it, in the order of the rules and then of the vectors (DESIGN CHOICE, log entry
92). (16_engines.md (Layout records); 16_engines.md (Issue, errors and completion words); 16_engines.md (Copy engine);
18_grammar_engine.md (Segments and evaluation); 18_grammar_engine.md (Instructions); 18_grammar_engine.md (Order and
concurrency).) -/
def Obligations.EngineSteps : Prop :=
  (∀ s : State, s.frozen = false → ∀ id o g, s.ops.find? (fun (o : EngOp) => o.id == id) = some o → s.groups[o.grp]? = some g →
     o.waiting = false →
     let die : Option Nat := some (g.core / 48)
     let wordThere (cw : Dword) : Prop := s.check o.asid cw.toNat .write isNormal ≠ .absent
     let sum (ws : List (Nat × List Byte)) : Nat := (ws.map fun w => w.2.length).sum
     let ended (u : State) (cw : Dword) : State := ((u.putWordOr o.asid cw 0x80000000).clearL1 g.core).closeOp o
     (∀ f t mask dst c bar, o.kind = .cpy f t mask dst c bar →
       (o.layout = none → exec (.copyOperation id) s = .next (s.endOp o o.bad)) ∧
       (∀ l rf u ws rs, o.layout = some l → l.format = some rf → s.boxIn o copyType f t c l rf = (u, .ok (ws, rs)) →
         exec (.copyOperation id) s = .next (((g.targets o.grp mask).foldl (fun v t => v.arrive t bar (sum ws) 0)
           ((u.place o (g.targets o.grp mask) dst ws).tallyOp o l.tid rs)).closeOp o))) ∧
     (∀ mask dst c dbar sbar, o.kind = .cpyx mask dst c dbar sbar →
       (o.layout = none → exec (.copyOperation id) s = .next (s.endOp o o.bad)) ∧
       (∀ l rf u vs, o.layout = some l → l.format = some rf → s.sparseIn o copyType c l rf = (u, .ok vs) →
         let ws := vs.map fun v => (rf.denseBytes * v.1, v.2.flatMap (leBytes rf.denseBytes))
         let inb := (l.sparseBlocks rf c).countP fun x => x.2.isSome
         ∃ rs, exec (.copyOperation id) s = .next (
           let v := (g.targets o.grp mask).foldl (fun v t => v.arrive t dbar (sum ws) 0)
             ((u.place o (g.targets o.grp mask) dst ws).tallyOp o l.tid rs)
           (if inb = 0 then v else v.arrive o.grp sbar (inb * (4 + rf.slotBytes)) 0).closeOp o))) ∧
     (∀ f t src c cw, o.kind = .cpyo f t src c cw → wordThere cw →
       (o.layout = none → exec (.copyOperation id) s = .next (s.endOp o o.bad)) ∧
       (∀ l rf u rs, o.layout = some l → l.format = some rf → s.boxOut o copyType f t src c l rf = (u, .ok rs) →
         exec (.copyOperation id) s = .next (ended (u.tallyOp o l.tid rs) cw))) ∧
     (∀ f t src c cw, o.kind = .cpyhTo f t src c cw → wordThere cw →
       (o.layout = none → exec (.copyOperation id) s = .next (s.endOp o o.bad)) ∧
       (∀ l rf u rs, o.layout = some l → l.format = some rf → s.boxOut o (· == .host) f t src c l rf = (u, .ok rs) →
         exec (.copyOperation id) s = .next (ended (u.tallyOp o l.tid rs) cw))) ∧
     (∀ f t dst c cw, o.kind = .cpyhFrom f t dst c cw → wordThere cw →
       (o.layout = none → exec (.copyOperation id) s = .next (s.endOp o o.bad)) ∧
       (∀ l rf u ws rs, o.layout = some l → l.format = some rf → s.boxIn o (· == .host) f t c l rf = (u, .ok (ws, rs)) →
         exec (.copyOperation id) s = .next (ended ((u.place o [o.grp] dst ws).tallyOp o l.tid rs) cw))) ∧
     /- the box of a copy -/
     (∀ accept f t c l rf,
       let us := l.units rf c t
       let xs := l.exps rf c
       ∃ rs : List Byte → List RRes, s.boxIn o accept f t c l rf =
         match s.engRead die o.asid accept (unitAddrs rf.eb us ++ unitAddrs 2 xs) with
         | (u, .error e) => (u, .error e)
         | (u, .ok bs) =>
           let n := rf.eb * us.countP fun x => x.2.isSome
           let es := assign rf.eb us (bs.take n)
           (u, .ok (match f with
             | some df => es.map fun e => (df.eb * e.1, leBytes df.eb (convert df.num rf.num .rn false (leNat e.2)).bits)
             | none => es.map (fun e => (rf.eb * e.1, e.2)) ++ (assign 2 xs (bs.drop n)).map fun h => (l.dataBytes rf + 2 * h.1, h.2),
             rs bs))) ∧
     (∀ accept f t src c l rf,
       let us := (l.units rf c t).filterMap fun x => x.2.map fun va => (x.1, va)
       let xs := (l.exps rf c).filterMap fun x => x.2.map fun va => (x.1, va)
       let bytes (ix : Nat) : List Byte := match f with
         | none => cRead g.scratch (src + rf.eb * ix) rf.eb
         | some sf => leBytes rf.eb (convert rf.num sf.num .rn false (leNat (cRead g.scratch (src + sf.eb * ix) sf.eb))).bits
       ∃ rs, s.boxOut o accept f t src c l rf =
         match s.engWrite die o.asid accept ((us.flatMap fun x => (byteAddrs x.2 rf.eb).zip (bytes x.1)) ++
           xs.flatMap fun x => (byteAddrs x.2 2).zip (cRead g.scratch (src + l.dataBytes rf + 2 * x.1) 2)) with
         | (u, .error e) => (u, .error e)
         | (u, .ok _) => (u, .ok rs)) ∧
     /- grammar evaluation -/
     (let gone (u : State) (r : EngRes) : State := ((u.closeOp o).setGrp o.grp fun g => { g with
        gram := g.gram.map fun p => if p.id = o.id then { p with res := some r } else p
        seg := g.seg.map fun x => if r = .ok then x else { x with fault := some (x.fault.getD r) } }).drainGram o.grp
      let keep (u : State) (rules : List Rule) (nv : Nat) : State :=
        u.setGrp o.grp fun g => { g with seg := g.seg.map fun z => { z with rules, lastNv := nv } }
      s.gramTurn o = true →
      (∀ b, o.kind = .grun b → g.seg = none → exec (.grunEvaluation id) s = .next (gone s .ok)) ∧
      (∀ b x r, o.kind = .grun b → g.seg = some x → x.fault = some r → exec (.grunEvaluation id) s = .next (gone s r)) ∧
      (∀ b x (pas : Nat → Nat), o.kind = .grun b → g.seg = some x → x.fault = none → s.quietMem →
        (∀ a, a < 4 * x.nsym → ∃ ty e, s.check o.asid ((x.stream.toNat + a) % 2 ^ 64) .read streamType = .ok (pas a) ty e) →
        let y (i : Nat) : Nat := leNat ((List.range 4).map fun k => cGet s.mem (pas (4 * i + k)))
        let start : GramRun := ⟨[], 0, 0, List.replicate b.nv 0⟩
        let eval (k : Nat) : Except FCode GramRun := ((List.range k).map y).foldlM (gramStep x b g) start
        (∀ r, eval x.nsym = .ok r → ∃ cs, exec (.grunEvaluation id) s = .next (gone (keep (State.clearL1 { s with counters := cs } g.core) r.rules b.nv)
          (if r.len = 0 then .ok else .stream .grammarOrder x.nsym r.rules.length))) ∧
        (∀ i r code, i < x.nsym → eval i = .ok r → gramStep x b g r (y i) = .error code → ∃ cs, exec (.grunEvaluation id) s =
          .next (gone (keep (State.clearL1 { s with counters := cs } g.core) r.rules b.nv) (.stream code i r.rules.length)))) ∧
      (o.kind = .gout → g.seg = none → exec (.goutOperation id) s = .next (gone s .ok)) ∧
      (∀ x r, o.kind = .gout → g.seg = some x → x.fault = some r → exec (.goutOperation id) s = .next (gone s r)) ∧
      (∀ x, o.kind = .gout → g.seg = some x → x.fault = none →
        let eb := if x.out.format = some .b16 then 2 else 4
        let cells := (rowRules x.rules).flatMap fun r =>
          ((List.range x.lastNv).filter fun b => x.out.inBounds r.1 b 0 0).map fun b =>
            ((x.out.row b 0 0 + r.1 * eb) % 2 ^ 64, leBytes eb (if eb = 2 then
              (convert (.flt .b16) (.flt .f32) .rn false (r.2.getD b 0).toNat).bits else (r.2.getD b 0).toNat))
        (∀ u, s.engWrite die o.asid copyType (cells.flatMap fun e => (byteAddrs e.1 eb).zip e.2) = (u, .ok ()) →
          ∃ rs, exec (.goutOperation id) s = .next (gone ((u.tallyOp o x.out.tid rs).clearL1 g.core) .ok)) ∧
        (∀ u e, s.engWrite die o.asid copyType (cells.flatMap fun e => (byteAddrs e.1 eb).zip e.2) = (u, .error e) →
          exec (.goutOperation id) s = .next ((u.failOp o e).drainGram o.grp))))) ∧
  /- reads and writes at virtual addresses -/
  (∀ (s : State) die asid accept (before after : List Nat) va,
     (∀ x ∈ before, ∃ pa ty e, s.check asid x .read accept = .ok pa ty e ∧ ty ≠ .peer) →
     (s.check asid va .read accept = .absent → s.engRead die asid accept (before ++ va :: after) = (s, .error (.absent va false))) ∧
     (s.check asid va .read accept = .perm → s.engRead die asid accept (before ++ va :: after) = (s, .error (.fail 3))) ∧
     (s.check asid va .read accept = .memtype → s.engRead die asid accept (before ++ va :: after) = (s, .error (.fail 2)))) ∧
  (∀ (s : State) die asid accept (vas pas : List Nat), s.quietMem → vas.length = pas.length →
     (∀ x ∈ vas.zip pas, ∃ ty e, s.check asid x.1 .read accept = .ok x.2 ty e ∧ ty ≠ .host ∧ ty ≠ .peer) →
     ∃ cs, s.engRead die asid accept vas = ({ s with counters := cs }, .ok (pas.map fun a => cGet s.mem a))) ∧
  (∀ (s : State) die asid accept (ws : List (Nat × Byte)) (pas : List Nat), s.quietMem → ws.length = pas.length →
     (∀ x ∈ ws.zip pas, ∃ ty e, s.check asid x.1.1 .write accept = .ok x.2 ty e ∧ ty ≠ .host ∧ ty ≠ .peer) →
     ∃ cs, s.engWrite die asid accept ws = ({ s with
       counters := cs, mem := (pas.zip ws).foldl (fun m x => cSet m x.1 x.2.2) s.mem }, .ok ())) ∧
  /- the bytes of each unit of a box, and the elements of each bitmap-sparse block -/
  (∀ n (us : List (Nat × Option Nat)) (bs : List Byte) (i ix : Nat) (v : Option Nat), us[i]? = some (ix, v) → (assign n us bs)[i]? = some (ix, match v with
     | none => List.replicate n 0
     | some _ => (bs.drop (n * (us.take i).countP fun (x : Nat × Option Nat) => x.2.isSome)).take n)) ∧
  (∀ (s : State) o accept c (l : Layout) f u bs, s.engRead (s.opDie o) o.asid accept ((l.sparseBlocks f c).flatMap fun x =>
       match x.2 with | some p => byteAddrs p.1 4 ++ byteAddrs p.2 f.slotBytes | none => []) = (u, .ok bs) →
     let us := l.sparseBlocks f c
     let block (i : Nat) : List Byte := bs.drop ((4 + f.slotBytes) * (us.take i).countP fun x => x.2.isSome)
     let bm (i : Nat) : Nat := leNat ((block i).take 4)
     let slot (i : Nat) : List Byte := ((block i).drop 4).take f.slotBytes
     let rank (i e : Nat) : Nat := (List.range e).countP fun k => (bm i).testBit k
     ((∃ (i ix : Nat) (p : Nat × Nat), us[i]? = some (ix, some p) ∧ 16 < rank i 32) → s.sparseIn o accept c l f = (u, .error (.fail 1))) ∧
     ((∀ (i ix : Nat) (p : Nat × Nat), us[i]? = some (ix, some p) → rank i 32 ≤ 16) → ∃ vs, s.sparseIn o accept c l f = (u, .ok vs) ∧ vs.length = us.length ∧
       ∀ (i ix : Nat) (v : Option (Nat × Nat)), us[i]? = some (ix, v) → vs[i]? = some (ix, match v with
         | none => List.replicate 32 0
         | some _ => (List.range 32).map fun e =>
           if (bm i).testBit e then leNat (((slot i).drop (f.denseBytes * rank i e)).take f.denseBytes) else 0))) ∧
  /- one symbol (R269) -/
  (∀ (x : Segment) (b : Binding) (g : Group) (r : GramRun) (y : Nat), y < 2 ^ 32 →
     let elem (k col : Nat) : Nat := if b.b16 then leNat (cRead g.scratch (b.off + k * b.vstride + 2 * col) 2) * 65536
       else leNat (cRead g.scratch (b.off + k * b.vstride + 4 * col) 4)
     let add (a b : Word) : Word := BitVec.ofNat 32 (fltAdd .f32 .rn false a.toNat b.toNat).bits
     let mul (a b : Word) : Word := BitVec.ofNat 32 (fltMul .f32 .rn false a.toNat b.toNat).bits
     let code := y % 256
     let col := y / 256 % 2 ^ 22
     (4095 < r.rules.length → gramStep x b g r y = .error .rvfRange) ∧
     (r.rules.length ≤ 4095 →
       (y < 2 ^ 30 → x.cbook.length ≤ code → gramStep x b g r y = .error .grammarOrder) ∧
       (y < 2 ^ 30 → code < x.cbook.length → b.len ≤ col → gramStep x b g r y = .error .scratchBounds) ∧
       (y < 2 ^ 30 → ∀ w, x.cbook[code]? = some w → col < b.len → ∃ u, gramStep x b g r y = .ok u ∧ u.rules = r.rules ∧
         u.dep = r.dep ∧ u.len = r.len + 1 ∧ ∀ (k : Nat) (v : Word), r.sums[k]? = some v → u.sums[k]? = some (add v (mul
           (BitVec.ofNat 32 (convert (.flt .f32) (.flt .f16) .rn false w.toNat).bits) (BitVec.ofNat 32 (elem k col))))) ∧
       (2 ^ 30 ≤ y → y < 2 ^ 31 → (4096 ≤ y % 2 ^ 30 ∨ r.rules.length ≤ y % 2 ^ 30) → gramStep x b g r y = .error .grammarOrder) ∧
       (2 ^ 30 ≤ y → y < 2 ^ 31 → y % 2 ^ 30 < 4096 → ∀ w, r.rules[y % 2 ^ 30]? = some w → gramStep x b g r y = .ok { r with
         len := r.len + 1, dep := max r.dep w.depth, sums := (r.sums.zip w.vals).map fun p => add p.1 p.2 }) ∧
       (2 ^ 31 ≤ y → y < 3 * 2 ^ 30 → (y / 2 ^ 22 % 2 ^ 7 ≠ 0 ∨ y / 2 ^ 29 % 2 = 0 ∧ y % 2 ^ 22 ≠ 0) →
         gramStep x b g r y = .error .grammarOrder) ∧
       (2 ^ 31 ≤ y → y < 3 * 2 ^ 30 → y / 2 ^ 22 % 2 ^ 7 = 0 → (y / 2 ^ 29 % 2 = 1 ∨ y % 2 ^ 22 = 0) →
         gramStep x b g r y = if 15 < r.dep + 1 then .error .ruleDepth else .ok ⟨r.rules ++ [⟨r.sums, r.dep + 1,
           if y / 2 ^ 29 % 2 = 1 then some (y % 2 ^ 22) else none⟩], 0, 0, List.replicate b.nv 0⟩) ∧
       (3 * 2 ^ 30 ≤ y → gramStep x b g r y = .error .grammarOrder))) ∧
  /- a row's values are those of the last rule that names it (R275) -/
  (∀ (rs : List Rule) i vals, (i, vals) ∈ rowRules rs ↔
     ∃ (k : Nat) (r : Rule), rs[k]? = some r ∧ r.row = some i ∧ r.vals = vals ∧ ∀ (m : Nat) (q : Rule), k < m → rs[m]? = some q → q.row ≠ some i)

/-- MMZ sets exactly the accumulator words of its rows to zero. MMA with a slot whose tag has another depth ends with reason
5; with a matching slot, each accumulator word of its 64 rows becomes the tile sum of the word and the products of the A row
with the slot's column (zeros take part: DEDUCED, log entry 44), and every other accumulator word of the core is unchanged.
ACCLD gives each word of its rows the scratchpad element converted to F32, ACCST stores each word converted to the format and
changes no other byte before its arrival, WBREL only arrives. While the device is not frozen these run in the group's tile
order; WBLD fills its slot with the F32 values of its box, where the slot still has the tag of its format (an emptied slot
stays as it is, and one with another tag reads as free values: DESIGN CHOICE, log entry 49), and arrives with 8192 bytes, or
ends with FORMAT (before MALFORMED: log entry 74). CRED_RESULT_WRITE of a complete instance writes the reduction of its
records and arrives at every receiver of the lowest rank; CRED.SMX of one record alone whose m is an infinity or a NaN follows
the pseudocode of R261 and not its closing sentence (DESIGN CHOICE, log entry 91). (16_engines.md (Tile engine); 16_engines.md
(Cluster reduction unit); 16_engines.md (Layout records); 06_arithmetic.md (Tile summation); 06_arithmetic.md (DX blocks,
exponent planes and sparse forms).) -/
def Obligations.TileEffects : Prop :=
  (∀ (s : State) (o : EngOp) (g : Group), s.groups[o.grp]? = some g →
    let acc (u : State) (row col : Nat) : Word := accGet (u.core g.core).acc (128 * row + col)
    (∀ first count bar, o.kind = .mmz first count bar → ∀ row col, col < 128 →
      acc (s.runTile o g) row col =
        if g.accBase + first ≤ row ∧ row < g.accBase + first + count then 0 else acc s row col) ∧
    (∀ f aoff astride aexp tid slot ag bar, o.kind = .mma f aoff astride aexp tid slot ag bar →
      (∀ tag, ((s.core g.core).slots.getD (g.accBase / 16 + slot) WSlot.empty).tag = some tag → tag.kOf ≠ f.kOf) →
      s.runTile o g = s.endOp o 5) ∧
    (∀ f aoff astride aexp tid slot ag bar tag, o.kind = .mma f aoff astride aexp tid slot ag bar → g.core < s.cores.length →
      ((s.core g.core).slots.getD (g.accBase / 16 + slot) WSlot.empty).tag = some tag → tag.kOf = f.kOf →
      ∀ row col, col < 128 →
        acc (s.runTile o g) row col =
          if g.accBase + 64 * ag ≤ row ∧ row < g.accBase + 64 * ag + 64 then
            let r := row - (g.accBase + 64 * ag)
            let k := f.kOf
            let a := aRow f (cRead g.scratch (aoff + r * astride) 64) (cRead g.scratch (aexp + 2 * (r * (k / 32))) (2 * (k / 32)))
            let b := (List.range k).map fun i => FFmt.f32.read
              (accGet ((s.core g.core).slots.getD (g.accBase / 16 + slot) WSlot.empty).vals (128 * i + col)).toNat
            BitVec.ofNat 32 (tileAcc (acc s row col).toNat (Nat.log2 k) ((a.zip b).map fun p => prodRN p.1 p.2)).bits
          else acc s row col) ∧
    (∀ f soff sstride count first tid bar, o.kind = .accld f soff sstride count first tid bar → g.core < s.cores.length →
      ∀ row col, col < 128 → acc (s.runTile o g) row col =
        if g.accBase + first ≤ row ∧ row < g.accBase + first + count then BitVec.ofNat 32 (convert (.flt .f32) f.num .rn false
          (leNat (cRead g.scratch (soff + (row - (g.accBase + first)) * sstride + f.eb * col) f.eb))).bits
        else acc s row col) ∧
    (∀ f soff sstride count first tid bar, o.kind = .accst f soff sstride count first tid bar → 128 * f.eb ≤ sstride →
      ∃ m rs, s.runTile o g = ((((s.setGrp o.grp fun g => { g with scratch := m }).tallyOp o tid rs).arrive o.grp bar
          (128 * f.eb * count) 0).countCore g.core 6 (some o.asid) 1).closeOp o ∧
        (∀ i e j, i < count → e < 128 → j < f.eb → cGet m (soff + i * sstride + f.eb * e + j) =
          (leBytes f.eb (convert f.num (.flt .f32) .rn false (acc s (g.accBase + first + i) e).toNat).bits).getD j 0) ∧
        (∀ a, (∀ i e j, i < count → e < 128 → j < f.eb → a ≠ soff + i * sstride + f.eb * e + j) → cGet m a = cGet g.scratch a)) ∧
    (∀ bar, o.kind = .wbrel bar → s.runTile o g =
      ((s.arrive o.grp bar 8192 0).countCore g.core 6 (some o.asid) 1).closeOp o)) ∧
  (∀ s : State, s.frozen = false → ∀ id o g, s.ops.find? (fun (o : EngOp) => o.id == id) = some o → s.groups[o.grp]? = some g →
    o.waiting = false →
    (o.kind.isTile = true → s.tileTurn o = true → exec (.tileOperation id) s = .next (s.runTile o g)) ∧
    (∀ sp slot lay c bar l f, o.kind = .wbld sp slot lay c bar → o.layout = some l → l.malformed = false → l.format = some f →
      let good : Prop := f.sparse = sp ∧ l.badBox c false = false ∧ l.tl 0 = f.kOf ∧ l.tl 1 = 128 ∧ l.tl 2 = 1 ∧ l.tl 3 = 1
      let accept (t : MType) : Bool := t == .normal || t == .row
      let filled (u : State) (vs : List (Nat × Word)) : State :=
        ((((u.setCore g.core fun k => { k with slots := k.slots.modify (g.accBase / 16 + slot) fun w => if w.tag = none then w
            else { w with vals := if w.tag = some f then vs
              else ((List.range 16384).map fun i => (i, Config.staleWeight o.id (16384 + i))).filter fun e => e.2 != 0 } }).tally
          o.asid o.launch l.tid 0 0 (vs.countP fun v => (FFmt.f32.read v.2.toNat).isNan)).arrive o.grp bar 8192 0).countCore
          g.core 6 (some o.asid) 1).closeOp o
      let holds (val : Nat → Nat → Word) (vs : List (Nat × Word)) : Prop :=
        ∀ k col, k < f.kOf → col < 128 → accGet vs (128 * k + col) = val k col
      (f.kOf = 0 ∨ f.sparse ≠ sp → exec (.wbldOperation id) s = .next (s.endOp o 5)) ∧
      (∀ u bs, f.kOf ≠ 0 → good → sp = false →
        s.engRead (some (g.core / 48)) o.asid accept (unitAddrs f.eb (l.units f c false) ++ unitAddrs 2 (l.exps f c)) = (u, .ok bs) →
        let n := f.eb * (l.units f c false).countP fun x => x.2.isSome
        let unit (i : Nat) : Nat := leNat (((assign f.eb (l.units f c false) (bs.take n)).getD i (0, [])).2)
        let exp (i : Nat) : Nat := leNat (((assign 2 (l.exps f c) (bs.drop n)).getD i (0, [])).2)
        ∃ vs, exec (.wbldOperation id) s = .next (filled u vs) ∧ holds (fun k col =>
          let i := k + f.kOf * col
          BitVec.ofNat 32 (match f with
            | .dx8 => rn32 (dxVal false (unit i) (exp (i / 32) % 256) (exp (i / 32) / 256))
            | .dx4 => rn32 (dxVal true (unit (i / 2) / (if k % 2 = 1 then 16 else 1) % 16) (exp (i / 32) % 256) (exp (i / 32) / 256))
            | f => (convert (.flt .f32) f.num .rn false (unit i)).bits)) vs) ∧
      (∀ u xs, f.kOf ≠ 0 → good → sp = true → s.sparseIn o accept c l f = (u, .ok xs) →
        ∃ vs, exec (.wbldOperation id) s = .next (filled u vs) ∧ holds (fun k col => BitVec.ofNat 32
          (convert (.flt .f32) (if f = .sb16 then .flt .b16 else .flt .e4m3) .rn false
            (((xs.filter fun v => v.1 / f.kOf == col).flatMap Prod.snd).getD k 0)).bits) vs))) ∧
  /- cluster reductions -/
  (∀ s : State, s.frozen = false → ∀ id x, s.creds.find? (fun (x : CredOne) => x.id == id) = some x →
    (x.mismatch = true → exec (.credResultWrite id) s = .next (
      let v := (x.contribs.filter fun c => !c.answered).foldl (fun s c => s.answerCred c 6) s
      { v with creds := v.creds.map fun (y : CredOne) => if y.id = x.id then { y with contribs := y.contribs.map fun c =>
          if y.mismatch || c.late then { c with answered := true } else c } else y })) ∧
    (∀ low rest g, x.mismatch = false → (∀ c ∈ x.contribs, c.late = false ∧ c.answered = false) →
      (∀ c ∈ x.contribs, ∀ r, r < 4 → c.part.getLsbD r = true → ∃ d ∈ x.contribs, d.rank = r) →
      (List.range 4).flatMap (fun r => x.contribs.filter fun c => c.rank == r) = low :: rest → s.groups[low.grp]? = some g →
      let out := (credFold low.op ((low :: rest).map fun c => c.data.map BitVec.toNat)).flatMap (leBytes 4)
      let v := (((List.range 4).filter fun r => low.recv.getLsbD r).map g.rank).foldl
        (fun s t => (s.scratchPuts t [(low.dOff, out)]).arrive t low.bOff out.length 0) s
      exec (.credResultWrite id) s = .next { v with creds := v.creds.map fun (y : CredOne) => if y.id = x.id then
        { y with contribs := y.contribs.map fun c => { c with answered := true } } else y })) ∧
  (∀ (a : List Nat), (credFold .sum [a] = a.map fun w => (canon .f32 w).1) ∧ (credFold .max [a] = a.map fun w => (canon .f32 w).1)) ∧
  (∀ (a : List Nat) (recs : List (List Nat)) (b : List Nat) (e : Nat), e < a.length →
    (credFold .sum (a :: recs ++ [b])).getD e 0 =
      (fltAdd .f32 .rn false ((credFold .sum (a :: recs)).getD e 0) (b.getD e 0)).bits ∧
    (credFold .max (a :: recs ++ [b])).getD e 0 =
      (fltMinMax .f32 true ((credFold .max (a :: recs)).getD e 0) (b.getD e 0)).1) ∧
  (∀ (a : List Nat) (recs : List (List Nat)) (b : List Nat),
    let m (l : List (List Nat)) : Nat := (credFold .smx l).getD 0 0
    let nan (w : Nat) : Bool := (FFmt.f32.read w).isNan
    m [a] = (canon .f32 (a.getD 0 0)).1 ∧
    m (a :: recs ++ [b]) = (if nan (m (a :: recs)) ∨ nan (b.getD 0 0) then 0x7FC00000
      else (fltMinMax .f32 true (m (a :: recs)) (b.getD 0 0)).1) ∧
    ∀ e, 0 < e → e < a.length →
      let weight (w : Nat) : Nat := if w = 0xFF800000 then 0 else fex2Bits (fltSub .f32 .rn false w (m (a :: recs))).bits
      let term (r : List Nat) : Nat := (fltMul .f32 .rn false (r.getD e 0) (weight (r.getD 0 0))).bits
      (credFold .smx (a :: recs)).getD e 0 = (recs.map term).foldl (fun x y => (fltAdd .f32 .rn false x y).bits) (term a))

/-- While the device is not frozen: SWEEP_VISIT restores the row at the bank's position and moves the position to the next row
modulo 32768: a correctable error is corrected and counted (reported when the count meets CETHRESH; log entry 88), an
uncorrectable one poisons the row, every application pending on the row is made in its order, on a poisoned row counted for
its function instead (DEDUCED, log entry 57), and the functions that this completes complete (stated in full where the rows of
the completion words await nothing). An application runs the words before REND from zero w registers and set masks; each acts
on the fields of its view as stated here, leaves every other field and every block in skip as they were, and raises its
fields' flags; where RCVT's destination is its source, every field reads the source as it was (DESIGN CHOICE, log entry 83).
FLOOR_RAISE raises a cell's floor where the slice has fewer than 1024 free entries; ROW_REACH_BANK makes the function pending
on its rows of the bank and, with the last bank, is accepted. (14_row_functions.md (The sweep, scrubbing and poisoned rows);
08_memory_model.md (Sibling cells); 14_row_functions.md (Registrations and requests); 14_row_functions.md (Row programs);
22_device.md (Errors and background activity).) -/
def Obligations.RowSteps : Prop :=
  /- one application -/
  (∀ (words : List Word) (k0 k1 : Word) (row : List Byte),
    let first : RowRun := ⟨BitVec.ofNat 8192 (leNat row), List.replicate 4 0, List.replicate 4 (BitVec.allOnes 1024), 0, 0⟩
    let last := ((words.map BitVec.toNat).takeWhile fun w => w / 2 ^ 27 % 32 != 0x15).foldl (rowPerform k0 k1) first
    rowApply words k0 k1 row = ((List.range 1024).map fun i => BitVec.ofNat 8 (last.row.toNat / 2 ^ (8 * i)), last.fl)) ∧
  /- one operation -/
  (∀ (k0 k1 : Word) (x : RowRun) (w : Nat), x.w.length = 4 → x.m.length = 4 → w < 2 ^ 32 → rowWordReason w = none →
    w / 2 ^ 27 ≠ 0x15 →
    let op := w / 2 ^ 27
    let fmt := w / 2 ^ 24 % 8
    let msel := w / 2 ^ 16 % 4
    let dw := w / 2 ^ 14 % 4
    let aw := w / 2 ^ 12 % 4
    let sub := w % 16
    let size : Nat → Nat := fun fmt => [4, 2, 2, 4, 2, 1].getD fmt 4
    let bytes : Nat := size fmt
    let width : Nat := 8 * bytes
    let field (r : BitVec 8192) (n f : Nat) : Nat := r.toNat / 2 ^ (8 * n * f) % 2 ^ (8 * n)
    let reg (n : Nat) : BitVec 8192 := x.w.getD n 0
    let mask (n b : Nat) : Bool := (x.m.getD n 0).getLsbD b
    let skipped (byte : Nat) : Bool := x.skip.getLsbD (byte / 64)
    let acted (f : Nat) : Bool := f % 2 ^ (w / 2 ^ 22 % 4) == w / 2 ^ 19 % 8 && !skipped (f * bytes) &&
      (w / 2 ^ 18 % 2 == 0 || mask msel (f * bytes))
    let operand (k n f : Nat) : Nat :=
      if k = 0 then field (reg n) bytes f else (if k = 1 then k0.toNat else k1.toNat) % 2 ^ width
    let A : Nat → Nat := field (reg aw) bytes
    let B : Nat → Nat := operand (w / 2 ^ 6 % 4) (w / 2 ^ 10 % 4)
    let C : Nat → Nat := operand (w / 2 ^ 4 % 4) (w / 2 ^ 8 % 4)
    let signed (n : Nat) : Int := if 2 ^ (width - 1) ≤ n then (n : Int) - 2 ^ width else n
    let wrapped (i : Int) : Nat := (i % 2 ^ width).toNat
    let format : Option FFmt := match fmt with | 0 => some .f32 | 1 => some .f16 | 2 => some .b16 | _ => none
    let mode : RMode := match sub % 4 with | 1 => .rz | 2 => .rd | 3 => .ru | _ => .rn
    let sig (l : List FVal) : Flags := if l.any FVal.isSig then fIO else 0
    let least (F : FFmt) (up : Bool) (a b : Nat) : Nat × Flags :=
      let y := F.read a
      let z := F.read b
      (if y.isNan && z.isNan then F.nanBits else if y.isNan then b else if z.isNan then a
        else if (if up then y.below z else z.below y) then b else a, sig [y, z])
    let both (p q : Nat → Nat × Flags) (a : Nat) : Nat × Flags := ((q (p a).1).1, (p a).2 ||| (q (p a).1).2)
    let logical (f : Nat) : Nat := if B f < width then A f / 2 ^ B f else 0
    let arithmetic (f : Nat) : Nat := wrapped (signed (A f) / 2 ^ min (B f) width)
    let value (f : Nat) : Nat × Flags :=
      if op = 0x01 then (field x.row bytes f, 0) else if op = 0x02 then (A f, 0)
      else if op = 0x0D then (if mask msel (f * bytes) then A f else B f, 0)
      else match format with
        | some F =>
          let res (r : RRes) : Nat × Flags := (r.bits, r.fl)
          if op = 0x03 then res (fltAdd F mode false (A f) (B f)) else if op = 0x04 then res (fltSub F mode false (A f) (B f))
          else if op = 0x05 then res (fltMul F mode false (A f) (B f))
          else if op = 0x06 then res (fltFma F mode false (A f) (B f) (C f))
          else if op = 0x07 then least F false (A f) (B f) else if op = 0x08 then least F true (A f) (B f)
          else if op = 0x09 then (if (F.read (A f)).isNan then F.nanBits else A f % 2 ^ (width - 1), sig [F.read (A f)])
          else if op = 0x0A then both (fun a => least F true a (B f)) (fun a => least F false a (C f)) (A f)
          else /- RSCALE -/ match F.read (A f) with
            | .nan g => (F.nanBits, if g then fIO else 0)
            | .inf _ => (A f, 0)
            | .fin q => if q.n = 0 then (A f, 0) else
              let e := (BitVec.ofNat 8 (B f)).toInt
              res ((NFmt.flt F).round mode false (.fin ⟨q.neg, q.n * 2 ^ e.toNat, q.d * 2 ^ (-e).toNat⟩))
        | none =>
          let lower (a b : Nat) : Nat := if signed b < signed a then b else a
          let upper (a b : Nat) : Nat := if signed a < signed b then b else a
          (if op = 0x03 then (A f + B f) % 2 ^ width else if op = 0x04 then wrapped (Int.ofNat (A f) - Int.ofNat (B f))
           else if op = 0x05 then A f * B f % 2 ^ width else if op = 0x06 then (A f * B f + C f) % 2 ^ width
           else if op = 0x07 then lower (A f) (B f) else if op = 0x08 then upper (A f) (B f)
           else if op = 0x09 then wrapped (if signed (A f) < 0 then -signed (A f) else signed (A f))
           else if op = 0x0A then lower (upper (A f) (B f)) (C f)
           else if op = 0x0E then A f &&& B f else if op = 0x0F then A f ||| B f else if op = 0x10 then A f ^^^ B f
           else if op = 0x11 then (if B f < width then A f * 2 ^ B f % 2 ^ width else 0)
           else /- RSHR -/ if sub = 1 then logical f else arithmetic f, 0)
    let count := 1024 / bytes
    let flags (g : Nat → Bool) (h : Nat → Flags) : Flags := ((List.range count).filter g).foldl (fun l f => l ||| h f) x.fl
    let y := rowPerform k0 k1 x w
    if op = 0x00 then y = x
    else if op = 0x14 then y = { x with skip := y.skip } ∧
      ∀ b, b < 16 → y.skip.getLsbD b = (x.skip.getLsbD b || decide ((reg aw).toNat / 2 ^ (512 * b) % 2 ^ 512 = 0))
    else if op ∈ [0x0E, 0x0F, 0x10] ∧ sub = 1 then
      y = { x with m := x.m.set dw (y.m.getD dw 0) } ∧ ∀ b, b < 1024 → (y.m.getD dw 0).getLsbD b =
        if skipped b then mask dw b else
          let p := mask aw b
          let q := mask (w / 2 ^ 10 % 4) b
          if op = 0x0E then p && q else if op = 0x0F then p || q else p != q
    else if op = 0x0C then
      let val (n : Nat) : FVal := match format with
        | some F => F.read n | none => .fin ⟨decide (signed n < 0), (signed n).natAbs, 1⟩
      let holds (f : Nat) : Bool :=
        let p := val (A f)
        let q := val (B f)
        if p.isNan || q.isNan then sub == 1 else
          match sub with
          | 0 => p.same q
          | 1 => !p.same q
          | 2 => p.less q
          | 3 => p.less q || p.same q
          | 4 => q.less p
          | _ => q.less p || p.same q
      y = { x with m := x.m.set dw (y.m.getD dw 0), fl := flags acted fun f => sig [val (A f), val (B f)] } ∧
      ∀ b, b < 1024 → (y.m.getD dw 0).getLsbD b = if acted (b / bytes) then holds (b / bytes) else mask dw b
    else if op = 0x13 then
      let n := size (sub % 8)
      let df : NFmt := match sub % 8 with
        | 0 => .flt .f32 | 1 => .flt .f16 | 2 => .flt .b16 | 3 => .int true 32 | 4 => .int true 16 | _ => .int true 8
      let sf : NFmt := match format with | some F => .flt F | none => .int true width
      let r (f : Nat) : RRes := convert df sf (if sub / 8 = 1 then .rz else .rn) false (A f)
      let done (f : Nat) : Bool := acted f && decide (f < 1024 / n) && !skipped (f * n)
      y = { x with w := x.w.set dw (y.w.getD dw 0), fl := flags done fun f => (r f).fl } ∧
      ∀ f, f < 1024 / n → field (y.w.getD dw 0) n f = if f < count ∧ done f then (r f).bits else field (reg dw) n f
    else if op = 0x02 then
      y = { x with row := y.row } ∧ ∀ f, f < count → field y.row bytes f = if acted f then A f else field x.row bytes f
    else
      y = { x with w := x.w.set dw (y.w.getD dw 0), fl := flags acted fun f => (value f).2 } ∧
      ∀ f, f < count → field (y.w.getD dw 0) bytes f = if acted f then (value f).1 else field (reg dw) bytes f) ∧
  ∀ s : State, s.frozen = false →
    (∀ bank, let k := if s.build.small then 2 else 3
      bank < 2 ^ (11 + k) →
      let pos := ((s.sweep.find? fun p => p.1 == bank).map Prod.snd).getD 0
      let row := pos * 2 ^ (11 + k) + bank
      let stack := bank / 2 ^ 5 % 2 ^ k
      let now := (pos + 1) % 32768
      (∃ u, exec (.sweepVisit bank) s = .next u ∧ ((u.sweep.find? fun p => p.1 == bank).map Prod.snd).getD 0 = now ∧
        ∀ a ∈ u.rowApps, a.1 ≠ row) ∧
      (s.wordsQuiet →
        /- the row's ECC -/
        let n := ((s.corrected.find? fun p => p.1 == row).map Prod.snd).getD 0 + 1
        let c := s.countStack stack 2 none 1
        let c := if row ∈ s.softErrs then
            let v := { c with
              softErrs := c.softErrs.filter (· != row)
              corrected := (row, n) :: c.corrected.filter fun p => p.1 != row }.countStack stack 4 none 1
            if n = s.mgmt.cethresh.toNat then v.logError none 1 (row * 1024) else v
          else c
        let c := if row ∈ s.hardErrs then
            let v := { c with hardErrs := c.hardErrs.filter (· != row) }
            if row ∈ s.poisoned then v
            else ({ v with poisoned := row :: v.poisoned }.countStack stack 5 none 1).logError none 2 (row * 1024)
          else c
        /- the pending applications, in their order -/
        let gone := decide (row ∈ c.poisoned)
        let apply (v : State) (h : Nat) : State := match v.rowFns.find? fun f => f.handle == h with
          | none => v
          | some f =>
            let r := rowApply f.words f.k0 f.k1 (cRead v.mem (row * 1024) 1024)
            let fns (g : RowFn → RowFn) : List RowFn := v.rowFns.map fun x => if x.handle = h then g x else x
            if gone then { v with rowFns := fns fun x => { x with rows := x.rows.filter (· != row), poisoned := x.poisoned + 1 } }
            else { v with
              mem := cWrite v.mem (row * 1024) r.1
              rowFns := fns fun x => { x with rows := x.rows.filter (· != row), flags := x.flags ||| r.2 } }.countStack
                stack 3 (some f.asid) 1
        let apps := (s.rowApps.filter fun a => a.1 == row).map Prod.snd
        let c := if apps = [] then c else
          (apps.foldl apply ({ c with rowApps := c.rowApps.filter fun a => a.1 != row }.ceaseCells (row * 1024) 1024)).rowsCompleted
        exec (.sweepVisit bank) s = .next { c with
          sweep := (if now = 0 then [] else [(bank, now)]) ++ s.sweep.filter fun p => p.1 != bank })) ∧
    (∀ pa floor x, s.cells.find? (fun (x : SibCell) => x.pa == pa) = some x → 7168 < s.sliceUsed pa + (x.sibs.length - 1) →
      x.floor ≤ floor → floor ≤ x.stamp →
      exec (.floorRaise pa floor) s =
        .next { s with cells := s.cells.map fun (y : SibCell) => if y.pa = pa then { y with floor } else y }) ∧
    (∀ fn bank f, s.rowFns.find? (fun (f : RowFn) => f.handle == fn && f.banks.contains bank) = some f →
      let u := { s with
        rowFns := s.rowFns.map fun (g : RowFn) => if g.handle = fn then { g with banks := f.banks.filter (· != bank) } else g
        rowApps := s.rowApps ++ ((f.rows.filter fun r => s.bankOf r == bank).map fun r => (r, fn)) }
      ((∃ b ∈ f.banks, b ≠ bank) → exec (.rowReachBank fn bank) s = .next u) ∧
      ((∀ b ∈ f.banks, b = bank) → exec (.rowReachBank fn bank) s = .next (u.rowAccepted f)))

/-- While the device is not frozen: a handler group starts in the lowest place that fits for the first waiting trap of its
core; a launch that no quota can ever start raises QUOTA, which stops a job without a handler; a stopping job whose launches
and groups have ended writes its stop record; a waiting access takes a freed fault-buffer entry; JREPLAY replays the job's
parked accesses. When QUOTA is raised, and what its record holds, is log entry 36; what the accesses of these steps count is
log entry 70 (DESIGN CHOICE). (20_scheduling_faults.md (Faults and traps).) -/
def Obligations.FaultSteps : Prop :=
  ∀ s : State, s.frozen = false →
    (∀ asid core j t r k n, s.job asid = some j → j.handler = some r → j.active = true → s.reserveFree asid core = true →
      s.traps.find? (fun t => t.asid == asid && t.core == core && t.slot.isSome && t.handler.isNone) = some t →
      t.slot = some k → (List.range 9).find? (fun n => s.placeOk asid r.take r.dict? true ⟨core, 64 * n⟩) = some n →
      exec (.handlerGroupStart asid core) s = .next (State.startHandler
        { s with traps := s.traps.map fun (x : Trap) => if x.id = t.id then { x with handler := some s.groups.length } else x }
        r asid ⟨core, 64 * n⟩ t.id (j.desc.traps + BitVec.ofNat 64 (1024 * core + 64 * k)))) ∧
    (∀ asid lid core j l gid, s.job asid = some j → s.launch? asid lid = some l → s.stuckGroup l = some gid →
      j.active = true → (∀ g ∈ s.groups, g.asid = asid → g.handler = none → g.resident = false) →
      (∀ t ∈ s.traps, t.asid = asid → t.ended = false → t.tr.info.code = .quota → t.tr.launch ≠ BitVec.ofNat 32 l.id) →
      l.cancelled = false → l.status = none →
      (j.handler = none → exec (.quotaTrap asid lid core) s = .next
        ((s.setJob asid fun j => { j with seq := j.seq + 1 }).jobStop asid .nohandler (quotaRec j l gid).bytes)) ∧
      (j.handler.isSome = true → s.coreOn core = true → (s.freeSlot asid core).isSome = true → s.reserveFree asid core = true →
        exec (.quotaTrap asid lid core) s = .next (State.writeTrap
          { s.setJob asid fun j => { j with seq := j.seq + 1 } with
            nextSerial := s.nextSerial + 1
            traps := s.traps ++ [Trap.mk s.nextSerial asid (quotaRec j l gid) core none none gid none false] } s.nextSerial))) ∧
    (∀ asid j kind cause, s.job asid = some j → j.stopping = some (kind, cause) → j.stopped = false →
      (∀ l ∈ s.launches, l.asid = asid → l.status.isSome = true) → (∀ g ∈ s.groups, g.asid = asid → g.status = .done) →
      exec (.stopRecordWrite asid) s = .next (((s.homeWrite (some asid) j.desc.stop
        (cause ++ leBytes 4 (2 ^ 31 + kind.code) ++ List.replicate 60 0)).setJob asid fun j => { j with stopped := true }).sendMsix 65 (some asid))) ∧
    (∀ asid j p, s.job asid = some j → s.parked.find? (fun p => p.asid == asid && p.entry.isNone && p.resp.isNone) = some p →
      (∃ k, k < j.desc.fbcap ∧ bit (s.fbCtl j k) 7 = false) →
      exec (.faultBufferEntryFree asid) s = .next (State.enterFault { s with parked := s.parked.erase p } p)) ∧
    (∀ asid : BitVec 12, exec (.jreplay asid) s =
      .next (State.replay { (s.countHub 6 none (Config.flitsOf 4)).countHub 7 none (Config.flitsOf 0) with
        mgmt := { s.mgmt with jreplay := asid.setWidth 32 } } asid.toNat))

/-- While the device is not frozen, 32-bit host writes to QBASE, QCTL, QWR, ELOG, PLIMIT, CETHRESH, DEVNUM, CARG, ACMD, the
halves of CMD and the MSI-X table have exactly the effect stated here: ignored while a queue is enabled but for clearing EN,
LOG2N stored as at most 16, an ELOG entry freed by its TYPE alone, PLIMIT and CETHRESH stored at the nearest allowed value,
ACMD ignored while a report is being made, the upper half of CMD starting the command that the register then holds, a masked
vector held pending until a write unmasks it (the table's layout is PRESUMED, log entry 71); a write's flits, and those of its
answer and of a message sent, are counted in the amounts of log entry 70 (DESIGN CHOICE). A read of the window, by a load from
an IO page or a command's reader, gives the registers stated here, 0 at reserved offsets, FEAT and CMAP 0 before RUN, and all
ones for a width or alignment other than 4 and 8 bytes at their own alignment. (22_device.md (Management window); 22_device.md
(Errors and background activity); 22_device.md (Boot, identity and attestation); 22_device.md (Power and cooling);
20_scheduling_faults.md (Launch queues); 22_device.md (Event counters).) -/
def Obligations.WindowWrites : Prop :=
  (∀ s : State, s.frozen = false →
    let b32 (off : Nat) (v : Word) : HostWrite := ⟨off, false, v.setWidth 64⟩
    /- the flits of the write and of its answer -/
    let port (n : Nat) : State := (s.countHub 6 none (Config.flitsOf n)).countHub 7 none (Config.flitsOf 0)
    let queue (k : Nat) (f : HubQueue → HubQueue) : State := { port 4 with queues := s.queues.modify k f }
    let mgmt (f : Mgmt → Mgmt) : State := { port 4 with mgmt := f s.mgmt }
    ((∀ k v, k < 64 → exec (.qbaseQctlWrite (b32 (0x1000 + 32 * k) v)) s = .next (queue k fun q =>
      if q.en then q else { q with base := pairOf v (hiWord q.base) &&& 0xFFFFFFFFFFFFFF80 })) ∧
    (∀ k v, k < 64 → exec (.qbaseQctlWrite (b32 (0x1008 + 32 * k) v)) s = .next (queue k fun q =>
      if q.en ∧ v.getLsbD 31 = true then q
      else { q with en := v.getLsbD 31, asid := v.extractLsb' 16 12, log2n := min (v.toNat % 32) 16 })) ∧
    (∀ k v, k < 64 → exec (.qwrWrite (b32 (0x100C + 32 * k) v)) s = .next (queue k fun q => { q with wr := v })) ∧
    (∀ k v, k < 64 → exec (.errorLogFree (b32 (0x9008 + 16 * k) v)) s = .next (if v.toNat % 256 = 0 then
      { port 4 with elog := s.elog.modify k fun e => { e with type := 0 } } else port 4)) ∧
    (∀ v, exec (.plimitWrite (b32 0xB00C v)) s = .next (mgmt fun m => { m with
      plimit := let tdp := if s.build.small then 1300 else 2400
        BitVec.ofNat 32 (max (tdp / 2) (min v.toNat tdp)) })) ∧
    (∀ v, exec (.cethreshWrite (b32 0xB008 v)) s =
      .next (mgmt fun m => { m with cethresh := BitVec.ofNat 32 (max 1 (min v.toNat 255)) })) ∧
    (∀ v, exec (.registerWrite (b32 0x8800 v)) s = .next (mgmt fun m => { m with devnum := v.extractLsb' 0 11 })) ∧
    (∀ v, exec (.registerWrite (b32 0x2008 v)) s = .next (mgmt fun m => { m with carg := pairOf v (hiWord m.carg) })) ∧
    (∀ v, exec (.registerWrite (b32 0x200C v)) s = .next (mgmt fun m => { m with carg := pairOf (loWord m.carg) v })) ∧
    (s.mgmt.astat ≠ 1 → exec (.attestationRequest (b32 0xA020 1)) s = .next (mgmt fun m => { m with
      acmd := 1, astat := if s.nvIndex < 2 ^ 20 then 1 else 3 })) ∧
    (s.mgmt.astat ≠ 1 → ∀ v, v ≠ 1 → exec (.attestationRequest (b32 0xA020 v)) s = .next (mgmt fun m => { m with acmd := v })) ∧
    (s.mgmt.astat = 1 → ∀ v, exec (.attestationRequest (b32 0xA020 v)) s = .next (port 4))) ∧
    /- CMD by halves: ARG, then the command -/
    ((∀ v, exec (.registerWrite (b32 0x2000 v)) s = .next (mgmt fun m => { m with cmd := pairOf v (hiWord m.cmd) })) ∧
    (∀ v, let arg := loWord s.mgmt.cmd
      let asid := v.extractLsb' 0 12
      let holding (n : Nat) : State :=
        { port n with mgmt := { s.mgmt with cmd := pairOf (loWord s.mgmt.cmd) (v &&& 0xFF000FFF) } }
      let starts (i : Instr) : Prop := exec i s = .next (holding 8).runCommand
      exec (.registerWrite (b32 0x2004 v)) s = .next (holding 4).runCommand ∧ match v.toNat / 2 ^ 24 with
      | 1 => asid = 0 → starts (.bind arg)
      | 2 => starts (.unbind asid arg)
      | 3 => starts (.preempt asid arg)
      | 4 => starts (.resume asid arg)
      | 5 => starts (.canceljob asid arg)
      | 6 => starts (.setquota asid arg)
      | 7 => starts (.tlbinv asid arg)
      | 8 => asid = 0 → starts (.fencelink arg)
      | 9 => asid = 0 → starts (.unfencelink arg)
      | 10 => asid = 0 → starts (.freeze arg)
      | 11 => asid = 0 → starts (.clearlog arg)
      | op => starts (.badop (BitVec.ofNat 8 op) asid arg))) ∧
    /- the MSI-X table -/
    (∀ k v, k < 288 →
      let t := cWrite s.mgmt.msixTable (4 * k) (leBytes 4 (if k % 4 = 3 then v.toNat % 2 else v.toNat))
      let u := mgmt fun m => { m with msixTable := t }
      exec (.registerWrite (b32 (0x10000 + 4 * k) v)) s = .next (
        if (cGet t (16 * (k / 4) + 12)).getLsbD 0 = false ∧ s.mgmt.msixPend.getLsbD (k / 4) = true then
          { u.countHub 7 none (Config.flitsOf 4) with
            msix := k / 4 :: s.msix, mgmt := { u.mgmt with msixPend := s.mgmt.msixPend &&& ~~~(BitVec.ofNat 72 (2 ^ (k / 4))) } }
        else u))) ∧
  (∀ (s : State) vec asid, ((cGet s.mgmt.msixTable (16 * vec + 12)).getLsbD 0 = false →
      s.sendMsix vec asid = { s.countHub 7 asid (Config.flitsOf 4) with msix := vec :: s.msix }) ∧
    ((cGet s.mgmt.msixTable (16 * vec + 12)).getLsbD 0 = true → s.sendMsix vec asid = { s with
      mgmt := { s.mgmt with msixPend := s.mgmt.msixPend ||| BitVec.ofNat 72 (2 ^ vec) } })) ∧
  /- reads -/
  (∀ s : State,
    let rd (off : Nat) (w : Word) : Prop := s.bar0Read off 4 = leBytes 4 w.toNat
    (∀ off n, ¬ (n = 4 ∧ off % 4 = 0) → ¬ (n = 8 ∧ off % 8 = 0) → s.bar0Read off n = List.replicate n 0xFF) ∧
    (∀ off, off % 8 = 0 → s.bar0Read off 8 = s.bar0Read off 4 ++ s.bar0Read (off + 4) 4) ∧
    (∀ k, k < 4 → rd (4 * k) (if s.mgmt.boot = 1 then s.feat k else 0)) ∧
    (∀ k, k < 6 → rd (0x10 + 4 * k) (if s.mgmt.boot = 1 then s.cmap k else 0)) ∧
    rd 0x28 (s.mgmt.boot.setWidth 32) ∧
    (s.mgmt.periods ≠ [] → ∃ p ∈ s.mgmt.periods, rd 0x2C p ∧ ∀ x ∈ s.mgmt.periods, x.toNat ≤ p.toNat) ∧
    (∀ k, k < 8 → rd (0x40 + 4 * k) (s.mgmt.periods.getD k 0)) ∧
    (∀ (k : Nat) q, k < 64 → s.queues[k]? = some q → rd (0x1000 + 32 * k) (loWord q.base) ∧ rd (0x1004 + 32 * k) (hiWord q.base) ∧
      rd (0x1008 + 32 * k) (BitVec.ofNat 32 ((if q.en then 2 ^ 31 else 0) + q.asid.toNat * 2 ^ 16 + q.log2n)) ∧
      rd (0x100C + 32 * k) q.wr ∧ rd (0x1010 + 32 * k) q.rd ∧ rd (0x1014 + 32 * k) q.comp ∧
      rd (0x1018 + 32 * k) 0 ∧ rd (0x101C + 32 * k) 0) ∧
    (rd 0x2000 (loWord s.mgmt.cmd) ∧ rd 0x2004 (hiWord s.mgmt.cmd) ∧ rd 0x2008 (loWord s.mgmt.carg) ∧
      rd 0x200C (hiWord s.mgmt.carg) ∧ rd 0x2010 s.mgmt.cstat ∧ rd 0x2018 s.mgmt.jreplay ∧
      rd 0x8800 (s.mgmt.devnum.setWidth 32)) ∧
    (∀ (k : Nat) e, k < 64 → s.elog[k]? = some e → rd (0x9000 + 16 * k) (loWord e.addr) ∧ rd (0x9004 + 16 * k) (hiWord e.addr) ∧
      rd (0x9008 + 16 * k) (BitVec.ofNat 32 e.type) ∧ rd (0x900C + 16 * k) 0) ∧
    (rd 0x9400 s.errovf ∧ rd 0xA020 s.mgmt.acmd ∧ rd 0xA024 s.mgmt.astat ∧ rd 0xA028 (BitVec.ofNat 32 (2 ^ 20 - s.nvIndex)) ∧
      rd 0xB000 s.mgmt.skew ∧ rd 0xB004 s.mgmt.awin ∧ rd 0xB008 s.mgmt.cethresh ∧ rd 0xB00C s.mgmt.plimit ∧
      rd 0xB010 s.mgmt.temp ∧ rd 0xB014 s.mgmt.power) ∧
    (∀ k, k < 475 → rd (0xA100 + 4 * k) (BitVec.ofNat 32 (leNat ((s.mgmt.report.drop (4 * k)).take 4)))) ∧
    (∀ k, k < 288 → rd (0x10000 + 4 * k) (BitVec.ofNat 32 (leNat (cRead s.mgmt.msixTable (4 * k) 4)))) ∧
    (∀ off, off % 4 = 0 → (0x30 ≤ off ∧ off < 0x40 ∨ 0x60 ≤ off ∧ off < 0x1000 ∨ 0x1800 ≤ off ∧ off < 0x2000 ∨ off = 0x2014 ∨
      0x201C ≤ off ∧ off < 0x8000 ∨ 0x8804 ≤ off ∧ off < 0x9000 ∨ 0x9404 ≤ off ∧ off < 0xA000 ∨ 0xA02C ≤ off ∧ off < 0xA100 ∨
      0xA86C ≤ off ∧ off < 0xB000 ∨ 0xB018 ≤ off ∧ off < 0xC000 ∨ 0xC008 ≤ off ∧ off < 0x10000 ∨
      0x10490 ≤ off ∧ off < 0x20000) → rd off 0))

/-- In state RUN each command ends with the status stated here and its MSI-X vector: BIND copies a good descriptor with the
handler record that it names and refuses a bad one, a bound ASID or a bad record (in this order: log entry 29); commands that
name no bound job end with NOJOB; UNBIND, PREEMPT, RESUME, CANCELJOB, SETQUOTA and TLBINV by job and by address (what these
two check is log entry 42), FENCELINK, UNFENCELINK, FREEZE, CLEARLOG and unassigned commands act as stated; what their
accesses and messages count is log entry 70 (DESIGN CHOICE). A descriptor's fields are those of its table, and it is good
exactly where each keeps its values and its areas lie in device memory. (22_device.md (Management window);
20_scheduling_faults.md (Jobs); 20_scheduling_faults.md (Translation); 20_scheduling_faults.md (Pre-emption).) -/
def Obligations.Commands : Prop :=
  (∀ s : State, s.frozen = false → s.mgmt.boot = 1 →
     let made (op asid : Nat) (arg : Word) : State :=
       { (s.countHub 6 none (Config.flitsOf 8)).countHub 7 none (Config.flitsOf 0) with
         mgmt := { s.mgmt with cmd := BitVec.ofNat 64 (op * 2 ^ 56 + asid * 2 ^ 32 + arg.toNat) } }
     let ends (u : State) (st : Word) : State := State.sendMsix { u with mgmt := { u.mgmt with cstat := st } } 67 none
     (∀ arg, exec (.bind arg) s = .next (made 1 0 arg).cmdBind) ∧
     (∀ (asid : BitVec 12) arg, s.job asid.toNat = none →
       exec (.unbind asid arg) s = .next (ends (made 2 asid.toNat arg) 4) ∧
       exec (.preempt asid arg) s = .next (ends (made 3 asid.toNat arg) 4) ∧
       exec (.resume asid arg) s = .next (ends (made 4 asid.toNat arg) 4) ∧
       exec (.canceljob asid arg) s = .next (ends (made 5 asid.toNat arg) 4) ∧
       exec (.setquota asid arg) s = .next (ends (made 6 asid.toNat arg) 4) ∧
       exec (.tlbinv asid arg) s = .next (ends (made 7 asid.toNat arg) 4)) ∧
     (∀ (asid : BitVec 12) arg j, s.job asid.toNat = some j →
       (j.stopped = false → exec (.unbind asid arg) s = .next (ends (made 2 asid.toNat arg) 7)) ∧
       (j.stopped = true → exec (.unbind asid arg) s = .next (let u := made 2 asid.toNat arg
         ends { u with
           jobs := u.jobs.filter fun k => k.desc.asid != asid.toNat
           launches := u.launches.filter fun l => l.asid != asid.toNat
           insts := u.insts.filter fun i => i.asid != asid.toNat
           rowFns := u.rowFns.filter fun f => f.asid != asid.toNat
           traps := u.traps.filter fun t => t.asid != asid.toNat
           parked := u.parked.filter fun p => p.asid != asid.toNat } 0)) ∧
       (j.suspended = false → j.stopping = none → j.pre = none → exec (.preempt asid arg) s = .next (ends
         ((made 3 asid.toNat arg).setJob asid.toNat fun k => { k with pre := some (k.pre.getD s.hubClock) }) 0)) ∧
       (j.suspended = true ∨ j.stopping.isSome = true → exec (.preempt asid arg) s = .next (ends (made 3 asid.toNat arg) 7)) ∧
       (j.suspended = true → exec (.resume asid arg) s = .next (ends
         ((made 4 asid.toNat arg).setJob asid.toNat fun k => { k with suspended := false }) 0)) ∧
       (j.suspended = false → exec (.resume asid arg) s = .next (ends (made 4 asid.toNat arg) 7)) ∧
       (exec (.canceljob asid arg) s = .next (ends
         ((made 5 asid.toNat arg).jobStop asid.toNat .cancel (List.replicate 64 0)) 0)) ∧
       (s.mgmt.carg.toNat % 128 ≠ 0 ∨ s.memSize < s.mgmt.carg.toNat + 128 →
         exec (.setquota asid arg) s = .next (ends (made 6 asid.toNat arg) 2)) ∧
       (s.mgmt.carg.toNat % 128 = 0 → s.mgmt.carg.toNat + 128 ≤ s.memSize →
         let r := (made 6 asid.toNat arg).homeRead none s.mgmt.carg.toNat 128
         let d := (JobDesc.ofBytes r.2).1
         (d.quotaOk = false → exec (.setquota asid arg) s = .next (ends r.1 2)) ∧
         (d.quotaOk = true → exec (.setquota asid arg) s = .next (ends (r.1.setJob asid.toNat fun k => { k with
           desc := { k.desc with qslots := d.qslots, qreg := d.qreg, qscr := d.qscr, qacc := d.qacc, weight := d.weight } }) 0))) ∧
       (exec (.tlbinv asid 0) s = .next (ends { made 7 asid.toNat 0 with
         tlb := s.tlb.filter fun t => t.asid != asid.toNat } 0)) ∧
       (let a := s.mgmt.carg.toNat
        exec (.tlbinv asid 1) s = .next (ends { made 7 asid.toNat 1 with tlb := s.tlb.filter fun t => !(t.asid == asid.toNat &&
           canonical a && decide (t.va ≤ a % 2 ^ 57) && decide (a % 2 ^ 57 < t.va + t.size)) } 0)) ∧
       (2 ≤ arg.toNat → exec (.tlbinv asid arg) s = .next (ends (made 7 asid.toNat arg) 2))) ∧
     (∀ arg : Word, (arg.toNat < s.numLinks →
         exec (.fencelink arg) s = .next (ends { made 8 0 arg with
           links := s.links.modify arg.toNat fun l => { l with fenced := true } } 0) ∧
         exec (.unfencelink arg) s = .next (ends { made 9 0 arg with
           links := s.links.modify arg.toNat fun l => { l with fenced := false } } 0)) ∧
       (s.numLinks ≤ arg.toNat → exec (.fencelink arg) s = .next (ends (made 8 0 arg) 2) ∧
         exec (.unfencelink arg) s = .next (ends (made 9 0 arg) 2))) ∧
     (∀ arg, exec (.freeze arg) s = .next { ends (made 10 0 arg) 0 with frozen := true }) ∧
     (∀ arg, exec (.clearlog arg) s = .next { ends (made 11 0 arg) 0 with elog := List.replicate 64 ⟨0, 0⟩, errovf := 0 }) ∧
     (∀ (op : BitVec 8) asid arg, (op = 0 ∨ 0x0B < op.toNat) →
       exec (.badop op asid arg) s = .next (ends (made op.toNat asid.toNat arg) 6))) ∧
  (∀ (s : State), let a := s.mgmt.carg.toNat
     let ends (u : State) (st : Word) : State := State.sendMsix { u with mgmt := { u.mgmt with cstat := st } } 67 none
     let r := s.homeRead none a 128
     let d := (JobDesc.ofBytes r.2).1
     ((a % 128 ≠ 0 ∨ s.memSize < a + 128) → s.cmdBind = ends s 2) ∧
     (a % 128 = 0 → a + 128 ≤ s.memSize →
       ((JobDesc.ofBytes r.2).2 = false ∨ d.ok s.memSize = false → s.cmdBind = ends r.1 2) ∧
       ((JobDesc.ofBytes r.2).2 = true → d.ok s.memSize = true →
         (∀ j, r.1.job d.asid = some j → s.cmdBind = ends r.1 3) ∧
         (r.1.job d.asid = none → ∀ v h, r.1.bindHandler d = (v, h) → s.cmdBind = match h with
           | none => ends v 5
           | some x => ends { v with
             tlb := v.tlb.filter fun t => t.asid != d.asid
             jobs := v.jobs ++ [⟨d, x, none, false, false, none, false, 1, 1, 0⟩] } 0)))) ∧
  /- the handler record of a job -/
  (∀ (s : State) (d : JobDesc),
     let va := d.hrec.toNat % 2 ^ 57
     (d.hrec = 0 → s.bindHandler d = (s, some none)) ∧
     (d.hrec ≠ 0 → canonical d.hrec.toNat = false ∨ (∀ t, s.walkFrom d.asid va 4 d.ptroot ≠ .leaf t) → s.bindHandler d = (s, none)) ∧
     (∀ t, d.hrec ≠ 0 → canonical d.hrec.toNat = true → s.walkFrom d.asid va 4 d.ptroot = .leaf t →
       (t.pte.toNat.testBit 2 = false ∨ pteType t.pte.toNat ≠ some .normal → s.bindHandler d = (s, none)) ∧
       (t.pte.toNat.testBit 2 = true → pteType t.pte.toNat = some .normal →
         let r := s.homeRead (some d.asid) (t.pa + (va - t.va)) 128
         (∀ why, r.1.recordReason d.asid (LaunchRec.ofBytes r.2) true = some why → s.bindHandler d = (r.1, none)) ∧
         (r.1.recordReason d.asid (LaunchRec.ofBytes r.2) true = none →
           s.bindHandler d = (r.1, some (some (LaunchRec.ofBytes r.2))))))) ∧
  /- a job descriptor's fields and the values they may hold, in a device of `mem` bytes -/
  (∀ (bs : List Byte) (mem : Nat), bs.length = 128 →
     let num (at_ n : Nat) : Nat := leNat ((bs.drop at_).take n)
     let d := (JobDesc.ofBytes bs).1
     (d.ptroot, d.fbuf, d.tape, d.swap, d.swaplen, d.stop) = (num 0 8, num 8 8, num 16 8, num 40 8, num 48 8, num 56 8) ∧
     d.traps = BitVec.ofNat 64 (num 24 8) ∧ d.hrec = BitVec.ofNat 64 (num 32 8) ∧
     (d.fbcap, d.tapecap, d.dl1, d.dl2, d.qscr) = (num 64 4, num 68 4, num 72 4, num 76 4, num 80 4) ∧
     (d.qreg, d.qacc, d.qslots, d.weight, d.hprio, d.asid) = (num 84 2, num 86 2, num 88 1, num 89 1, num 90 1, num 92 2) ∧
     ((JobDesc.ofBytes bs).2 = true ↔ num 91 1 = 0 ∧ num 94 34 = 0) ∧
     let quotas : Prop := 1 ≤ num 89 1 ∧ num 88 1 ≤ 31 ∧ num 86 2 ≤ 512 ∧ num 86 2 % 64 = 0 ∧ num 84 2 ≤ 512 ∧ num 80 4 ≤ 393216
     (d.quotaOk = true ↔ quotas) ∧
     (d.ok mem = true ↔ quotas ∧ num 90 1 ≤ 7 ∧ num 92 2 ≤ 4095 ∧ 1 ≤ num 64 4 ∧ num 64 4 ≤ 65536 ∧ num 68 4 ≤ 65536 ∧
       num 0 8 % 4096 = 0 ∧ num 8 8 % 32 = 0 ∧ num 16 8 % 128 = 0 ∧ num 24 8 % 1024 = 0 ∧ num 32 8 % 128 = 0 ∧
       num 40 8 % 4096 = 0 ∧ num 48 8 % 4096 = 0 ∧ num 56 8 % 128 = 0 ∧ num 0 8 + 4096 ≤ mem ∧
       num 8 8 + 32 * num 64 4 ≤ mem ∧ num 16 8 + 128 * num 68 4 ≤ mem ∧ num 40 8 + num 48 8 ≤ mem ∧ num 56 8 + 128 ≤ mem))

/-- Before RUN a host read returns all ones and a host write does nothing; in RUN, with no row function, sibling state or row
error pending, a read returns memory's bytes, a write changes exactly its bytes, an atomic operation returns its location's
value and replaces it by the operation's result, and an access beyond device memory reads all ones, writes nothing and is
logged once (which address: log entry 66); one over a link that is up acts likewise, and behind a payload that waits it is
held back; a location that holds a sibling cell is refused. CXL.mem reaches the device only with CXLM (DEDUCED, log entry 86).
An access over a link that is down does nothing; a link going down is logged; retraining brings it up and is counted; a
payload joins its link's queue. The L2 accesses and flits that these steps count are log entry 70 (DESIGN CHOICE).
(22_device.md (Host port); 22_device.md (Umary links); 08_memory_model.md (Atomics and remote scratchpad); 08_memory_model.md
(Sibling cells); 22_device.md (Errors and background activity).) -/
def Obligations.PortAccesses : Prop :=
  ∀ s : State, s.frozen = false →
    /- an access of the host, or one that a link takes at once -/
    (∀ via : MemAccess → Instr,
      (via = (fun a => .hostMemoryAccess ⟨false, a⟩) ∨ (via = (fun a => .hostMemoryAccess ⟨true, a⟩) ∧ s.build.cxlm = true) ∨
        ∃ link l, s.links[link]? = some l ∧ l.down = false ∧ l.inq = [] ∧ via = .umaryIncomingAccess link) →
      (s.mgmt.boot ≠ 1 → ∀ pa n bs,
        exec (via (.read pa n)) s = .next { s with portOut := List.replicate n 0xFF } ∧ exec (via (.write pa bs)) s = .next s) ∧
      (s.mgmt.boot = 1 → s.quietMem →
        (∀ pa n, pa + n ≤ s.memSize → ∃ cs, exec (via (.read pa n)) s =
          .next { s with counters := cs, portOut := (List.range' pa n).map (cGet s.mem) }) ∧
        (∀ pa bs, pa + bs.length ≤ s.memSize → ∃ cs m, exec (via (.write pa bs)) s = .next { s with counters := cs, mem := m } ∧
          ∀ a, cGet m a = if pa ≤ a ∧ a < pa + bs.length then bs.getD (a - pa) 0 else cGet s.mem a) ∧
        (∀ pa n, s.memSize ≤ pa → 0 < n → ∃ cs, exec (via (.read pa n)) s =
          .next { (State.logError { s with counters := cs } none 3 pa) with portOut := List.replicate n 0xFF }) ∧
        (∀ pa bs, s.memSize ≤ pa → bs ≠ [] → ∃ cs, exec (via (.write pa bs)) s =
          .next (State.logError { s with counters := cs } none 3 pa)) ∧
        (∀ op w64 nsg k b cmp,
          let n := if w64 then 8 else 4
          let old := (List.range' (n * k) n).map (cGet s.mem)
          n * k + n ≤ s.memSize → ∃ cs m, exec (via (.atomic op w64 nsg k b cmp)) s =
            .next { s with counters := cs, mem := m, portOut := old } ∧
            ∀ a, cGet m a = match atomNew op w64 nsg (leNat old) b cmp with
              | some v => if n * k ≤ a ∧ a < n * k + n then (leBytes n v).getD (a - n * k) 0 else cGet s.mem a
              | none => cGet s.mem a)) ∧
      (s.mgmt.boot = 1 → ∀ loc, (∃ x ∈ s.cells, x.pa = 8 * loc) → 8 * loc + 8 ≤ s.memSize →
        (∃ cs, exec (via (.read (8 * loc) 8)) s = .next { s with counters := cs, portOut := List.replicate 8 0xFF }) ∧
        (∀ bs, bs.length = 8 → ∃ cs, exec (via (.write (8 * loc) bs)) s = .next { s with counters := cs }) ∧
        (∀ op nsg b cmp, ∃ cs, exec (via (.atomic op true nsg loc b cmp)) s =
          .next { s with counters := cs, portOut := List.replicate 8 0xFF }))) ∧
    (s.build.cxlm = false → ∀ a, exec (.hostMemoryAccess ⟨true, a⟩) s = .next s) ∧
    (∀ link l, s.links[link]? = some l →
      let change (f : Link → Link) : State := { s with links := s.links.modify link f }
      (l.down = true → ∀ a, exec (.umaryIncomingAccess link a) s = .next s) ∧
      (l.down = false → l.inq ≠ [] → ∀ a, exec (.umaryIncomingAccess link a) s =
        .next (change fun l => { l with inq := l.inq ++ [.access a] })) ∧
      (l.down = false → exec (.linkDown link) s = .next (State.logError (change fun l => { l with down := true }) none 5 link)) ∧
      exec (.linkRetraining link) s =
        .next (((change fun l => { l with down := false }).countHub 8 none (Config.flitsOf 0)).countHub 9 none 1) ∧
      (∀ p, l.down = false → s.mgmt.boot = 1 → exec (.collectivePayload link p) s =
        .next (State.consumeAll (change fun l => { l with inq := l.inq ++ [.payload p] }))))

/-- While the device is not frozen, COLLECTIVE_START reads the descriptor (one that cannot be read ends the operation
unreported: log entry 50), and COLLECTIVE_COMPUTE ends a collective with its recorded reason or, once a payload of every input
link is there, performs it: it reads its source, writes the reduction of every element to its destination, sends it on its
output links (log entry 52), and ends with its completion word. The element's reduction folds the inputs, read as F32, left to
right with rounded addition, or with the maximum (a single F32 input stays as it is, a NaN made canonical), and rounds the
result to the payload format, by stochastic rounding where RS asks. What stands first in a link's queue goes on when an
operation wants it; a payload that none wants holds back what is behind it. (22_device.md (Collective engine).) -/
def Obligations.Collectives : Prop :=
  (∀ s : State, s.frozen = false →
     (∀ grp va c, s.colls.find? (fun c => c.grp == grp && c.desc == some va && !c.waiting) = some c →
       exec (.collectiveStart grp va) s = .next (s.readColl c va).consumeAll) ∧
     (∀ id c reason, s.colls.find? (fun c => c.id == id) = some c → c.desc = none → c.waiting = false → c.err = some reason →
       c.cword.toNat % 8 = 0 → (∃ pa e, s.check c.asid c.cword.toNat .write isNormal = .ok pa .normal e) →
       exec (.collectiveCompute id) s = .next (s.endColl c reason).consumeAll) ∧
     (∀ id c, s.colls.find? (fun c => c.id == id) = some c → c.desc = none → c.waiting = false → c.err = none →
       (∀ l, l < 24 → c.inmask.getLsbD l = true → ∃ t ∈ c.taken, t.1 = l) →
       c.cword.toNat % 8 = 0 → (∃ pa e, s.check c.asid c.cword.toNat .write isNormal = .ok pa .normal e) →
       exec (.collectiveCompute id) s = .next (s.performColl c).consumeAll)) ∧
  /- the descriptor -/
  (∀ (s : State) (c : Coll) (va : Dword),
     let drop (u : State) : State := { u with colls := u.colls.filter fun x => x.id != c.id }
     let vas := (List.range 64).map fun k => (va.toNat + k) % 2 ^ 64
     (va.toNat % 64 ≠ 0 → s.readColl c va = drop s) ∧
     (∀ u a w, va.toNat % 64 = 0 → s.engRead none c.asid isNormal vas = (u, .error (.absent a w)) →
       s.readColl c va = u.parkColl c a w) ∧
     (∀ u r, va.toNat % 64 = 0 → s.engRead none c.asid isNormal vas = (u, .error (.fail r)) → s.readColl c va = drop u) ∧
     (∀ u bs, va.toNat % 64 = 0 → s.engRead none c.asid isNormal vas = (u, .ok bs) →
       let num (at_ n : Nat) : Nat := leNat ((bs.drop at_).take n)
       let eb := if num 42 1 = 4 then 2 else if num 42 1 = 5 then 4 else 1
       let bad : Prop := num 44 20 ≠ 0 ∨ 4 ≤ num 43 1 ∨ num 42 1 < 4 ∨ 7 < num 42 1 ∨ num 24 4 = 0 ∨ 2 ^ 24 < num 24 4 ∨
         num 16 8 % 8 ≠ 0 ∨ num 8 8 % eb ≠ 0 ∨ num 0 8 % eb ≠ 0 ∨ 2 ^ u.numLinks ≤ num 36 3 ∨ 2 ^ u.numLinks ≤ num 39 3 ∨
         num 0 8 = 0 ∧ num 36 3 = 0
       ∃ f : Coll → Coll, s.readColl c va = { u with colls := u.colls.map fun x => if x.id = c.id then f x else x } ∧
         ∀ x, (f x).src = BitVec.ofNat 64 (num 0 8) ∧ (f x).dest = BitVec.ofNat 64 (num 8 8) ∧
           (f x).cword = BitVec.ofNat 64 (num 16 8) ∧ (f x).count = num 24 4 ∧ (f x).tag = BitVec.ofNat 32 (num 28 4) ∧
           (f x).key = BitVec.ofNat 32 (num 32 4) ∧ (f x).inmask = BitVec.ofNat 24 (num 36 3) ∧
           (f x).outmask = BitVec.ofNat 24 (num 39 3) ∧ (f x).fmt = num 42 1 ∧ (f x).isMax = (num 43 1).testBit 0 ∧
           (f x).rs = (num 43 1).testBit 1 ∧ (f x).desc = none ∧ (bad → (f x).err = some 1) ∧ (¬ bad → (f x).err = x.err))) ∧
  /- performing it -/
  (∀ (s : State) (c : Coll),
     let eb := if c.fmt = 4 then 2 else if c.fmt = 5 then 4 else 1
     let vas (a : Dword) : List Nat := (List.range (eb * c.count)).map fun k => (a.toNat + k) % 2 ^ 64
     let hop := if c.inmask = 0 then 0 else 1 + (c.taken.map fun t => t.2.hop).foldl max 0
     let ins (e : Nat) : List Nat := ((List.range 24).filter fun l => c.inmask.getLsbD l).filterMap fun l =>
       (c.taken.find? fun t => t.1 == l).map fun t => (t.2.data.getD e 0).toNat
     let links := (List.range 24).filter fun l => c.outmask.getLsbD l
     (∀ u (own : Nat → List Nat), (c.src = 0 ∧ u = s ∧ (∀ e, own e = []) ∨ c.src ≠ 0 ∧ ∃ bs, s.engRead none c.asid collType (vas c.src) = (u, .ok bs) ∧
         ∀ e, own e = [leNat ((bs.drop (eb * e)).take eb)]) →
       let out := (List.range c.count).map fun e => collElem c hop e (own e ++ ins e)
       let sent (v : State) : State := (({ v with linkOut := v.linkOut ++ links.map fun l =>
         (l, ⟨c.tag, hop, c.count, c.fmt, out.map (BitVec.ofNat 32)⟩) } : State).countHub 8 (some c.asid)
           (links.length * Config.flitsOf (eb * c.count))).endColl c 0
       (c.dest = 0 → s.performColl c = sent u) ∧
       (∀ v, c.dest ≠ 0 → u.engWrite none c.asid collType ((vas c.dest).zip (out.flatMap (leBytes eb))) = (v, .ok ()) →
         s.performColl c = sent v) ∧
       (∀ v e, c.dest ≠ 0 → u.engWrite none c.asid collType ((vas c.dest).zip (out.flatMap (leBytes eb))) = (v, .error e) →
         s.performColl c = v.failColl c e)) ∧
     (∀ u e, c.src ≠ 0 → s.engRead none c.asid collType (vas c.src) = (u, .error e) → s.performColl c = u.failColl c e) ∧
     (∀ r g, s.groups[c.grp]? = some g →
       let u := (s.putWordOr c.asid c.cword (2 ^ 31 + if r = 0 then 0 else 256 * r + 1)).clearL1 g.core
       s.endColl c r = State.countHub { u with colls := u.colls.filter fun x => x.id != c.id } 10 (some c.asid) 1) ∧
     (∀ a w, s.failColl c (.absent a w) = s.parkColl c a w) ∧ (∀ r, s.failColl c (.fail r) = s.endColl c r) ∧
     (∀ d, s.failColl c (.peer d) = s.endColl c 2)) ∧
  /- one element -/
  (∀ (c : Coll) h e (x : Nat), c.fmt = 5 → x < 2 ^ 32 →
     collElem c h e [x] = if (FFmt.f32.read x).isNan then 0x7FC00000 else x) ∧
  (∀ (c : Coll) h e (ins : List Nat) (x y : Nat), c.fmt = 5 →
     (c.isMax = false → collElem c h e (x :: ins ++ [y]) = (fltAdd .f32 .rn false (collElem c h e (x :: ins)) ((convert (.flt .f32) (.flt .f32) .rn false y).bits)).bits) ∧
     (c.isMax = true → collElem c h e (x :: ins ++ [y]) = (fltMinMax .f32 true (collElem c h e (x :: ins)) ((convert (.flt .f32) (.flt .f32) .rn false y).bits)).1)) ∧
  (∀ (c : Coll) h e (ins : List Nat) (x : Nat), c.fmt ≠ 5 →
     let f : FFmt := if c.fmt = 4 then .b16 else if c.fmt = 6 then .e4m3 else .e5m2
     let up (w : Nat) : Nat := (convert (.flt .f32) (.flt f) .rn false w).bits
     let sum := (ins.map up).foldl (fun a w => if c.isMax then (fltMinMax .f32 true a w).1 else (fltAdd .f32 .rn false a w).bits)
       (canon .f32 (up x)).1
     collElem c h e (x :: ins) = (roundV f (if c.rs then .rs c.key (BitVec.ofNat 32 e) (BitVec.ofNat 32 h) else .rn) false
       (FFmt.f32.read sum)).bits) ∧
  /- what stands first in a link's queue -/
  (∀ (s : State) link l (p : Payload) (q : List Incoming) k, s.links[link]? = some l → l.inq = .payload p :: q →
     let wants (c : Coll) : Prop := c.err = none ∧ c.tag = p.tag ∧ c.inmask.getLsbD link = true ∧ ∀ t ∈ c.taken, t.1 ≠ link
     let left : State := { s with links := s.links.modify link fun x => { x with inq := q } }
     (∀ before c after, s.colls = before ++ c :: after → (∀ x ∈ before, x.desc = none ∧ ¬ wants x) → c.desc = none → wants c →
       State.consumeLink (k + 1) s link = State.consumeLink k { left with colls := s.colls.map fun x => if x.id = c.id then { x with
         taken := x.taken ++ [(link, p)], err := if p.count ≠ x.count ∨ p.fmt ≠ x.fmt then some 6 else x.err } else x } link) ∧
     ((∀ x ∈ s.colls, x.desc = none ∧ ¬ wants x) → State.consumeLink (k + 1) s link = s) ∧
     (∀ before c after, s.colls = before ++ c :: after → (∀ x ∈ before, x.desc = none ∧ ¬ wants x) → c.desc.isSome = true →
       State.consumeLink (k + 1) s link = s)) ∧
  (∀ (s : State) link l (a : MemAccess) (q : List Incoming) k, s.links[link]? = some l → l.inq = .access a :: q →
     State.consumeLink (k + 1) s link = State.consumeLink k
       (({ s with links := s.links.modify link fun x => { x with inq := q } } : State).portAccess true a) link)

/-- FREEZE_N and THERMTRIP freeze the device; RESET and LOSS_OF_POWER leave the state stated here, the attestation index kept;
boot verification ends in RUN or REJECTED once; an attestation report is signed and the index advances (what depends on the
key is free, log entry 14; the type codes are PRESUMED, log entry 80); READMEM and READTHR shift out memory as it is stored
(log entries 18 and 65) and the records of a core's threads in ascending (%gid, %tid), those of exited threads on a frozen
device alone (log entry 79); above 85 C the sweep period halves. What reset leaves of registers that the rules give no value
is log entry 4's. On a frozen device no other step changes anything and no thread issues. (22_device.md (Boot, identity and
attestation); 22_device.md (Freeze and readout); 22_device.md (Power and cooling); 22_device.md (Management window).) -/
def Obligations.DeviceServices : Prop :=
  ((∀ s, exec .freezeN s = .next { s with frozen := true }) ∧
   (∀ s, exec .thermtrip s = .next { s with tripPin := true, frozen := true }) ∧
   (∀ s, ∃ u, exec .reset s = .next u ∧ u.mgmt = Mgmt.fresh s.build ∧ u.frozen = false ∧ u.groups = [] ∧ u.jobs = [] ∧
     u.launches = [] ∧ u.tlb = [] ∧ u.cells = [] ∧ u.queues = List.replicate 64 HubQueue.fresh ∧ u.nvIndex = s.nvIndex ∧
     u.build = s.build ∧ (s.cells = [] → u.mem = s.mem)) ∧
   (∀ s, ∃ u, exec .lossOfPower s = .next u ∧ u.nvIndex = s.nvIndex ∧ u.mem = [] ∧ u.groups = [] ∧ u.jobs = [] ∧ u.frozen = false) ∧
   (∀ s ok, s.frozen = false → s.mgmt.boot = 0 →
     exec (.bootVerifyComplete ok) s = .next { s with mgmt := { s.mgmt with boot := if ok then 1 else 2 } }) ∧
   (∀ s ok, s.frozen = false → s.mgmt.boot ≠ 0 → exec (.bootVerifyComplete ok) s = .next s) ∧
   (∀ s, s.frozen = false → s.mgmt.astat = 1 → ∃ u, exec .attestationReport s = .next u ∧ u.nvIndex = s.nvIndex + 1 ∧
     u.mgmt.astat = 2 ∧ u.msix = (if (cGet s.mgmt.msixTable 1100).getLsbD 0 then s.msix else 68 :: s.msix) ∧
     ∃ sig : List Byte, u.mgmt.report = s.reportBody ++ sig ∧ sig.length = 1772 ∧
       sig.take 8 = [BitVec.ofNat 8 (s.nvIndex / 2 ^ 24), BitVec.ofNat 8 (s.nvIndex / 2 ^ 16), BitVec.ofNat 8 (s.nvIndex / 2 ^ 8),
         BitVec.ofNat 8 s.nvIndex, 0, 0, 0, 4] ∧ (sig.drop 1128).take 4 = [0, 0, 0, 8] ∧
       ∀ i, 8 ≤ i → i < 1772 → (i < 1128 ∨ 1132 ≤ i) → sig[i]? = some (Config.signatureByte s.nvIndex s.reportBody i)) ∧
   (∀ s (pa : BitVec 52) (len : Word), s.cells = [] → exec (.readmem pa len) s =
     .next { s with tapIr := 0x21, tapOut := cRead s.mem pa.toNat len.toNat }) ∧
   (∀ s (core : BitVec 8), ∃ recs : List (Nat × Nat × List Byte), exec (.readthr core) s =
     .next { s with tapIr := 0x22, tapOut := leBytes 4 recs.length ++ (recs.map fun r => r.2.2).flatten } ∧
     recs.Pairwise (fun a b => a.1 < b.1 ∨ a.1 = b.1 ∧ a.2.1 ≤ b.2.1) ∧
     ∀ gid tid r, (gid, tid, r) ∈ recs ↔ ∃ g ∈ s.groups, ∃ t, g.gid = gid ∧ tid < 1024 ∧ g.core = core.toNat ∧ g.resident = true ∧
       g.threads[tid]? = some t ∧ (s.frozen = true ∨ t.live = true) ∧ r = threadRecord g tid t) ∧
   (∀ s stack hot, s.frozen = false → stack < s.numStacks → exec (.stackOver85c stack hot) s =
     .next { s with mgmt := { s.mgmt with periods := s.mgmt.periods.set stack (if hot then 16000 else 32000) } })) ∧
  (∀ s : State, s.frozen = true → ∀ i, isEvent i = true →
     (∀ u, exec i s = .next u → u = s ∨ i = .freezeN ∨ i = .thermtrip ∨ i = .reset ∨ i = .lossOfPower ∨
       (∃ pa n, i = .readmem pa n) ∨ ∃ c, i = .readthr c) ∧
     (∀ core ctx sec, s.turn (.issue core ctx sec) = .next s))

/-- When it is a gang's turn (log entry 2: the order of turns is free) and its next thread is ready and holds nothing, its pc
is aligned and translates, the instruction fits its 32-byte block and its bytes, read then (log entry 27: nothing is fetched
ahead), decode to i, step answers what exec of i answers for that thread, followed by the bookkeeping of the run (afterIssue)
and, for an instruction whose lanes are aggregated, the turns of the gang's other threads (log entry 85); when it is a device
step's turn, step answers exec of that step, followed by settle unless the device is frozen. (02_execution_model.md (Runs, the
picker and gangs); 04_encoding.md (Instruction words and fetch).) -/
def Obligations.StepRunsInstruction : Prop :=
  (∀ (s : State) ts core ctx sec x r rest g t pa ty e i, s.turns = .issue core ctx sec :: ts → s.frozen = false →
     (s.core core).ctxs.getD ctx none = some x → (x.gang sec).todo = r :: rest → s.groups[r.grp]? = some g →
     s.thr r = some t → s.ready g t = true → t.status = .ready → t.held = none → t.badPc = none → t.pc.toNat % 4 = 0 →
     let v : State := { s with turns := ts }
     let f := v.fetchBlock g.core g.asid t
     f.check g.asid (t.pc.signExtend 64 : Dword).toNat .fetch isNormal = .ok pa ty e →
     t.pc.toNat % 32 + lengthOf (f.insnAt pa 4) ≤ 32 → decode (f.insnAt pa (lengthOf (f.insnAt pa 4))) = .ok i →
     ((∀ a b c d k, i ≠ .short a b c d k) → (∀ a b c d, i ≠ .shortNop a b c d) → v.ahead g t = some i) ∧
     (∀ u, exec i { f with cur := ⟨r, none⟩ } = .next u →
       let w := u.afterIssue core ctx sec (x.gang sec) r g (v.ahead g t) t
       ((v.ahead g t).any aggregates = false → step s = .next w) ∧
       ((v.ahead g t).any aggregates = true → step s = State.lanes rest.length w core ctx sec)) ∧
     ((∃ f', exec i { f with cur := ⟨r, none⟩ } = .fault f') ∨ (∃ f', exec i { f with cur := ⟨r, none⟩ } = .refused f') →
       step s = exec i { f with cur := ⟨r, none⟩ })) ∧
  /- the block that is read -/
  (∀ (s : State) core asid t, s.quietMem → ∃ cs, s.fetchBlock core asid t = { s with counters := cs }) ∧
  (∀ (s : State) ts i u, s.turns = .event i :: ts → isEvent i = true → exec i { s with turns := ts } = .next u →
     step s = .next (if u.frozen then u else u.settle))

/-- For every state step answers a next state; for every instruction, a device step in any state and a thread's instruction in
any state whose current thread exists, exec answers a next state: no instruction of the table stops the machine.
(20_scheduling_faults.md (Faults and traps).) -/
def Obligations.EveryStepAnswers : Prop :=
  (∀ s : State, answers (step s)) ∧
  (∀ (i : Instr) (s : State), (isEvent i = true ∨ s.curOk) → answers (exec i s))

/-- For every state whose device, host and peer memory are in canonical form (ascending addresses, no zero byte listed), if
step answers a next state, they are in canonical form there too. (08_memory_model.md (Memory types and spaces).) -/
def Obligations.StepKeepsMemoryCanonical : Prop :=
  ∀ s s' : State, s.canon = true → step s = .next s' → s'.canon = true

/-- After reset BOOTSTAT is BOOTING, no job is bound, no group exists, all 64 launch queues are disabled, the device is not
frozen, every %cyc is 0, all 64 error-log entries are free, and memory is canonical with no byte listed. That a byte of memory
nothing has written reads 0 and what the other management registers hold are the model's choices (log entries 3 and 4).
(22_device.md (Boot, identity and attestation); 20_scheduling_faults.md (Launch queues).) -/
def Obligations.ResetState : Prop :=
  (State.reset.canon = true ∧ ∀ b n, (State.resetOf b n).canon = true) ∧
  (State.reset.mgmt.boot = 0 ∧ State.reset.jobs = [] ∧ State.reset.groups = [] ∧ State.reset.queues.length = 64 ∧
   (∀ q ∈ State.reset.queues, q.en = false) ∧ State.reset.frozen = false ∧ (∀ c ∈ State.reset.cores, c.cyc = 0) ∧
   State.reset.elog.length = 64 ∧ (∀ e ∈ State.reset.elog, e.type = 0) ∧ State.reset.mem = [])

/-- For every well-formed instruction and every operand value its encoding admits, if it has an encoding then decoding those
bits gives exactly that instruction. (04_encoding.md (The 64-bit base format); 04_encoding.md (Operand fields).) -/
def Obligations.EncodeRoundTrip : Prop :=
  ∀ (i : Instr) (w : BitVec 128), i.wf = true → encode i = some w → decode w = .ok i

/-- If bits decode to an instruction, it is well-formed, no device step, and its encoding is exactly the bits of its length:
no two instructions share an encoding, and no bit of one is dropped. (04_encoding.md (The 64-bit base format); 04_encoding.md
(Operand fields).) -/
def Obligations.DecodeUnique : Prop :=
  ∀ (w : BitVec 128) (i : Instr), decode w = .ok i →
    i.wf = true ∧ isEvent i = false ∧ encode i = some (BitVec.ofNat 128 (w.toNat % 2 ^ (8 * lengthOf w)))

/-- A guard holds exactly when q[GUARD] XOR NEG is 1, q as arrived results leave it; GUARD 7 with NEG acts for no thread
(R52). Whatever the instruction, one whose guard fails only advances its thread, counts in every open window, and opens its
own window. q7 reads 1 and writes to it are discarded; a write to another predicate changes that one only (R13). A window of n
instructions holds its results back through n - 1 completions and delivers them at the n-th (R59 to R61). What an instruction
whose guard fails does besides, and that an encoding its entry does not allow opens its window all the same, are log entries
23 and 73. (01_notation.md (Source rules); 04_encoding.md (The 64-bit base format); 04_encoding.md (Operand fields);
04_encoding.md (Lookahead).) -/
def Obligations.GuardsAndWindows : Prop :=
  (∀ (t : Thread) (h : Hdr), t.guardHolds h = ((h.guard.toNat == 7 || t.deliverAll.q.getLsbD h.guard.toNat) != h.neg)) ∧
  (∀ (i : Instr) (s : State) g t, isEvent i = false → (∀ a b c d k, i ≠ .short a b c d k) → (∀ a b c d, i ≠ .shortNop a b c d) →
     s.groups[s.cur.ref.grp]? = some g → s.thr s.cur.ref = some t → t.guardOpen (hdrOf i) = false →
     ((hdrOf i).guard.toNat = 7 → (hdrOf i).neg = true) →
     ((hdrOf i).guard.toNat ≠ 7 → t.deliverAll.q.getLsbD (hdrOf i).guard.toNat = (hdrOf i).neg) →
     exec i s = .next (s.setThr s.cur.ref fun x =>
       if lookOf i = 0 then x.complete (nextPc s i t) [] else x.completeLook (nextPc s i t) (lookOf i) (destSet i) (.vals []))) ∧
  ((∀ t : Thread, t.pred 7 = true) ∧ (∀ (t : Thread) v, t.put (.reg (.q 7) v) = t) ∧
   ∀ (t : Thread) n v, n < 7 → (t.put (.reg (.q n) v)).pred n = (v != 0) ∧
     ∀ k, k ≠ n → (t.put (.reg (.q n) v)).pred k = t.pred k) ∧
  (∀ (t : Thread) next ws, t.windows = [] →
     (∀ n dset, 0 < n →
       let u := t.completeLook next n dset (.vals ws)
       u.d = t.d ∧ u.q = t.q ∧ u.fstat = t.fstat ∧ u.windows = [⟨n, dset, .vals ws⟩] ∧
       ∀ next', (1 < n → (u.complete next' []).d = t.d ∧ (u.complete next' []).windows = [⟨n - 1, dset, .vals ws⟩]) ∧
         (n = 1 → u.complete next' [] = t.complete next' ws)))

/-- For an instruction whose guard holds: an absent unit takes UNIT_ABSENT; else an encoding its entry does not allow, or a
register the kernel does not have, takes ILLEGAL_VARIANT; else, but for CCTL and PREF, naming a register of an open window's
destination set takes LOOKAHEAD_HAZARD with the least such register as DETAIL. (04_encoding.md (Opcode map); 04_encoding.md
(Lookahead).) -/
def Obligations.CheckOrder : Prop :=
  ∀ (i : Instr) (s : State) g t, isEvent i = false → (∀ a b c d k, i ≠ .short a b c d k) → (∀ a b c d, i ≠ .shortNop a b c d) →
    s.groups[s.cur.ref.grp]? = some g → s.thr s.cur.ref = some t → t.guardOpen (hdrOf i) = false → t.guardHolds (hdrOf i) = true →
    let takes (x : TrapInfo) : Prop := exec i s = .next (s.takeTrap s.cur.ref (some (insnOf i)) s.cur.shortw x)
    (s.unitAbsent (opcodeOf i) = true → takes ⟨.unitAbsent, 0, 0, 0⟩) ∧
    ((∀ r, i ≠ .illegalOpcode r) → s.unitAbsent (opcodeOf i) = false → legal i = false ∨ regsExist g.nregs i = false →
      takes ⟨.illegalVariant, 0, 0, 0⟩) ∧
    ((∀ r, i ≠ .illegalOpcode r) → hintOnly i = false → s.unitAbsent (opcodeOf i) = false → legal i = true → regsExist g.nregs i = true →
      ∀ r ∈ namesOf i, (∃ w ∈ t.windows, w.left ≠ 0 ∧ r ∈ w.dset) → r.code < 1023 →
      ∃ n, takes ⟨.lookaheadHazard, BitVec.ofNat 32 n, 0, 0⟩ ∧ n ≤ r.code ∧
        ∃ r' ∈ namesOf i, r'.code = n ∧ ∃ w ∈ t.windows, w.left ≠ 0 ∧ r' ∈ w.dset)

/-- Whenever an instruction of regDests (the integer, float, conversion, move and predicate instructions but CVT, PACK and
SWRITE, and NOP and YIELD) runs, only its thread changes: its pc advances, %fmode, call depth, stack and age stay, and every d
register, predicate and %fstat keeps its value but for those the instruction names as destinations and those an earlier window
delivers. (10_instructions_data.md (Operands, lengths and destinations); 04_encoding.md (Lookahead).) -/
def Obligations.RegisterFrame : Prop :=
  ∀ i ds, regDests i = some ds → ∀ s g t, Runs s i g t →
    ∃ t', exec i s = .next (s.setThr s.cur.ref fun _ => t') ∧
      t'.pc = nextPc s i t ∧ t'.badPc = none ∧ t'.status = .ready ∧ t'.held = none ∧ t'.fmode = t.fmode ∧
      t'.depth = t.depth ∧ t'.stack = t.stack ∧ t'.age = t.age ∧ t'.d.length = t.d.length ∧
      (∀ n, .d n ∉ ds → (∀ w ∈ t.windows, ∀ vs, w.res = .vals vs → unwritten (.d n) vs) → t'.dreg n = t.dreg n) ∧
      (∀ n, .q n ∉ ds → (∀ w ∈ t.windows, ∀ vs, w.res = .vals vs → unwritten (.q n) vs) → t'.pred n = t.pred n) ∧
      (.fstat ∉ ds → (∀ w ∈ t.windows, ∀ vs, w.res = .vals vs → keepsFlags vs) → t'.fstat = t.fstat)

/-- The bits of IADD d3, d1, d2, of a 96-bit FFMA, CALLX d4, RET guarded by q1, a backward CALL, ROWQRY, a guarded CPY to two
ranks, SRD and one short, written out from the tables, decode to those instructions. (04_encoding.md (The 64-bit base
format).) -/
def Obligations.DecodeWords : Prop :=
  let plain : Hdr := ⟨7, false, 0, false, false, .l64⟩
  decode 0x0000020103000701 = .ok (.iadd plain 3 (.d 1) (.d 2)) ∧
  decode 0x000000090000080B0C023702 = .ok (.ffma { plain with len := .l96 } .rn 12 (.d 11) (.d 8) (.d 9)) ∧
  decode 0x0000000400063701 = .ok (.callx plain 4) ∧
  decode 0x0000000000064101 = .ok (.ret { plain with guard := 1 }) ∧
  decode 0xFFF8000000062701 = .ok (.call plain (-8)) ∧
  decode 0x000000060C0AB701 = .ok (.rowqry plain 12 6) ∧
  decode 0x0000001D0F030C04140B0302 = .ok (.cpy { plain with guard := 3, len := .l96 } none false 3 20 4 12 29) ∧
  decode 0x00000700040E4701 = .ok (.srd plain 4 (.d 7)) ∧
  decode 0x102C6008 = .ok (.short false 1 12 11 8)
end

