-- ==== Sys2Proof/Laws/Cells.lean ====
section
/-! SUPPORT. Sparse bytes: every operation keeps the canonical form, and a byte reads as it was last written. -/

set_option Elab.async false

namespace Sys2Proof.Machine

theorem cellsFrom_mono {lo lo' : Nat} {m : List Host.Cell} (h : cellsFrom lo m = true) (hl : lo' ≤ lo) :
    cellsFrom lo' m = true := by
  cases m with
  | nil => rfl
  | cons c t => simp only [cellsFrom, Bool.and_eq_true, decide_eq_true_eq] at h ⊢; exact ⟨⟨by omega, h.1.2⟩, h.2⟩

theorem cellsFrom_cInsert {lo x : Nat} {v : Byte} {m : List Host.Cell} (h : cellsFrom lo m = true) (hx : lo ≤ x)
    (hv : v ≠ 0) : cellsFrom lo (cInsert m x v) = true := by
  induction m generalizing lo with
  | nil => simpa [cInsert, cellsFrom, hx] using hv
  | cons c t ih =>
    simp only [cellsFrom, Bool.and_eq_true, decide_eq_true_eq] at h
    unfold cInsert
    split
    · simp only [cellsFrom, Bool.and_eq_true, decide_eq_true_eq, bne_iff_ne]
      exact ⟨⟨hx, hv⟩, ⟨by omega, by simpa using h.1.2⟩, h.2⟩
    · split
      · subst_vars; simp only [cellsFrom, Bool.and_eq_true, decide_eq_true_eq, bne_iff_ne]; exact ⟨⟨hx, hv⟩, h.2⟩
      · simp only [cellsFrom, Bool.and_eq_true, decide_eq_true_eq]; exact ⟨h.1, ih h.2 (by omega)⟩

theorem cellsFrom_filter {lo : Nat} {m : List Host.Cell} (p : Host.Cell → Bool) (h : cellsFrom lo m = true) :
    cellsFrom lo (m.filter p) = true := by
  induction m generalizing lo with
  | nil => rfl
  | cons c t ih =>
    simp only [cellsFrom, Bool.and_eq_true, decide_eq_true_eq] at h
    rw [List.filter_cons]
    split
    · simp only [cellsFrom, Bool.and_eq_true, decide_eq_true_eq]; exact ⟨h.1, ih h.2⟩
    · exact cellsFrom_mono (ih h.2) (by omega)

/-- Dropping entries keeps the canonical form. -/
theorem Memory.wf_filter {m : List Host.Cell} (p : Host.Cell → Bool) (h : Memory.wf m = true) :
    Memory.wf (m.filter p) = true := cellsFrom_filter p h

/-- Writing a byte keeps the canonical form. -/
theorem Memory.wf_cSet {m : List Host.Cell} (x : Nat) (v : Byte) (h : Memory.wf m = true) :
    Memory.wf (cSet m x v) = true := by
  unfold cSet
  split
  · exact cellsFrom_filter _ h
  · exact cellsFrom_cInsert h (Nat.zero_le _) ‹_›

/-- Writing bytes keeps the canonical form. -/
theorem Memory.wf_cWrite {m : List Host.Cell} (x : Nat) (bs : List Byte) (h : Memory.wf m = true) :
    Memory.wf (cWrite m x bs) = true := by
  induction bs generalizing m x with
  | nil => exact h
  | cons b bs ih => exact ih _ (wf_cSet x b h)

theorem cGet_cInsert (m : List Host.Cell) (x y : Nat) (v : Byte) :
    cGet (cInsert m x v) y = if x = y then v else cGet m y := by
  induction m with
  | nil => simp [cInsert, cGet]
  | cons c t ih =>
    unfold cInsert
    split
    · simp [cGet]
    · split
      · subst_vars; simp only [cGet]; split <;> simp_all
      · simp only [cGet]; split
        · rename_i e; subst e; rw [if_neg (by omega)]
        · exact ih

theorem cGet_filter_ne (m : List Host.Cell) (x y : Nat) :
    cGet (m.filter fun c => c.1 != x) y = if x = y then 0 else cGet m y := by
  induction m with
  | nil => simp [cGet]
  | cons c t ih =>
    rw [List.filter_cons]
    split
    · rename_i hc
      simp only [cGet]; split
      · rename_i e; subst e; simp only [bne_iff_ne, ne_eq] at hc; rw [if_neg (fun h => hc h.symm)]
      · exact ih
    · rename_i hc
      rw [ih]; simp only [bne_iff_ne, ne_eq, not_not] at hc
      split
      · rfl
      · simp only [cGet]; rw [if_neg (by omega)]

/-- A byte reads as it was last written, and every other byte as before. -/
theorem cGet_cSet (m : List Host.Cell) (x y : Nat) (v : Byte) : cGet (cSet m x v) y = if x = y then v else cGet m y := by
  unfold cSet
  split
  · rename_i h; rw [cGet_filter_ne, h]
  · exact cGet_cInsert m x y v

/-- Bytes written read back at their addresses, and every other byte reads as before. -/
theorem cGet_cWrite (m : List Host.Cell) (x y : Nat) (bs : List Byte) :
    cGet (cWrite m x bs) y = if x ≤ y ∧ y < x + bs.length then bs.getD (y - x) 0 else cGet m y := by
  induction bs generalizing m x with
  | nil => simp only [cWrite, List.length_nil]; rw [if_neg (by omega)]
  | cons b bs ih =>
    simp only [cWrite, ih, cGet_cSet, List.length_cons]
    by_cases h : x = y
    · subst h; rw [if_neg (by omega), if_pos rfl, if_pos (by omega)]; simp
    · rw [if_neg h]
      by_cases h2 : x + 1 ≤ y ∧ y < x + 1 + bs.length
      · rw [if_pos h2, if_pos (by omega), show y - x = (y - (x + 1)) + 1 by omega]; simp
      · rw [if_neg h2, if_neg (by omega)]

/-- Bytes read back after they are written. -/
theorem cRead_cWrite (m : List Host.Cell) (x : Nat) (bs : List Byte) : cRead (cWrite m x bs) x bs.length = bs := by
  have gen : ∀ (m : List Host.Cell) (a n : Nat), cRead m a n = (List.range n).map fun i => cGet m (a + i) := by
    intro m a n
    induction n generalizing a with
    | zero => rfl
    | succ n ih =>
      rw [List.range_succ_eq_map, List.map_cons, List.map_map]
      simp only [cRead, ih, Nat.add_zero, List.cons.injEq, true_and]
      apply List.map_congr_left
      intro i _; simp only [Function.comp_apply]; congr 1; omega
  rw [gen]
  apply List.ext_getElem
  · simp
  · intro i h1 h2
    simp only [List.getElem_map, List.getElem_range, cGet_cWrite]
    rw [if_pos (by omega), show x + i - x = i by omega]
    simp [List.getD, h2]

/-- Memory right after reset stands in its canonical form. -/
theorem wf_reset : Memory.wf State.reset.mem = true := rfl

end Sys2Proof.Machine
end

