-- ==== Sys2Proof/Laws/Coding.lean ====
section
/-! SUPPORT. Fields of an encoding read back: the steps from which Laws/PerInstr.lean shows that the decoder picks the
instruction that was encoded. -/

set_option Elab.async false

namespace Sys2Proof.Laws

open Machine

/-! ## Bits of a concatenation -/

theorem app_hi {v w : Nat} (hi : BitVec v) (lo : BitVec w) (s n : Nat) (h : w ≤ s) :
    (hi ++ lo).extractLsb' s n = hi.extractLsb' (s - w) n := BitVec.extractLsb'_append_eq_of_le h
theorem app_lo {v w : Nat} (hi : BitVec v) (lo : BitVec w) (s n : Nat) (h : s + n ≤ w) :
    (hi ++ lo).extractLsb' s n = lo.extractLsb' s n := BitVec.extractLsb'_append_eq_of_add_le h
theorem app_get {v w : Nat} (hi : BitVec v) (lo : BitVec w) (i : Nat) (h : w ≤ i) :
    (hi ++ lo).getLsbD i = hi.getLsbD (i - w) := by simp [BitVec.getLsbD_append, Nat.not_lt.2 h]
theorem app_got {v w : Nat} (hi : BitVec v) (lo : BitVec w) (i : Nat) (h : i < w) :
    (hi ++ lo).getLsbD i = lo.getLsbD i := by simp [BitVec.getLsbD_append, h]
theorem bv_get (b : Bool) (k : Nat) (h : k = 0) : (bv b).getLsbD k = b := by subst h; cases b <;> rfl
theorem ext_self {n : Nat} (x : BitVec n) (k : Nat) (h : k = 0) : x.extractLsb' k n = x := by
  subst h; exact BitVec.extractLsb'_eq_self

/-! ## The base format -/

/-- The fields are read back from an instruction's bits. -/
theorem ofBits_toBits (r : Raw) (h : r.hi = r.hdr.len.clip r.hi) : Raw.ofBits r.hdr.len r.toBits = r := by
  obtain ⟨⟨g, ng, lk, nf, b, l⟩, op, var, dst, sa, sb, md, hi⟩ := r
  simp only at h
  simp only [Raw.ofBits, Raw.toBits, Raw.mk.injEq, Hdr.mk.injEq]
  refine ⟨⟨?_, ?_, ?_, ?_, ?_, trivial⟩, ?_, ?_, ?_, ?_, ?_, ?_, ?_⟩
  · rw [app_hi, app_hi, app_hi, app_hi, app_lo]; exact ext_self _ _ rfl
    all_goals decide
  · rw [app_get, app_get, app_get, app_get, app_get, app_got]; exact bv_get _ _ rfl
    all_goals decide
  · rw [app_hi, app_hi, app_hi, app_lo]; exact ext_self _ _ rfl
    all_goals decide
  · rw [app_get, app_get, app_got]; exact bv_get _ _ rfl
    all_goals decide
  · rw [app_get, app_got]; exact bv_get _ _ rfl
    all_goals decide
  · rw [app_hi, app_hi, app_hi, app_hi, app_hi, app_hi, app_lo]; exact ext_self _ _ rfl
    all_goals decide
  · rw [app_hi, app_hi, app_hi, app_hi, app_hi, app_hi, app_hi, app_lo]; exact ext_self _ _ rfl
    all_goals decide
  · rw [app_hi, app_hi, app_hi, app_hi, app_hi, app_hi, app_hi, app_hi, app_lo]; exact ext_self _ _ rfl
    all_goals decide
  · rw [app_hi, app_hi, app_hi, app_hi, app_hi, app_hi, app_hi, app_hi, app_hi, app_lo]; exact ext_self _ _ rfl
    all_goals decide
  · rw [app_hi, app_hi, app_hi, app_hi, app_hi, app_hi, app_hi, app_hi, app_hi, app_hi, app_lo]; exact ext_self _ _ rfl
    all_goals decide
  · rw [app_hi, app_hi, app_hi, app_hi, app_hi, app_hi, app_hi, app_hi, app_hi, app_hi, app_hi, app_lo]
    exact ext_self _ _ rfl
    all_goals decide
  · rw [app_hi, app_hi, app_hi, app_hi, app_hi, app_hi, app_hi, app_hi, app_hi, app_hi, app_hi, app_hi, ext_self, ← h]
    all_goals decide

theorem lenOf_toBits (r : Raw) : lenOf r.toBits = some r.hdr.len := by
  have : r.toBits.extractLsb' 0 2 = r.hdr.len.code := by
    unfold Raw.toBits
    rw [app_lo]; exact ext_self _ _ rfl
    decide
  rw [lenOf, this]
  cases r.hdr.len <;> rfl

/-! ## Modifier fields -/

section
variable (ka kb : BitVec 2) (c : BitVec 12)

theorem amod_a : (amod ka kb c).extractLsb' 14 2 = ka := by unfold amod; rw [app_hi, app_hi, ext_self] <;> decide
theorem amod_b : (amod ka kb c).extractLsb' 12 2 = kb := by unfold amod; rw [app_hi, app_lo, ext_self] <;> decide
theorem amod_f (s n : Nat) (h : s + n ≤ 12) : (amod ka kb c).extractLsb' s n = c.extractLsb' s n := by
  unfold amod; rw [app_lo]; exact h
theorem amod_i (i : Nat) (h : i < 12) : (amod ka kb c).getLsbD i = c.getLsbD i := by unfold amod; rw [app_got]; exact h
theorem amod_0 (x : BitVec 11) (u : Bool) : (amod ka kb (x ++ bv u)).getLsbD 0 = u := by
  rw [amod_i, app_got, bv_get] <;> decide
theorem amod_1 (x : BitVec 10) (u v : Bool) : (amod ka kb (x ++ bv u ++ bv v)).getLsbD 1 = u := by
  rw [amod_i, app_get, app_got, bv_get] <;> decide
theorem amod_4 (x : BitVec 7) (u : Bool) (y : BitVec 4) : (amod ka kb (x ++ bv u ++ y)).getLsbD 4 = u := by
  rw [amod_i, app_get, app_got, bv_get] <;> decide
theorem amod_4q (x : BitVec 7) (u : Bool) (z : BitVec 1) (q : BitVec 3) :
    (amod ka kb (x ++ bv u ++ z ++ q)).getLsbD 4 = u := by
  rw [amod_i, app_get, app_get, app_got, bv_get] <;> decide
theorem amod_00 (x : BitVec 10) (u v : Bool) : (amod ka kb (x ++ bv u ++ bv v)).getLsbD 0 = v := by
  rw [amod_i, app_got, bv_get] <;> decide
theorem amod_n4 (x : BitVec 7) (u : Bool) (y : BitVec 4) : (amod ka kb (x ++ bv u ++ y)).extractLsb' 0 4 = y := by
  rw [amod_f, app_lo, ext_self] <;> decide
theorem amod_q (x : BitVec 7) (u : Bool) (z : BitVec 1) (q : BitVec 3) :
    (amod ka kb (x ++ bv u ++ z ++ q)).extractLsb' 0 3 = q := by
  rw [amod_f, app_lo, ext_self] <;> decide
theorem amod_2 (x : BitVec 10) (q : BitVec 2) : (amod ka kb (x ++ q)).extractLsb' 0 2 = q := by
  rw [amod_f, app_lo, ext_self] <;> decide
theorem amod_n (x : BitVec 8) (q : BitVec 4) : (amod ka kb (x ++ q)).extractLsb' 0 4 = q := by
  rw [amod_f, app_lo, ext_self] <;> decide
theorem amod_8 (x : BitVec 4) (q : BitVec 8) : (amod ka kb (x ++ q)).extractLsb' 0 8 = q := by
  rw [amod_f, app_lo, ext_self] <;> decide
theorem amod_df (x y z : BitVec 4) : (amod ka kb (x ++ y ++ z)).extractLsb' 8 4 = x := by
  rw [amod_f, app_hi, app_hi, ext_self] <;> decide
theorem amod_sf (x y z : BitVec 4) : (amod ka kb (x ++ y ++ z)).extractLsb' 4 4 = y := by
  rw [amod_f, app_hi, app_lo, ext_self] <;> decide
end

section
variable (ka kb : BitVec 2) (ex : BitVec 1) (ty : BitVec 2) (src x : BitVec 1) (sel : BitVec 4)

theorem cmod_a : (cmod ka kb ex ty src x sel).extractLsb' 14 2 = ka := by
  unfold cmod; rw [app_hi, app_hi, app_hi, app_hi, app_hi, app_hi, app_hi, ext_self] <;> decide
theorem cmod_b : (cmod ka kb ex ty src x sel).extractLsb' 12 2 = kb := by
  unfold cmod; rw [app_hi, app_hi, app_hi, app_hi, app_hi, app_hi, app_lo, ext_self] <;> decide
theorem cmod_8 (u : Bool) : (cmod ka kb (bv u) ty src x sel).getLsbD 8 = u := by
  unfold cmod; rw [app_get, app_get, app_get, app_get, app_got, bv_get] <;> decide
theorem cmod_6 : (cmod ka kb ex ty src x sel).extractLsb' 6 2 = ty := by
  unfold cmod; rw [app_hi, app_hi, app_hi, app_lo, ext_self] <;> decide
theorem cmod_5 (u : Bool) : (cmod ka kb ex ty (bv u) x sel).getLsbD 5 = u := by
  unfold cmod; rw [app_get, app_get, app_got, bv_get] <;> decide
theorem cmod_4 (u : Bool) : (cmod ka kb ex ty src (bv u) sel).getLsbD 4 = u := by
  unfold cmod; rw [app_get, app_got, bv_get] <;> decide
theorem cmod_0 : (cmod ka kb ex ty src x sel).extractLsb' 0 4 = sel := by
  unfold cmod; rw [app_lo, ext_self] <;> decide
theorem cmod_q (z : BitVec 1) (q : BitVec 3) : (cmod ka kb ex ty src x (z ++ q)).extractLsb' 0 3 = q := by
  unfold cmod; rw [app_lo, app_lo, ext_self] <;> decide
end

section
variable (kb : BitVec 2) (fmt : BitVec 4) (rm t : BitVec 1) (sel : BitVec 4)

theorem emod_b : (emod kb fmt rm t sel).extractLsb' 12 2 = kb := by
  unfold emod; rw [app_hi, app_hi, app_hi, app_hi, app_hi, app_lo, ext_self] <;> decide
theorem emod_8 : (emod kb fmt rm t sel).extractLsb' 8 4 = fmt := by
  unfold emod; rw [app_hi, app_hi, app_hi, app_hi, app_lo, ext_self] <;> decide
theorem emod_5 (u : Bool) : (emod kb fmt (bv u) t sel).getLsbD 5 = u := by
  unfold emod; rw [app_get, app_get, app_got, bv_get] <;> decide
theorem emod_4 (u : Bool) : (emod kb fmt rm (bv u) sel).getLsbD 4 = u := by
  unfold emod; rw [app_get, app_got, bv_get] <;> decide
theorem emod_0 : (emod kb fmt rm t sel).extractLsb' 0 4 = sel := by
  unfold emod; rw [app_lo, ext_self] <;> decide
end

theorem low_q (x : BitVec 5) (q : BitVec 3) : (x ++ q : BitVec 8).extractLsb' 0 3 = q := by
  rw [app_lo, ext_self] <;> decide
theorem low_n (x : BitVec 4) (q : BitVec 4) : (x ++ q : BitVec 8).extractLsb' 0 4 = q := by
  rw [app_lo, ext_self] <;> decide
theorem low_g (x : BitVec 2) (q : BitVec 6) : (x ++ q : BitVec 8).extractLsb' 0 6 = q := by
  rw [app_lo, ext_self] <;> decide
theorem low_c (x : BitVec 12) (q : BitVec 4) : (x ++ q : BitVec 16).extractLsb' 0 4 = q := by
  rw [app_lo, ext_self] <;> decide
theorem low_t (x : BitVec 14) (q : BitVec 2) : (x ++ q : BitVec 16).extractLsb' 0 2 = q := by
  rw [app_lo, ext_self] <;> decide
theorem low_b (x : BitVec 8) (q : BitVec 8) : (x ++ q : BitVec 16).extractLsb' 0 8 = q := by
  rw [app_lo, ext_self] <;> decide
theorem top_b (x : BitVec 8) (q : BitVec 8) : (x ++ q : BitVec 16).extractLsb' 8 8 = x := by
  rw [app_hi, ext_self] <;> decide
theorem low_s (x : BitVec 7) (u : BitVec 1) (q : BitVec 8) : (x ++ u ++ q : BitVec 16).extractLsb' 0 8 = q := by
  rw [app_lo, ext_self] <;> decide
theorem bit_s (x : BitVec 7) (u : Bool) (q : BitVec 8) : (x ++ bv u ++ q : BitVec 16).getLsbD 8 = u := by
  rw [app_get, app_got, bv_get] <;> decide
theorem q3_qf (q : QReg) : q3 (qf q) = q := low_q _ _
theorem bit4_eq (u : Bool) : (bit4 u == 1) = u := by cases u <;> rfl
theorem hiReg_0 (r : DReg) : (hiReg r).extractLsb' 0 8 = r := by unfold hiReg; rw [app_lo, ext_self] <;> decide
theorem off32_0 (off : Word) : (off32 .l96 off).extractLsb' 0 32 = off := by
  unfold off32; rw [if_neg (by decide), app_lo, ext_self] <;> decide
theorem tok_eq (t : Option DReg) : (if t.isSome = true then some (t.getD 0) else none) = t := by cases t <;> rfl
theorem cnt_eq (c : Option Src) : (if c.isSome = true then some (cntSrc c) else none) = c := by cases c <;> rfl

/-! ## Codes -/

theorem rm_code (x : Rm) : Rm.ofCode x.code = some x := by cases x <;> rfl
theorem icc_code (x : ICc) : ICc.ofCode x.code = some x := by cases x <;> rfl
theorem fcc_code (x : FCc) : FCc.ofCode x.code = some x := by cases x <;> rfl
theorem bw_code (x : Bw) : Bw.ofCode x.code = some x := by cases x <;> rfl
theorem cvtFmt_code (x : CvtFmt) : CvtFmt.ofCode x.code = some x := by cases x <;> rfl
theorem packFmt_code (x : PackFmt) : PackFmt.ofCode x.code = some x := by cases x <;> rfl
theorem sreg_code (x : SReg) : SReg.ofCode x.code = some x := by cases x <;> rfl
theorem pop_code (x : POp) : POp.ofCode x.code = some x := by cases x <;> rfl
theorem cvMode_code (x : CvMode) : CvMode.ofCode x.code = some x := by cases x <;> rfl
theorem shflOp_code (x : ShflOp) : ShflOp.ofCode x.code = some x := by cases x <;> rfl
theorem foldOp_code (x : FoldOp) : FoldOp.ofCode x.code = some x := by cases x <;> rfl
theorem foldTy_code (x : FoldTy) : FoldTy.ofCode x.code = some x := by cases x <;> rfl
theorem ldw_code (x : LdW) : LdW.ofCode x.code = some x := by cases x <;> rfl
theorem stw_code (x : StW) : StW.ofCode x.code = some x := by cases x <;> rfl
theorem atomOp_code (x : AtomOp) : AtomOp.ofCode x.code = some x := by cases x <;> rfl
theorem fence_code (x : FenceKind) : FenceKind.ofCode x.code = some x := by cases x <;> rfl
theorem reconOp_code (x : ReconOp) : ReconOp.ofCode x.code = some x := by cases x <;> rfl
theorem reconTy_code (x : ReconTy) : ReconTy.ofCode x.code = x := by cases x <;> rfl
theorem lfmt_code (x : LFmt) : LFmt.ofCode x.code = some x := by cases x <;> rfl
theorem lvl_code (x : Lvl) : Lvl.ofCode x.code = some x := by cases x <;> rfl
theorem cvtMode_code (x : CvtMode) : CvtMode.ofCode x.code = some x := by
  cases x with
  | rm m => cases m <;> rfl
  | rs => rfl
theorem fmt_code (f : Option LFmt) : fmtOf (fmtCode f) = some f := by
  cases f with
  | none => rfl
  | some f => cases f <;> rfl
theorem mc_code (m : Mc) : Mc.ofCode m.code = some m := by
  obtain ⟨o, s, w, n⟩ := m
  cases o <;> cases s <;> cases w <;> cases n <;> rfl

/-! ## Operands -/

theorem src_reg {w : Bool} {a : Src} (h : okReg w a = true) (l : Len) (v : BitVec 64) :
    srcOf (Src.kind a) (Src.field l a) v = some a := by
  cases a with
  | d n => rfl
  | g n =>
    have : (0#2 ++ n : BitVec 8).extractLsb' 0 6 = n := low_g _ _
    simp [srcOf, Src.kind, Src.field, this]
  | imm v => simp [okReg] at h

theorem srcA_ok {r : Raw} {a : Src} {w : Bool} {l : Len} (h : okA w a = true)
    (hm : r.mod.extractLsb' 14 2 = Src.kind a) (hs : r.srca = Src.field l a) : srcA r = some a := by
  unfold srcA; rw [hm, hs]; exact src_reg h _ _

theorem okB_reg {w : Bool} {l : Len} {b : Src} (h : okB w l b = true) (hb : Src.isImm b = false) : okReg w b = true := by
  cases b <;> simp_all [okB, Src.isImm]

theorem srcB_reg {r : Raw} {b : Src} {w : Bool} {l : Len} (h : okReg w b = true)
    (hm : r.mod.extractLsb' 12 2 = Src.kind b) (hs : r.srcb = Src.field l b) : srcB r = some b := by
  unfold srcB; rw [hm, hs]; exact src_reg h _ _

theorem srcB_imm {r : Raw} {v : BitVec 64} (hm : r.mod.extractLsb' 12 2 = 3) (h : immB r = v) : srcB r = some (.imm v) := by
  unfold srcB; rw [hm, h]; rfl

theorem imm32_ext (v : BitVec 64) (h : (v.extractLsb' 0 32).signExtend 64 = v) :
    ((0#32 ++ Src.imm32 (.imm v) : BitVec 64).extractLsb' 0 32).signExtend 64 = v := by
  rw [app_lo, ext_self]
  · exact h
  all_goals decide

theorem immB_64 {r : Raw} {v : BitVec 64} (hl : r.hdr.len = .l64) (hs : r.srcb = Src.field .l64 (.imm v))
    (h : immFits .l64 v = true) : immB r = v := by
  simp only [immB, hl, hs]; simpa [immFits, Src.field] using h
theorem immB_96 {r : Raw} {v : BitVec 64} (hl : r.hdr.len = .l96) (hh : r.hi = 0#32 ++ Src.imm32 (.imm v))
    (h : immFits .l96 v = true) : immB r = v := by
  simp only [immB, hl, hh]; exact imm32_ext v (by simpa [immFits] using h)
theorem immB_128 {r : Raw} {v : BitVec 64} (hl : r.hdr.len = .l128) (hh : r.hi = v) : immB r = v := by
  simp only [immB, hl, hh]

theorem srcB_ok {r : Raw} {b : Src} {w : Bool} (h : okB w r.hdr.len b = true) (hl : okLen2 r.hdr.len = true)
    (hm : r.mod.extractLsb' 12 2 = Src.kind b) (hs : r.srcb = Src.field r.hdr.len b) (hh : r.hi = hiB2 r.hdr.len b) :
    srcB r = some b := by
  cases hb : Src.isImm b
  · exact srcB_reg (okB_reg h hb) hm hs
  · cases b with
    | d n => cases hb
    | g n => cases hb
    | imm v =>
      refine srcB_imm hm ?_
      generalize e : r.hdr.len = l at *
      cases l
      · exact immB_64 e hs h
      · exact immB_96 e hh h
      · simp [okLen2] at hl

theorem okBi_len {l : Len} {b : Src} (h : okBi l b = true) : okLen2 l = true := by
  cases b <;> cases l <;> simp_all [okBi, okLen2]
theorem okBi_okB {l : Len} {b : Src} (h : okBi l b = true) : okB false l b = true := by
  cases b <;> simp_all [okBi, okB]
theorem srcBi_ok {r : Raw} {b : Src} (h : okBi r.hdr.len b = true) (hm : r.mod.extractLsb' 12 2 = Src.kind b)
    (hs : r.srcb = Src.field r.hdr.len b) (hh : r.hi = hiB2 r.hdr.len b) : srcB r = some b :=
  srcB_ok (okBi_okB h) (okBi_len h) hm hs hh

theorem srcW2_ok {r : Raw} {b : Src} {bw : Bw} (h : okW2 bw r.hdr.len b = true)
    (hm : r.mod.extractLsb' 12 2 = Src.kind b) (hs : r.srcb = Src.field r.hdr.len b) (hh : r.hi = hiW2 r.hdr.len b) :
    srcB r = some b := by
  cases hb : Src.isImm b
  · have : ∃ w, okReg w b = true := by
      unfold okW2 at h
      split at h
      · simp only [Bool.and_eq_true] at h; exact ⟨_, okB_reg h.1 hb⟩
      · simp only [Bool.and_eq_true] at h; exact ⟨_, h.2⟩
    obtain ⟨w, hw⟩ := this
    exact srcB_reg hw hm hs
  · cases b with
    | d n => cases hb
    | g n => cases hb
    | imm v =>
      refine srcB_imm hm ?_
      have hf : immFits r.hdr.len v = true := by
        unfold okW2 at h
        split at h
        · simp only [Bool.and_eq_true] at h; exact h.1
        · simp [okReg] at h
      generalize e : r.hdr.len = l at *
      cases l
      · exact immB_64 e hs hf
      · exact immB_96 e hh hf
      · exact immB_128 e hh

theorem movi_ok {r : Raw} {v : BitVec 64} {w : Bool} (h : (match r.hdr.len with | .l128 => w | l => immFits l v) = true)
    (hs : r.srcb = Src.field r.hdr.len (.imm v)) (hh : r.hi = hiW2 r.hdr.len (.imm v)) : immB r = v := by
  generalize e : r.hdr.len = l at *
  cases l
  · exact immB_64 e hs h
  · exact immB_96 e hh h
  · exact immB_128 e hh

/-! ### Source C -/

theorem hiC3_ext (l : Len) (b c : Src) : (hiC3 l b c).extractLsb' 32 32 = if l = .l128 then Src.imm32 b ||| Src.imm32 c else 0 := by
  unfold hiC3; rw [app_hi, app_hi, app_hi, ext_self] <;> decide
theorem hiC3_kind (l : Len) (b c : Src) : (hiC3 l b c).extractLsb' 8 2 = Src.kind c := by
  unfold hiC3; rw [app_hi, app_lo, ext_self] <;> decide
theorem hiC3_field (l : Len) (b c : Src) : (hiC3 l b c).extractLsb' 0 8 = Src.field .l96 c := by
  unfold hiC3; rw [app_lo, ext_self] <;> decide

theorem imm32_reg {c : Src} (h : Src.isImm c = false) : Src.imm32 c = 0 := by cases c <;> first | rfl | cases h

theorem srcB3_ok {r : Raw} {b c : Src} {w : Bool} (hl : okC3 r.hdr.len b c = true) (h : okB w .l96 b = true)
    (hm : r.mod.extractLsb' 12 2 = Src.kind b) (hs : r.srcb = Src.field .l96 b) (hh : r.hi = hiC3 r.hdr.len b c) :
    srcB3 r = some b := by
  unfold srcB3; rw [hm, hs]
  cases hb : Src.isImm b
  · exact src_reg (okB_reg h hb) _ _
  · cases b with
    | d n => cases hb
    | g n => cases hb
    | imm v =>
      have e : r.hdr.len = .l128 ∧ Src.isImm c = false := by
        generalize r.hdr.len = l at hl; cases l <;> simp_all [okC3, Src.isImm]
      have : immC r = v := by
        unfold immC; rw [hh, hiC3_ext, e.1, imm32_reg e.2]
        simpa [Src.imm32, okB, immFits] using h
      rw [this]; rfl

theorem srcC_ok {r : Raw} {b c : Src} {w : Bool} (hl : okC3 r.hdr.len b c = true) (h : okB w .l96 c = true)
    (hh : r.hi = hiC3 r.hdr.len b c) : srcC r = some c := by
  have hk : r.hi.extractLsb' 8 2 = Src.kind c := by rw [hh, hiC3_kind]
  have hf : r.hi.extractLsb' 0 8 = Src.field .l96 c := by rw [hh, hiC3_field]
  unfold srcC; rw [hk, hf]
  cases hb : Src.isImm c
  · exact src_reg (okB_reg h hb) _ _
  · cases c with
    | d n => cases hb
    | g n => cases hb
    | imm v =>
      have e : r.hdr.len = .l128 ∧ Src.isImm b = false := by
        generalize r.hdr.len = l at hl; cases l <;> simp_all [okC3, Src.isImm]
      have : immC r = v := by
        unfold immC; rw [hh, hiC3_ext, e.1, imm32_reg e.2]
        simpa [Src.imm32, okB, immFits] using h
      rw [this]; rfl

/-! ### Offsets -/

theorem off_ok {r : Raw} {off : Word} (h : okOff r.hdr.len off = true) (hm : r.mod = off16 r.hdr.len off)
    (hh : r.hi = off32 r.hdr.len off) : offOf r = off := by
  unfold offOf; rw [hm, hh]
  generalize r.hdr.len = l at *
  cases l
  · simpa [off16, okOff] using h
  · simp only [reduceCtorEq, if_false]; exact off32_0 off
  · simp [okOff] at h

/-! ## Bits beyond the length -/

theorem clip_low {x : BitVec 32} : (0#32 ++ x : BitVec 64) = Len.clip .l96 (0#32 ++ x) := by
  have e : (0#32 ++ x).extractLsb' 0 32 = x := by rw [app_lo, ext_self] <;> decide
  exact congrArg (fun y => (0#32 ++ y : BitVec 64)) e.symm
theorem clip_0 (l : Len) : (0 : BitVec 64) = l.clip 0 := by cases l <;> rfl
theorem clip_B2 {l : Len} (b : Src) (h : okLen2 l = true) : hiB2 l b = l.clip (hiB2 l b) := by
  cases l
  · rfl
  · exact clip_low
  · simp [okLen2] at h
theorem clip_Bi {l : Len} {b : Src} (h : okBi l b = true) : hiB2 l b = l.clip (hiB2 l b) := clip_B2 b (okBi_len h)
theorem clip_W2 (l : Len) (b : Src) : hiW2 l b = l.clip (hiW2 l b) := by
  cases l
  · rfl
  · exact clip_low
  · rfl
theorem clip_C3 {l : Len} {b c : Src} (h : okC3 l b c = true) : hiC3 l b c = l.clip (hiC3 l b c) := by
  cases l
  · simp [okC3] at h
  · unfold hiC3; rw [if_neg (by decide)]
    have (k : BitVec 2) (f : BitVec 8) : ((0#32 ++ 0#22 ++ k ++ f) : BitVec 64) = 0#32 ++ (0#22 ++ k ++ f : BitVec 32) := by
      rw [BitVec.append_assoc, BitVec.append_assoc, BitVec.append_assoc]; rfl
    exact (this _ _).trans (clip_low.trans (congrArg (Len.clip .l96) (this _ _).symm))
  · rfl
theorem clip_reg {l : Len} (r : DReg) (h : l = .l96) : hiReg r = l.clip (hiReg r) := by
  subst h
  have : hiReg r = 0#32 ++ (0#24 ++ r : BitVec 32) := (BitVec.append_assoc (x₁ := 0#32) (x₂ := 0#24) (x₃ := r)).trans rfl
  rw [this]; exact clip_low
theorem clip_off {l : Len} {off : Word} (h : okOff l off = true) : off32 l off = l.clip (off32 l off) := by
  cases l
  · rfl
  · exact clip_low
  · simp [okOff] at h
theorem clip_atom {l : Len} (off : Word) (h : l = .l96) : off32 .l96 off = l.clip (off32 .l96 off) := by
  subst h; exact clip_low

/-! ## Composition -/

/-- A step of the decoder's pick succeeds. -/
theorem pick_step {α β : Type} {x : Option α} {f : α → Option β} (a : α) {i : β} (hx : x = some a) (h : f a = some i) :
    (x >>= f) = some i := by subst hx; exact h

/-- What the decoder picks, rewritten. -/
theorem pick_at {r : Raw} {f : Raw → Option Instr} {i : Instr} (h : pick r = f r) (h2 : f r = some i) : pick r = some i :=
  h.trans h2

/-- A well-formed instruction meets its entry's constraints. -/
theorem legal_ok {i : Instr} (h : legal i = true) (hn : ∀ r, i ≠ .illegalOpcode r := by intro r; simp) :
    fieldsOk i = true := by
  cases i <;> first | exact absurd rfl (hn _) | (simp only [legal, Bool.and_eq_true] at h; exact h.1.1)

end Sys2Proof.Laws
end

