-- ==== Sys2Proof/Laws/Exec.lean ====
section
/-! SUPPORT. Each arm of `exec` is its instruction's meaning: a proof about one instruction starts here. -/

set_option Elab.async false

namespace Sys2Proof.Machine

theorem exec_short (x0 x1 x2 x3 x4 s) : exec (.short x0 x1 x2 x3 x4) s = execShort x0 x1 x2 x3 x4 s := rfl
theorem exec_shortNop (x0 x1 x2 x3 s) : exec (.shortNop x0 x1 x2 x3) s = execShortNop x0 x1 x2 x3 s := rfl
theorem exec_iadd (x0 x1 x2 x3 s) : exec (.iadd x0 x1 x2 x3) s = execIadd x0 x1 x2 x3 s := rfl
theorem exec_isub (x0 x1 x2 x3 s) : exec (.isub x0 x1 x2 x3) s = execIsub x0 x1 x2 x3 s := rfl
theorem exec_imul (x0 x1 x2 x3 s) : exec (.imul x0 x1 x2 x3) s = execImul x0 x1 x2 x3 s := rfl
theorem exec_imulh (x0 x1 x2 x3 x4 s) : exec (.imulh x0 x1 x2 x3 x4) s = execImulh x0 x1 x2 x3 x4 s := rfl
theorem exec_imad (x0 x1 x2 x3 x4 s) : exec (.imad x0 x1 x2 x3 x4) s = execImad x0 x1 x2 x3 x4 s := rfl
theorem exec_imadw (x0 x1 x2 x3 x4 x5 s) : exec (.imadw x0 x1 x2 x3 x4 x5) s = execImadw x0 x1 x2 x3 x4 x5 s := rfl
theorem exec_ineg (x0 x1 x2 s) : exec (.ineg x0 x1 x2) s = execIneg x0 x1 x2 s := rfl
theorem exec_iabs (x0 x1 x2 s) : exec (.iabs x0 x1 x2) s = execIabs x0 x1 x2 s := rfl
theorem exec_imin (x0 x1 x2 x3 x4 s) : exec (.imin x0 x1 x2 x3 x4) s = execImin x0 x1 x2 x3 x4 s := rfl
theorem exec_imax (x0 x1 x2 x3 x4 s) : exec (.imax x0 x1 x2 x3 x4) s = execImax x0 x1 x2 x3 x4 s := rfl
theorem exec_ishl (x0 x1 x2 x3 s) : exec (.ishl x0 x1 x2 x3) s = execIshl x0 x1 x2 x3 s := rfl
theorem exec_ishr (x0 x1 x2 x3 s) : exec (.ishr x0 x1 x2 x3) s = execIshr x0 x1 x2 x3 s := rfl
theorem exec_ilsr (x0 x1 x2 x3 s) : exec (.ilsr x0 x1 x2 x3) s = execIlsr x0 x1 x2 x3 s := rfl
theorem exec_irot (x0 x1 x2 x3 s) : exec (.irot x0 x1 x2 x3) s = execIrot x0 x1 x2 x3 s := rfl
theorem exec_iand (x0 x1 x2 x3 s) : exec (.iand x0 x1 x2 x3) s = execIand x0 x1 x2 x3 s := rfl
theorem exec_ior (x0 x1 x2 x3 s) : exec (.ior x0 x1 x2 x3) s = execIor x0 x1 x2 x3 s := rfl
theorem exec_ixor (x0 x1 x2 x3 s) : exec (.ixor x0 x1 x2 x3) s = execIxor x0 x1 x2 x3 s := rfl
theorem exec_iandn (x0 x1 x2 x3 s) : exec (.iandn x0 x1 x2 x3) s = execIandn x0 x1 x2 x3 s := rfl
theorem exec_inot (x0 x1 x2 s) : exec (.inot x0 x1 x2) s = execInot x0 x1 x2 s := rfl
theorem exec_ipopc (x0 x1 x2 s) : exec (.ipopc x0 x1 x2) s = execIpopc x0 x1 x2 s := rfl
theorem exec_iclz (x0 x1 x2 s) : exec (.iclz x0 x1 x2) s = execIclz x0 x1 x2 s := rfl
theorem exec_ibrev (x0 x1 x2 s) : exec (.ibrev x0 x1 x2) s = execIbrev x0 x1 x2 s := rfl
theorem exec_ibfe (x0 x1 x2 x3 x4 s) : exec (.ibfe x0 x1 x2 x3 x4) s = execIbfe x0 x1 x2 x3 x4 s := rfl
theorem exec_ibfi (x0 x1 x2 x3 x4 s) : exec (.ibfi x0 x1 x2 x3 x4) s = execIbfi x0 x1 x2 x3 x4 s := rfl
theorem exec_idiv (x0 x1 x2 x3 x4 s) : exec (.idiv x0 x1 x2 x3 x4) s = execIdiv x0 x1 x2 x3 x4 s := rfl
theorem exec_irem (x0 x1 x2 x3 x4 s) : exec (.irem x0 x1 x2 x3 x4) s = execIrem x0 x1 x2 x3 x4 s := rfl
theorem exec_isel (x0 x1 x2 x3 x4 x5 s) : exec (.isel x0 x1 x2 x3 x4 x5) s = execIsel x0 x1 x2 x3 x4 x5 s := rfl
theorem exec_icmp (x0 x1 x2 x3 x4 s) : exec (.icmp x0 x1 x2 x3 x4) s = execIcmp x0 x1 x2 x3 x4 s := rfl
theorem exec_ladd (x0 x1 x2 x3 x4 s) : exec (.ladd x0 x1 x2 x3 x4) s = execLadd x0 x1 x2 x3 x4 s := rfl
theorem exec_lsub (x0 x1 x2 x3 x4 s) : exec (.lsub x0 x1 x2 x3 x4) s = execLsub x0 x1 x2 x3 x4 s := rfl
theorem exec_lmul (x0 x1 x2 x3 x4 s) : exec (.lmul x0 x1 x2 x3 x4) s = execLmul x0 x1 x2 x3 x4 s := rfl
theorem exec_lshl (x0 x1 x2 x3 s) : exec (.lshl x0 x1 x2 x3) s = execLshl x0 x1 x2 x3 s := rfl
theorem exec_lshr (x0 x1 x2 x3 x4 s) : exec (.lshr x0 x1 x2 x3 x4) s = execLshr x0 x1 x2 x3 x4 s := rfl
theorem exec_aadd (x0 x1 x2 x3 x4 x5 s) : exec (.aadd x0 x1 x2 x3 x4 x5) s = execAadd x0 x1 x2 x3 x4 x5 s := rfl
theorem exec_alea (x0 x1 x2 x3 x4 x5 s) : exec (.alea x0 x1 x2 x3 x4 x5) s = execAlea x0 x1 x2 x3 x4 x5 s := rfl
theorem exec_fadd (x0 x1 x2 x3 x4 s) : exec (.fadd x0 x1 x2 x3 x4) s = execFadd x0 x1 x2 x3 x4 s := rfl
theorem exec_fsub (x0 x1 x2 x3 x4 s) : exec (.fsub x0 x1 x2 x3 x4) s = execFsub x0 x1 x2 x3 x4 s := rfl
theorem exec_fmul (x0 x1 x2 x3 x4 s) : exec (.fmul x0 x1 x2 x3 x4) s = execFmul x0 x1 x2 x3 x4 s := rfl
theorem exec_ffma (x0 x1 x2 x3 x4 x5 s) : exec (.ffma x0 x1 x2 x3 x4 x5) s = execFfma x0 x1 x2 x3 x4 x5 s := rfl
theorem exec_fdiv (x0 x1 x2 x3 x4 s) : exec (.fdiv x0 x1 x2 x3 x4) s = execFdiv x0 x1 x2 x3 x4 s := rfl
theorem exec_fmin (x0 x1 x2 x3 s) : exec (.fmin x0 x1 x2 x3) s = execFmin x0 x1 x2 x3 s := rfl
theorem exec_fmax (x0 x1 x2 x3 s) : exec (.fmax x0 x1 x2 x3) s = execFmax x0 x1 x2 x3 s := rfl
theorem exec_fcmp (x0 x1 x2 x3 x4 s) : exec (.fcmp x0 x1 x2 x3 x4) s = execFcmp x0 x1 x2 x3 x4 s := rfl
theorem exec_fsel (x0 x1 x2 x3 x4 x5 s) : exec (.fsel x0 x1 x2 x3 x4 x5) s = execFsel x0 x1 x2 x3 x4 x5 s := rfl
theorem exec_fclass (x0 x1 x2 s) : exec (.fclass x0 x1 x2) s = execFclass x0 x1 x2 s := rfl
theorem exec_fscale (x0 x1 x2 x3 x4 s) : exec (.fscale x0 x1 x2 x3 x4) s = execFscale x0 x1 x2 x3 x4 s := rfl
theorem exec_frint (x0 x1 x2 x3 s) : exec (.frint x0 x1 x2 x3) s = execFrint x0 x1 x2 x3 s := rfl
theorem exec_ffrac (x0 x1 x2 s) : exec (.ffrac x0 x1 x2) s = execFfrac x0 x1 x2 s := rfl
theorem exec_frcp (x0 x1 x2 s) : exec (.frcp x0 x1 x2) s = execFrcp x0 x1 x2 s := rfl
theorem exec_frsq (x0 x1 x2 s) : exec (.frsq x0 x1 x2) s = execFrsq x0 x1 x2 s := rfl
theorem exec_fex2 (x0 x1 x2 s) : exec (.fex2 x0 x1 x2) s = execFex2 x0 x1 x2 s := rfl
theorem exec_flg2 (x0 x1 x2 s) : exec (.flg2 x0 x1 x2) s = execFlg2 x0 x1 x2 s := rfl
theorem exec_hadd2 (x0 x1 x2 x3 x4 x5 s) : exec (.hadd2 x0 x1 x2 x3 x4 x5) s = execHadd2 x0 x1 x2 x3 x4 x5 s := rfl
theorem exec_hmul2 (x0 x1 x2 x3 x4 x5 s) : exec (.hmul2 x0 x1 x2 x3 x4 x5) s = execHmul2 x0 x1 x2 x3 x4 x5 s := rfl
theorem exec_hfma2 (x0 x1 x2 x3 x4 x5 x6 s) : exec (.hfma2 x0 x1 x2 x3 x4 x5 x6) s = execHfma2 x0 x1 x2 x3 x4 x5 x6 s := rfl
theorem exec_cvt (x0 x1 x2 x3 x4 x5 x6 s) : exec (.cvt x0 x1 x2 x3 x4 x5 x6) s = execCvt x0 x1 x2 x3 x4 x5 x6 s := rfl
theorem exec_dxpack (x0 x1 x2 x3 x4 s) : exec (.dxpack x0 x1 x2 x3 x4) s = execDxpack x0 x1 x2 x3 x4 s := rfl
theorem exec_dxunpack (x0 x1 x2 x3 x4 s) : exec (.dxunpack x0 x1 x2 x3 x4) s = execDxunpack x0 x1 x2 x3 x4 s := rfl
theorem exec_pack (x0 x1 x2 x3 x4 s) : exec (.pack x0 x1 x2 x3 x4) s = execPack x0 x1 x2 x3 x4 s := rfl
theorem exec_unpack (x0 x1 x2 x3 s) : exec (.unpack x0 x1 x2 x3) s = execUnpack x0 x1 x2 x3 s := rfl
theorem exec_mov (x0 x1 x2 x3 s) : exec (.mov x0 x1 x2 x3) s = execMov x0 x1 x2 x3 s := rfl
theorem exec_movi (x0 x1 x2 x3 s) : exec (.movi x0 x1 x2 x3) s = execMovi x0 x1 x2 x3 s := rfl
theorem exec_sread (x0 x1 x2 s) : exec (.sread x0 x1 x2) s = execSread x0 x1 x2 s := rfl
theorem exec_swrite (x0 x1 x2 s) : exec (.swrite x0 x1 x2) s = execSwrite x0 x1 x2 s := rfl
theorem exec_bmix (x0 x1 x2 x3 x4 s) : exec (.bmix x0 x1 x2 x3 x4) s = execBmix x0 x1 x2 x3 x4 s := rfl
theorem exec_pset (x0 x1 x2 x3 x4 s) : exec (.pset x0 x1 x2 x3 x4) s = execPset x0 x1 x2 x3 x4 s := rfl
theorem exec_plop (x0 x1 x2 x3 x4 x5 x6 s) : exec (.plop x0 x1 x2 x3 x4 x5 x6) s = execPlop x0 x1 x2 x3 x4 x5 x6 s := rfl
theorem exec_bra (x0 x1 s) : exec (.bra x0 x1) s = execBra x0 x1 s := rfl
theorem exec_braU (x0 x1 s) : exec (.braU x0 x1) s = execBraU x0 x1 s := rfl
theorem exec_brx (x0 x1 s) : exec (.brx x0 x1) s = execBrx x0 x1 s := rfl
theorem exec_call (x0 x1 s) : exec (.call x0 x1) s = execCall x0 x1 s := rfl
theorem exec_callx (x0 x1 s) : exec (.callx x0 x1) s = execCallx x0 x1 s := rfl
theorem exec_ret (x0 s) : exec (.ret x0) s = execRet x0 s := rfl
theorem exec_exit (x0 s) : exec (.exit x0) s = execExit x0 s := rfl
theorem exec_nop (x0 s) : exec (.nop x0) s = execNop x0 s := rfl
theorem exec_yield (x0 s) : exec (.yield x0) s = execYield x0 s := rfl
theorem exec_cvset (x0 x1 x2 x3 x4 s) : exec (.cvset x0 x1 x2 x3 x4) s = execCvset x0 x1 x2 x3 x4 s := rfl
theorem exec_cvsign (x0 x1 s) : exec (.cvsign x0 x1) s = execCvsign x0 x1 s := rfl
theorem exec_shfl (x0 x1 x2 x3 x4 x5 s) : exec (.shfl x0 x1 x2 x3 x4 x5) s = execShfl x0 x1 x2 x3 x4 x5 s := rfl
theorem exec_voteAll (x0 x1 x2 x3 x4 s) : exec (.voteAll x0 x1 x2 x3 x4) s = execVoteAll x0 x1 x2 x3 x4 s := rfl
theorem exec_voteAny (x0 x1 x2 x3 x4 s) : exec (.voteAny x0 x1 x2 x3 x4) s = execVoteAny x0 x1 x2 x3 x4 s := rfl
theorem exec_voteBallot (x0 x1 x2 x3 x4 x5 s) : exec (.voteBallot x0 x1 x2 x3 x4 x5) s = execVoteBallot x0 x1 x2 x3 x4 x5 s := rfl
theorem exec_redux (x0 x1 x2 x3 x4 x5 s) : exec (.redux x0 x1 x2 x3 x4 x5) s = execRedux x0 x1 x2 x3 x4 x5 s := rfl
theorem exec_scan (x0 x1 x2 x3 x4 x5 x6 s) : exec (.scan x0 x1 x2 x3 x4 x5 x6) s = execScan x0 x1 x2 x3 x4 x5 x6 s := rfl
theorem exec_barArrive (x0 x1 x2 s) : exec (.barArrive x0 x1 x2) s = execBarArrive x0 x1 x2 s := rfl
theorem exec_barWait (x0 x1 s) : exec (.barWait x0 x1) s = execBarWait x0 x1 s := rfl
theorem exec_barSync (x0 x1 x2 s) : exec (.barSync x0 x1 x2) s = execBarSync x0 x1 x2 s := rfl
theorem exec_qcfg (x0 x1 x2 x3 s) : exec (.qcfg x0 x1 x2 x3) s = execQcfg x0 x1 x2 x3 s := rfl
theorem exec_qpush (x0 x1 x2 x3 x4 s) : exec (.qpush x0 x1 x2 x3 x4) s = execQpush x0 x1 x2 x3 x4 s := rfl
theorem exec_qpop (x0 x1 x2 x3 x4 x5 s) : exec (.qpop x0 x1 x2 x3 x4 x5) s = execQpop x0 x1 x2 x3 x4 x5 s := rfl
theorem exec_ld (x0 x1 x2 x3 x4 x5 s) : exec (.ld x0 x1 x2 x3 x4 x5) s = execLd x0 x1 x2 x3 x4 x5 s := rfl
theorem exec_st (x0 x1 x2 x3 x4 x5 s) : exec (.st x0 x1 x2 x3 x4 x5) s = execSt x0 x1 x2 x3 x4 x5 s := rfl
theorem exec_lds (x0 x1 x2 x3 x4 x5 s) : exec (.lds x0 x1 x2 x3 x4 x5) s = execLds x0 x1 x2 x3 x4 x5 s := rfl
theorem exec_sts (x0 x1 x2 x3 x4 x5 s) : exec (.sts x0 x1 x2 x3 x4 x5) s = execSts x0 x1 x2 x3 x4 x5 s := rfl
theorem exec_ldr (x0 x1 x2 x3 x4 x5 s) : exec (.ldr x0 x1 x2 x3 x4 x5) s = execLdr x0 x1 x2 x3 x4 x5 s := rfl
theorem exec_str (x0 x1 x2 x3 x4 x5 s) : exec (.str x0 x1 x2 x3 x4 x5) s = execStr x0 x1 x2 x3 x4 x5 s := rfl
theorem exec_ldp (x0 x1 x2 x3 x4 s) : exec (.ldp x0 x1 x2 x3 x4) s = execLdp x0 x1 x2 x3 x4 s := rfl
theorem exec_atom (x0 x1 x2 x3 x4 x5 x6 x7 s) : exec (.atom x0 x1 x2 x3 x4 x5 x6 x7) s = execAtom x0 x1 x2 x3 x4 x5 x6 x7 s := rfl
theorem exec_red (x0 x1 x2 x3 x4 x5 s) : exec (.red x0 x1 x2 x3 x4 x5) s = execRed x0 x1 x2 x3 x4 x5 s := rfl
theorem exec_fence (x0 x1 x2 s) : exec (.fence x0 x1 x2) s = execFence x0 x1 x2 s := rfl
theorem exec_cctlRange (x0 x1 x2 s) : exec (.cctlRange x0 x1 x2) s = execCctlRange x0 x1 x2 s := rfl
theorem exec_cctlAll (x0 s) : exec (.cctlAll x0) s = execCctlAll x0 s := rfl
theorem exec_pref (x0 x1 x2 s) : exec (.pref x0 x1 x2) s = execPref x0 x1 x2 s := rfl
theorem exec_sld (x0 x1 x2 x3 s) : exec (.sld x0 x1 x2 x3) s = execSld x0 x1 x2 x3 s := rfl
theorem exec_sst (x0 x1 x2 x3 x4 s) : exec (.sst x0 x1 x2 x3 x4) s = execSst x0 x1 x2 x3 x4 s := rfl
theorem exec_sstT (x0 x1 x2 x3 x4 s) : exec (.sstT x0 x1 x2 x3 x4) s = execSstT x0 x1 x2 x3 x4 s := rfl
theorem exec_recon (x0 x1 x2 x3 x4 s) : exec (.recon x0 x1 x2 x3 x4) s = execRecon x0 x1 x2 x3 x4 s := rfl
theorem exec_reconSet (x0 x1 x2 x3 x4 s) : exec (.reconSet x0 x1 x2 x3 x4) s = execReconSet x0 x1 x2 x3 x4 s := rfl
theorem exec_rowreg (x0 x1 x2 s) : exec (.rowreg x0 x1 x2) s = execRowreg x0 x1 x2 s := rfl
theorem exec_rowreq (x0 x1 x2 s) : exec (.rowreq x0 x1 x2) s = execRowreq x0 x1 x2 s := rfl
theorem exec_rowwait (x0 x1 x2 s) : exec (.rowwait x0 x1 x2) s = execRowwait x0 x1 x2 s := rfl
theorem exec_rowqry (x0 x1 x2 s) : exec (.rowqry x0 x1 x2) s = execRowqry x0 x1 x2 s := rfl
theorem exec_rowcancel (x0 x1 x2 s) : exec (.rowcancel x0 x1 x2) s = execRowcancel x0 x1 x2 s := rfl
theorem exec_cpy (x0 x1 x2 x3 x4 x5 x6 x7 s) : exec (.cpy x0 x1 x2 x3 x4 x5 x6 x7) s = execCpy x0 x1 x2 x3 x4 x5 x6 x7 s := rfl
theorem exec_cpyo (x0 x1 x2 x3 x4 x5 x6 s) : exec (.cpyo x0 x1 x2 x3 x4 x5 x6) s = execCpyo x0 x1 x2 x3 x4 x5 x6 s := rfl
theorem exec_cpyhTo (x0 x1 x2 x3 x4 x5 x6 s) : exec (.cpyhTo x0 x1 x2 x3 x4 x5 x6) s = execCpyhTo x0 x1 x2 x3 x4 x5 x6 s := rfl
theorem exec_cpyhFrom (x0 x1 x2 x3 x4 x5 x6 s) : exec (.cpyhFrom x0 x1 x2 x3 x4 x5 x6) s = execCpyhFrom x0 x1 x2 x3 x4 x5 x6 s := rfl
theorem exec_cpyx (x0 x1 x2 x3 x4 x5 s) : exec (.cpyx x0 x1 x2 x3 x4 x5) s = execCpyx x0 x1 x2 x3 x4 x5 s := rfl
theorem exec_arvInit (x0 x1 x2 x3 s) : exec (.arvInit x0 x1 x2 x3) s = execArvInit x0 x1 x2 x3 s := rfl
theorem exec_arvWait (x0 x1 x2 x3 s) : exec (.arvWait x0 x1 x2 x3) s = execArvWait x0 x1 x2 x3 s := rfl
theorem exec_arvTest (x0 x1 x2 x3 s) : exec (.arvTest x0 x1 x2 x3) s = execArvTest x0 x1 x2 x3 s := rfl
theorem exec_arvAdd (x0 x1 x2 x3 s) : exec (.arvAdd x0 x1 x2 x3) s = execArvAdd x0 x1 x2 x3 s := rfl
theorem exec_mma (x0 x1 x2 x3 x4 s) : exec (.mma x0 x1 x2 x3 x4) s = execMma x0 x1 x2 x3 x4 s := rfl
theorem exec_mmz (x0 x1 x2 x3 s) : exec (.mmz x0 x1 x2 x3) s = execMmz x0 x1 x2 x3 s := rfl
theorem exec_wbld (x0 x1 x2 x3 x4 x5 s) : exec (.wbld x0 x1 x2 x3 x4 x5) s = execWbld x0 x1 x2 x3 x4 x5 s := rfl
theorem exec_wbldSparse (x0 x1 x2 x3 x4 x5 s) : exec (.wbldSparse x0 x1 x2 x3 x4 x5) s = execWbldSparse x0 x1 x2 x3 x4 x5 s := rfl
theorem exec_wbrel (x0 x1 x2 s) : exec (.wbrel x0 x1 x2) s = execWbrel x0 x1 x2 s := rfl
theorem exec_accld (x0 x1 x2 x3 x4 s) : exec (.accld x0 x1 x2 x3 x4) s = execAccld x0 x1 x2 x3 x4 s := rfl
theorem exec_accst (x0 x1 x2 x3 x4 s) : exec (.accst x0 x1 x2 x3 x4) s = execAccst x0 x1 x2 x3 x4 s := rfl
theorem exec_credSmx (x0 x1 x2 x3 x4 x5 s) : exec (.credSmx x0 x1 x2 x3 x4 x5) s = execCredSmx x0 x1 x2 x3 x4 x5 s := rfl
theorem exec_credSum (x0 x1 x2 x3 x4 x5 s) : exec (.credSum x0 x1 x2 x3 x4 x5) s = execCredSum x0 x1 x2 x3 x4 x5 s := rfl
theorem exec_credMax (x0 x1 x2 x3 x4 x5 s) : exec (.credMax x0 x1 x2 x3 x4 x5) s = execCredMax x0 x1 x2 x3 x4 x5 s := rfl
theorem exec_gseg (x0 x1 x2 x3 s) : exec (.gseg x0 x1 x2 x3) s = execGseg x0 x1 x2 x3 s := rfl
theorem exec_gvec (x0 x1 x2 x3 s) : exec (.gvec x0 x1 x2 x3) s = execGvec x0 x1 x2 x3 s := rfl
theorem exec_grun (x0 x1 x2 s) : exec (.grun x0 x1 x2) s = execGrun x0 x1 x2 s := rfl
theorem exec_gout (x0 x1 x2 s) : exec (.gout x0 x1 x2) s = execGout x0 x1 x2 s := rfl
theorem exec_gwait (x0 x1 s) : exec (.gwait x0 x1) s = execGwait x0 x1 s := rfl
theorem exec_dictLoad (x0 x1 x2 s) : exec (.dictLoad x0 x1 x2) s = execDictLoad x0 x1 x2 s := rfl
theorem exec_dictRead (x0 x1 x2 s) : exec (.dictRead x0 x1 x2) s = execDictRead x0 x1 x2 s := rfl
theorem exec_fenceF (x0 s) : exec (.fenceF x0) s = execFenceF x0 s := rfl
theorem exec_launch (x0 x1 x2 s) : exec (.launch x0 x1 x2) s = execLaunch x0 x1 x2 s := rfl
theorem exec_cntWait (x0 x1 x2 x3 x4 s) : exec (.cntWait x0 x1 x2 x3 x4) s = execCntWait x0 x1 x2 x3 x4 s := rfl
theorem exec_cancel (x0 x1 x2 x3 s) : exec (.cancel x0 x1 x2 x3) s = execCancel x0 x1 x2 x3 s := rfl
theorem exec_tapePush (x0 x1 x2 s) : exec (.tapePush x0 x1 x2) s = execTapePush x0 x1 x2 s := rfl
theorem exec_trap (x0 x1 s) : exec (.trap x0 x1) s = execTrap x0 x1 s := rfl
theorem exec_assert (x0 x1 x2 s) : exec (.assert x0 x1 x2) s = execAssert x0 x1 x2 s := rfl
theorem exec_resumeRetry (x0 s) : exec (.resumeRetry x0) s = execResumeRetry x0 s := rfl
theorem exec_resumeSkip (x0 s) : exec (.resumeSkip x0) s = execResumeSkip x0 s := rfl
theorem exec_kill (x0 s) : exec (.kill x0) s = execKill x0 s := rfl
theorem exec_srd (x0 x1 x2 s) : exec (.srd x0 x1 x2) s = execSrd x0 x1 x2 s := rfl
theorem exec_swr (x0 x1 x2 s) : exec (.swr x0 x1 x2) s = execSwr x0 x1 x2 s := rfl
theorem exec_tlbinvAll (x0 s) : exec (.tlbinvAll x0) s = execTlbinvAll x0 s := rfl
theorem exec_tlbinvPage (x0 x1 s) : exec (.tlbinvPage x0 x1) s = execTlbinvPage x0 x1 s := rfl
theorem exec_gswap (x0 x1 x2 s) : exec (.gswap x0 x1 x2) s = execGswap x0 x1 x2 s := rfl
theorem exec_resultDelivery (x0 s) : exec (.resultDelivery x0) s = execResultDelivery x0 s := rfl
theorem exec_runPick (x0 x1 s) : exec (.runPick x0 x1) s = execRunPick x0 x1 s := rfl
theorem exec_quantumExpiry (x0 s) : exec (.quantumExpiry x0) s = execQuantumExpiry x0 s := rfl
theorem exec_groupSwapOut (x0 s) : exec (.groupSwapOut x0) s = execGroupSwapOut x0 s := rfl
theorem exec_groupSwapIn (x0 x1 s) : exec (.groupSwapIn x0 x1) s = execGroupSwapIn x0 x1 s := rfl
theorem exec_launchQueueTake (x0 s) : exec (.launchQueueTake x0) s = execLaunchQueueTake x0 s := rfl
theorem exec_groupStart (x0 x1 x2 s) : exec (.groupStart x0 x1 x2) s = execGroupStart x0 x1 x2 s := rfl
theorem exec_launchCompletion (x0 x1 s) : exec (.launchCompletion x0 x1) s = execLaunchCompletion x0 x1 s := rfl
theorem exec_tapeReplay (x0 s) : exec (.tapeReplay x0) s = execTapeReplay x0 s := rfl
theorem exec_tapePop (x0 s) : exec (.tapePop x0) s = execTapePop x0 s := rfl
theorem exec_copyOperation (x0 s) : exec (.copyOperation x0) s = execCopyOperation x0 s := rfl
theorem exec_tileOperation (x0 s) : exec (.tileOperation x0) s = execTileOperation x0 s := rfl
theorem exec_wbldOperation (x0 s) : exec (.wbldOperation x0) s = execWbldOperation x0 s := rfl
theorem exec_credResultWrite (x0 s) : exec (.credResultWrite x0) s = execCredResultWrite x0 s := rfl
theorem exec_grunEvaluation (x0 s) : exec (.grunEvaluation x0) s = execGrunEvaluation x0 s := rfl
theorem exec_goutOperation (x0 s) : exec (.goutOperation x0) s = execGoutOperation x0 s := rfl
theorem exec_rowReachBank (x0 x1 s) : exec (.rowReachBank x0 x1) s = execRowReachBank x0 x1 s := rfl
theorem exec_sweepVisit (x0 s) : exec (.sweepVisit x0) s = execSweepVisit x0 s := rfl
theorem exec_floorRaise (x0 x1 s) : exec (.floorRaise x0 x1) s = execFloorRaise x0 x1 s := rfl
theorem exec_faultBufferEntryFree (x0 s) : exec (.faultBufferEntryFree x0) s = execFaultBufferEntryFree x0 s := rfl
theorem exec_jreplay (x0 s) : exec (.jreplay x0) s = execJreplay x0 s := rfl
theorem exec_handlerGroupStart (x0 x1 s) : exec (.handlerGroupStart x0 x1) s = execHandlerGroupStart x0 x1 s := rfl
theorem exec_quotaTrap (x0 x1 x2 s) : exec (.quotaTrap x0 x1 x2) s = execQuotaTrap x0 x1 x2 s := rfl
theorem exec_stopRecordWrite (x0 s) : exec (.stopRecordWrite x0) s = execStopRecordWrite x0 s := rfl
theorem exec_preemptStage2 (x0 s) : exec (.preemptStage2 x0) s = execPreemptStage2 x0 s := rfl
theorem exec_preemptStage3 (x0 s) : exec (.preemptStage3 x0) s = execPreemptStage3 x0 s := rfl
theorem exec_qbaseQctlWrite (x0 s) : exec (.qbaseQctlWrite x0) s = execQbaseQctlWrite x0 s := rfl
theorem exec_qwrWrite (x0 s) : exec (.qwrWrite x0) s = execQwrWrite x0 s := rfl
theorem exec_bind (x0 s) : exec (.bind x0) s = execBind x0 s := rfl
theorem exec_unbind (x0 x1 s) : exec (.unbind x0 x1) s = execUnbind x0 x1 s := rfl
theorem exec_preempt (x0 x1 s) : exec (.preempt x0 x1) s = execPreempt x0 x1 s := rfl
theorem exec_resume (x0 x1 s) : exec (.resume x0 x1) s = execResume x0 x1 s := rfl
theorem exec_canceljob (x0 x1 s) : exec (.canceljob x0 x1) s = execCanceljob x0 x1 s := rfl
theorem exec_setquota (x0 x1 s) : exec (.setquota x0 x1) s = execSetquota x0 x1 s := rfl
theorem exec_tlbinv (x0 x1 s) : exec (.tlbinv x0 x1) s = execTlbinv x0 x1 s := rfl
theorem exec_fencelink (x0 s) : exec (.fencelink x0) s = execFencelink x0 s := rfl
theorem exec_unfencelink (x0 s) : exec (.unfencelink x0) s = execUnfencelink x0 s := rfl
theorem exec_freeze (x0 s) : exec (.freeze x0) s = execFreeze x0 s := rfl
theorem exec_clearlog (x0 s) : exec (.clearlog x0) s = execClearlog x0 s := rfl
theorem exec_badop (x0 x1 x2 s) : exec (.badop x0 x1 x2) s = execBadop x0 x1 x2 s := rfl
theorem exec_errorLogFree (x0 s) : exec (.errorLogFree x0) s = execErrorLogFree x0 s := rfl
theorem exec_attestationRequest (x0 s) : exec (.attestationRequest x0) s = execAttestationRequest x0 s := rfl
theorem exec_attestationReport (s) : exec (.attestationReport) s = execAttestationReport s := rfl
theorem exec_plimitWrite (x0 s) : exec (.plimitWrite x0) s = execPlimitWrite x0 s := rfl
theorem exec_cethreshWrite (x0 s) : exec (.cethreshWrite x0) s = execCethreshWrite x0 s := rfl
theorem exec_registerWrite (x0 s) : exec (.registerWrite x0) s = execRegisterWrite x0 s := rfl
theorem exec_hostMemoryAccess (x0 s) : exec (.hostMemoryAccess x0) s = execHostMemoryAccess x0 s := rfl
theorem exec_umaryIncomingAccess (x0 x1 s) : exec (.umaryIncomingAccess x0 x1) s = execUmaryIncomingAccess x0 x1 s := rfl
theorem exec_linkDown (x0 s) : exec (.linkDown x0) s = execLinkDown x0 s := rfl
theorem exec_collectiveStart (x0 x1 s) : exec (.collectiveStart x0 x1) s = execCollectiveStart x0 x1 s := rfl
theorem exec_collectivePayload (x0 x1 s) : exec (.collectivePayload x0 x1) s = execCollectivePayload x0 x1 s := rfl
theorem exec_collectiveCompute (x0 s) : exec (.collectiveCompute x0) s = execCollectiveCompute x0 s := rfl
theorem exec_reset (s) : exec (.reset) s = execReset s := rfl
theorem exec_bootVerifyComplete (x0 s) : exec (.bootVerifyComplete x0) s = execBootVerifyComplete x0 s := rfl
theorem exec_freezeN (s) : exec (.freezeN) s = execFreezeN s := rfl
theorem exec_readmem (x0 x1 s) : exec (.readmem x0 x1) s = execReadmem x0 x1 s := rfl
theorem exec_readthr (x0 s) : exec (.readthr x0) s = execReadthr x0 s := rfl
theorem exec_stackOver85c (x0 x1 s) : exec (.stackOver85c x0 x1) s = execStackOver85c x0 x1 s := rfl
theorem exec_thermtrip (s) : exec (.thermtrip) s = execThermtrip s := rfl
theorem exec_illegalOpcode (x0 s) : exec (.illegalOpcode x0) s = execIllegalOpcode x0 s := rfl
theorem exec_linkRetraining (x0 s) : exec (.linkRetraining x0) s = execLinkRetraining x0 s := rfl
theorem exec_lossOfPower (s) : exec (.lossOfPower) s = execLossOfPower s := rfl

end Sys2Proof.Machine
end

