-- ==== Sys2Proof/Laws/Memory.lean ====
section
/-! SUPPORT. What an access to device memory does when nothing is pending on any row: it counts its events and changes nothing
else (R207 to R216, R331). A proof about an access to quiet memory cites these and never unfolds a restore. -/

set_option Elab.async false

namespace Sys2Proof.Machine

/-- Counts change no other field, so they keep memory quiet. -/
theorem quietMem_counters {s : State} (h : s.quietMem) (cs : List Counter) : ({ s with counters := cs } : State).quietMem := h

theorem count_counters (s : State) (base k src : Nat) (asid : Option Nat) (n : Nat) :
    ∃ cs, s.count base k src asid n = { s with counters := cs } := ⟨_, rfl⟩

/-- A list of changes of the counters alone. -/
theorem counters_foldl {α : Type} {s : State} {f : State → α → State} (hf : ∀ a cs, ∃ ds, f { s with counters := cs } a = { s with counters := ds }) :
    ∀ (l : List α) (cs : List Counter), ∃ ds, l.foldl f { s with counters := cs } = { s with counters := ds }
  | [], cs => ⟨cs, rfl⟩
  | a :: l, cs => by
    obtain ⟨ds, h⟩ := hf a cs
    rw [List.foldl_cons, h]
    exact counters_foldl hf l ds

theorem overUcie_counters (s : State) (src dst asid : Option Nat) (n : Nat) : ∃ cs, s.overUcie src dst asid n = { s with counters := cs } := by
  unfold State.overUcie
  split
  · exact ⟨_, rfl⟩
  · cases src <;> cases dst <;> exact ⟨_, rfl⟩

theorem countHome_counters (s : State) (pa src : Nat) (asid : Option Nat) : ∃ cs, s.countHome pa src asid = { s with counters := cs } :=
  ⟨_, rfl⟩

theorem portFlits_counters (s : State) (die asid : Option Nat) (peer : Bool) (req resp : Nat) :
    ∃ cs, s.portFlits die asid peer req resp = { s with counters := cs } := by
  unfold State.portFlits
  obtain ⟨_, h⟩ := overUcie_counters s die none asid req
  rw [h]
  obtain ⟨_, h⟩ := overUcie_counters { s with counters := _ } none die asid resp
  rw [h]
  cases peer <;> exact ⟨_, rfl⟩

/-! ## Quiet memory -/

theorem quiet_restoreRow {s : State} (h : s.quietMem) (asid : Option Nat) (row : Nat) : s.restoreRow asid row = s := by
  obtain ⟨-, -, -, hh, hs⟩ := h
  simp [State.restoreRow, hh, hs]

theorem quiet_activate {s : State} (h : s.quietMem) (asid : Option Nat) (row : Nat) : ∀ fuel, s.activate fuel asid row = s
  | 0 => rfl
  | fuel + 1 => by simp [State.activate, quiet_restoreRow h, h.1]

theorem quiet_demand {s : State} (h : s.quietMem) (asid : Option Nat) (row : Nat) :
    ∃ cs, s.demand asid row = { s with counters := cs } := by
  unfold State.demand
  dsimp only
  rw [if_neg]
  · exact ⟨_, quiet_activate (s := s.countStack (s.stackOf row) 1 asid 1) h asid row _⟩
  · have e : (s.countStack (s.stackOf row) 1 asid 1).rowApps = [] := h.1
    simp [e]

theorem quiet_ceaseCells {s : State} (h : s.quietMem) (pa n : Nat) : s.ceaseCells pa n = s := by
  simp [State.ceaseCells, State.cellsIn, h.2.1]

theorem quiet_reach {s : State} (h : s.quietMem) (asid : Option Nat) (pa n : Nat) :
    ∃ cs, s.reach asid pa n = { s with counters := cs } := by
  unfold State.reach
  obtain ⟨cs, e⟩ := counters_foldl (s := s) (f := fun s r => s.demand asid r)
    (fun r cs => quiet_demand (quietMem_counters h cs) asid r) (rowsOf pa n) s.counters
  rw [e]
  exact ⟨cs, quiet_ceaseCells (quietMem_counters h cs) pa n⟩

/-- An access to quiet memory counts its events and changes nothing else. -/
theorem quiet_access {s : State} (h : s.quietMem) (die asid : Option Nat) (l2 wr : Bool) (pa n : Nat) :
    ∃ cs, s.access die asid l2 wr pa n = { s with counters := cs } := by
  unfold State.access
  dsimp only
  obtain ⟨_, e⟩ := overUcie_counters s die (some (s.homeDie pa)) asid (if wr then n else 0)
  rw [e]
  obtain ⟨_, e⟩ := overUcie_counters { s with counters := _ } (some (s.homeDie pa)) die asid (if wr then 0 else n)
  rw [e]
  cases l2 <;> cases wr <;> exact quiet_reach (quietMem_counters h _) asid pa n

theorem quiet_peek {s : State} (h : s.quietMem) (a : Nat) : s.peek a = cGet s.mem a := by
  simp [State.peek, h.2.2.1]

/-- A read of the hub gives memory's bytes. -/
theorem quiet_homeRead {s : State} (h : s.quietMem) (asid : Option Nat) (pa n : Nat) :
    ∃ cs, s.homeRead asid pa n = ({ s with counters := cs }, (List.range' pa n).map (cGet s.mem)) := by
  obtain ⟨cs, e⟩ := quiet_access h none asid true false pa n
  refine ⟨cs, ?_⟩
  simp only [State.homeRead, State.readFrom, e, State.peekBytes, Prod.mk.injEq, true_and]
  exact List.map_congr_left fun a _ => quiet_peek (quietMem_counters h cs) a

/-- Bytes that leave a core's L1 are no longer in it. -/
theorem dropL1_l1 (s : State) (c pa n : Nat) {x : Host.Cell} (h : x ∈ ((s.dropL1 c pa n).core c).l1) :
    x.1 < pa ∨ pa + n ≤ x.1 := by
  simp only [State.dropL1, State.setCore, State.core, List.getD_eq_getElem?_getD, List.getElem?_modify_eq] at h
  cases e : s.cores[c]? with
  | none => simp [e, Core.fresh] at h
  | some k => simp [e] at h; exact h.2

/-- A read at home for an instruction leaves none of its bytes in the core's L1 (R115, R134). -/
theorem readFor_l1 (s : State) (core asid pa n : Nat) {x : Host.Cell}
    (h : x ∈ ((s.readFor core asid pa n).1.core core).l1) : x.1 < pa ∨ pa + n ≤ x.1 := dropL1_l1 _ _ _ _ h

/-- It gives quiet memory's bytes. -/
theorem quiet_readFor {s : State} (h : s.quietMem) (core asid pa n : Nat) :
    ∃ cs, s.readFor core asid pa n =
      (State.dropL1 { s with counters := cs } core pa n, (List.range' pa n).map (cGet s.mem)) := by
  obtain ⟨cs, e⟩ := quiet_homeRead h (some asid) pa n
  exact ⟨cs, by simp only [State.readFor, e]⟩

/-- A write of the hub changes memory's bytes. -/
theorem quiet_homeWrite {s : State} (h : s.quietMem) (asid : Option Nat) (pa : Nat) (bs : List Byte) :
    ∃ cs, s.homeWrite asid pa bs = { s with counters := cs, mem := cWrite s.mem pa bs } := by
  obtain ⟨cs, e⟩ := quiet_access h none asid true true pa bs.length
  refine ⟨cs, ?_⟩
  have p : s.poisoned = [] := h.2.2.1
  simp [State.homeWrite, State.writeFrom, e, State.poke, p]

/-- An operation's accesses to quiet memory count their events and change nothing else. -/
theorem quiet_engReach {s : State} (h : s.quietMem) (die : Option Nat) (asid : Nat) (wr : Bool) (ls : List Loc) :
    ∃ cs, s.engReach die asid wr ls = { s with counters := cs } := by
  have hc : ∃ cs, s.engCount die asid wr ls = { s with counters := cs } := by
    unfold State.engCount
    dsimp only
    obtain ⟨cs, e⟩ := counters_foldl (s := s) (f := fun s r =>
        let n := (ls.filterMap Loc.pa?).countP fun a => rowOf a == r
        let home := some (s.homeDie (r * 1024))
        let s := (s.overUcie die home (some asid) (if wr then n else 0)).overUcie home die (some asid) (if wr then 0 else n)
        let s := s.countHome (r * 1024) 1 (some asid)
        if wr then s else s.countHome (r * 1024) 2 (some asid)) (by
      intro r cs
      dsimp only
      obtain ⟨_, e⟩ := overUcie_counters { s with counters := cs } die (some (State.homeDie { s with counters := cs } (r * 1024)))
        (some asid) (if wr then (ls.filterMap Loc.pa?).countP (fun a => rowOf a == r) else 0)
      rw [e]
      obtain ⟨_, e⟩ := overUcie_counters { s with counters := _ } (some (State.homeDie { s with counters := cs } (r * 1024))) die
        (some asid) (if wr then 0 else (ls.filterMap Loc.pa?).countP (fun a => rowOf a == r))
      rw [e]
      cases wr <;> exact ⟨_, rfl⟩) ((ls.filterMap Loc.pa?).map rowOf).dedup s.counters
    rw [show ({ s with counters := s.counters } : State) = s from rfl] at e
    rw [e]
    exact counters_foldl (by
      intro p cs
      split
      · exact ⟨_, rfl⟩
      · exact portFlits_counters { s with counters := cs } die (some asid) p _ _) [true, false] cs
  unfold State.engReach
  dsimp only
  obtain ⟨cs, e⟩ := hc
  rw [e]
  obtain ⟨ds, e⟩ := counters_foldl (s := s) (f := fun s r => s.demand (some asid) r)
    (fun r cs => quiet_demand (quietMem_counters h cs) (some asid) r) ((ls.filterMap Loc.pa?).map rowOf).dedup cs
  rw [e]
  exact counters_foldl (s := s) (f := fun s a => s.ceaseCells a 1)
    (fun a cs => ⟨cs, quiet_ceaseCells (quietMem_counters h cs) a 1⟩) _ ds

end Sys2Proof.Machine
end

