-- ==== Sys2Proof/Laws/State.lean ====
section
/-! SUPPORT. What each update of one part of State leaves alone: a lemma per field. -/

set_option Elab.async false

namespace Sys2Proof.Machine


/-! ### State.setGrp -/

@[simp] theorem State.setGrp_build (s : State) (i : Nat) (f : Group → Group) : (s.setGrp i f).build = s.build := rfl
@[simp] theorem State.setGrp_turns (s : State) (i : Nat) (f : Group → Group) : (s.setGrp i f).turns = s.turns := rfl
@[simp] theorem State.setGrp_cur (s : State) (i : Nat) (f : Group → Group) : (s.setGrp i f).cur = s.cur := rfl
@[simp] theorem State.setGrp_frozen (s : State) (i : Nat) (f : Group → Group) : (s.setGrp i f).frozen = s.frozen := rfl
@[simp] theorem State.setGrp_tapIr (s : State) (i : Nat) (f : Group → Group) : (s.setGrp i f).tapIr = s.tapIr := rfl
@[simp] theorem State.setGrp_tapOut (s : State) (i : Nat) (f : Group → Group) : (s.setGrp i f).tapOut = s.tapOut := rfl
@[simp] theorem State.setGrp_mem (s : State) (i : Nat) (f : Group → Group) : (s.setGrp i f).mem = s.mem := rfl
@[simp] theorem State.setGrp_hostMem (s : State) (i : Nat) (f : Group → Group) : (s.setGrp i f).hostMem = s.hostMem := rfl
@[simp] theorem State.setGrp_hostRanges (s : State) (i : Nat) (f : Group → Group) : (s.setGrp i f).hostRanges = s.hostRanges := rfl
@[simp] theorem State.setGrp_peerMem (s : State) (i : Nat) (f : Group → Group) : (s.setGrp i f).peerMem = s.peerMem := rfl
@[simp] theorem State.setGrp_tlb (s : State) (i : Nat) (f : Group → Group) : (s.setGrp i f).tlb = s.tlb := rfl
@[simp] theorem State.setGrp_cores (s : State) (i : Nat) (f : Group → Group) : (s.setGrp i f).cores = s.cores := rfl
@[simp] theorem State.setGrp_groups (s : State) (i : Nat) (f : Group → Group) : (s.setGrp i f).groups = s.groups.modify i f := rfl
@[simp] theorem State.setGrp_ops (s : State) (i : Nat) (f : Group → Group) : (s.setGrp i f).ops = s.ops := rfl
@[simp] theorem State.setGrp_nextOp (s : State) (i : Nat) (f : Group → Group) : (s.setGrp i f).nextOp = s.nextOp := rfl
@[simp] theorem State.setGrp_creds (s : State) (i : Nat) (f : Group → Group) : (s.setGrp i f).creds = s.creds := rfl
@[simp] theorem State.setGrp_rowFns (s : State) (i : Nat) (f : Group → Group) : (s.setGrp i f).rowFns = s.rowFns := rfl
@[simp] theorem State.setGrp_nextHandle (s : State) (i : Nat) (f : Group → Group) : (s.setGrp i f).nextHandle = s.nextHandle := rfl
@[simp] theorem State.setGrp_rowApps (s : State) (i : Nat) (f : Group → Group) : (s.setGrp i f).rowApps = s.rowApps := rfl
@[simp] theorem State.setGrp_poisoned (s : State) (i : Nat) (f : Group → Group) : (s.setGrp i f).poisoned = s.poisoned := rfl
@[simp] theorem State.setGrp_hardErrs (s : State) (i : Nat) (f : Group → Group) : (s.setGrp i f).hardErrs = s.hardErrs := rfl
@[simp] theorem State.setGrp_softErrs (s : State) (i : Nat) (f : Group → Group) : (s.setGrp i f).softErrs = s.softErrs := rfl
@[simp] theorem State.setGrp_corrected (s : State) (i : Nat) (f : Group → Group) : (s.setGrp i f).corrected = s.corrected := rfl
@[simp] theorem State.setGrp_sweep (s : State) (i : Nat) (f : Group → Group) : (s.setGrp i f).sweep = s.sweep := rfl
@[simp] theorem State.setGrp_cells (s : State) (i : Nat) (f : Group → Group) : (s.setGrp i f).cells = s.cells := rfl
@[simp] theorem State.setGrp_jobs (s : State) (i : Nat) (f : Group → Group) : (s.setGrp i f).jobs = s.jobs := rfl
@[simp] theorem State.setGrp_launches (s : State) (i : Nat) (f : Group → Group) : (s.setGrp i f).launches = s.launches := rfl
@[simp] theorem State.setGrp_insts (s : State) (i : Nat) (f : Group → Group) : (s.setGrp i f).insts = s.insts := rfl
@[simp] theorem State.setGrp_nextSerial (s : State) (i : Nat) (f : Group → Group) : (s.setGrp i f).nextSerial = s.nextSerial := rfl
@[simp] theorem State.setGrp_traps (s : State) (i : Nat) (f : Group → Group) : (s.setGrp i f).traps = s.traps := rfl
@[simp] theorem State.setGrp_parked (s : State) (i : Nat) (f : Group → Group) : (s.setGrp i f).parked = s.parked := rfl
@[simp] theorem State.setGrp_queues (s : State) (i : Nat) (f : Group → Group) : (s.setGrp i f).queues = s.queues := rfl
@[simp] theorem State.setGrp_hubClock (s : State) (i : Nat) (f : Group → Group) : (s.setGrp i f).hubClock = s.hubClock := rfl
@[simp] theorem State.setGrp_links (s : State) (i : Nat) (f : Group → Group) : (s.setGrp i f).links = s.links := rfl
@[simp] theorem State.setGrp_linkOut (s : State) (i : Nat) (f : Group → Group) : (s.setGrp i f).linkOut = s.linkOut := rfl
@[simp] theorem State.setGrp_colls (s : State) (i : Nat) (f : Group → Group) : (s.setGrp i f).colls = s.colls := rfl
@[simp] theorem State.setGrp_mgmt (s : State) (i : Nat) (f : Group → Group) : (s.setGrp i f).mgmt = s.mgmt := rfl
@[simp] theorem State.setGrp_nvIndex (s : State) (i : Nat) (f : Group → Group) : (s.setGrp i f).nvIndex = s.nvIndex := rfl
@[simp] theorem State.setGrp_counters (s : State) (i : Nat) (f : Group → Group) : (s.setGrp i f).counters = s.counters := rfl
@[simp] theorem State.setGrp_elog (s : State) (i : Nat) (f : Group → Group) : (s.setGrp i f).elog = s.elog := rfl
@[simp] theorem State.setGrp_errovf (s : State) (i : Nat) (f : Group → Group) : (s.setGrp i f).errovf = s.errovf := rfl
@[simp] theorem State.setGrp_msix (s : State) (i : Nat) (f : Group → Group) : (s.setGrp i f).msix = s.msix := rfl
@[simp] theorem State.setGrp_tripPin (s : State) (i : Nat) (f : Group → Group) : (s.setGrp i f).tripPin = s.tripPin := rfl
@[simp] theorem State.setGrp_portOut (s : State) (i : Nat) (f : Group → Group) : (s.setGrp i f).portOut = s.portOut := rfl

/-! ### State.setThr -/

@[simp] theorem State.setThr_build (s : State) (r : ThreadRef) (f : Thread → Thread) : (s.setThr r f).build = s.build := rfl
@[simp] theorem State.setThr_turns (s : State) (r : ThreadRef) (f : Thread → Thread) : (s.setThr r f).turns = s.turns := rfl
@[simp] theorem State.setThr_cur (s : State) (r : ThreadRef) (f : Thread → Thread) : (s.setThr r f).cur = s.cur := rfl
@[simp] theorem State.setThr_frozen (s : State) (r : ThreadRef) (f : Thread → Thread) : (s.setThr r f).frozen = s.frozen := rfl
@[simp] theorem State.setThr_tapIr (s : State) (r : ThreadRef) (f : Thread → Thread) : (s.setThr r f).tapIr = s.tapIr := rfl
@[simp] theorem State.setThr_tapOut (s : State) (r : ThreadRef) (f : Thread → Thread) : (s.setThr r f).tapOut = s.tapOut := rfl
@[simp] theorem State.setThr_mem (s : State) (r : ThreadRef) (f : Thread → Thread) : (s.setThr r f).mem = s.mem := rfl
@[simp] theorem State.setThr_hostMem (s : State) (r : ThreadRef) (f : Thread → Thread) : (s.setThr r f).hostMem = s.hostMem := rfl
@[simp] theorem State.setThr_hostRanges (s : State) (r : ThreadRef) (f : Thread → Thread) : (s.setThr r f).hostRanges = s.hostRanges := rfl
@[simp] theorem State.setThr_peerMem (s : State) (r : ThreadRef) (f : Thread → Thread) : (s.setThr r f).peerMem = s.peerMem := rfl
@[simp] theorem State.setThr_tlb (s : State) (r : ThreadRef) (f : Thread → Thread) : (s.setThr r f).tlb = s.tlb := rfl
@[simp] theorem State.setThr_cores (s : State) (r : ThreadRef) (f : Thread → Thread) : (s.setThr r f).cores = s.cores := rfl
@[simp] theorem State.setThr_groups (s : State) (r : ThreadRef) (f : Thread → Thread) : (s.setThr r f).groups = s.groups.modify r.grp fun g => { g with threads := g.threads.modify r.tid f } := rfl
@[simp] theorem State.setThr_ops (s : State) (r : ThreadRef) (f : Thread → Thread) : (s.setThr r f).ops = s.ops := rfl
@[simp] theorem State.setThr_nextOp (s : State) (r : ThreadRef) (f : Thread → Thread) : (s.setThr r f).nextOp = s.nextOp := rfl
@[simp] theorem State.setThr_creds (s : State) (r : ThreadRef) (f : Thread → Thread) : (s.setThr r f).creds = s.creds := rfl
@[simp] theorem State.setThr_rowFns (s : State) (r : ThreadRef) (f : Thread → Thread) : (s.setThr r f).rowFns = s.rowFns := rfl
@[simp] theorem State.setThr_nextHandle (s : State) (r : ThreadRef) (f : Thread → Thread) : (s.setThr r f).nextHandle = s.nextHandle := rfl
@[simp] theorem State.setThr_rowApps (s : State) (r : ThreadRef) (f : Thread → Thread) : (s.setThr r f).rowApps = s.rowApps := rfl
@[simp] theorem State.setThr_poisoned (s : State) (r : ThreadRef) (f : Thread → Thread) : (s.setThr r f).poisoned = s.poisoned := rfl
@[simp] theorem State.setThr_hardErrs (s : State) (r : ThreadRef) (f : Thread → Thread) : (s.setThr r f).hardErrs = s.hardErrs := rfl
@[simp] theorem State.setThr_softErrs (s : State) (r : ThreadRef) (f : Thread → Thread) : (s.setThr r f).softErrs = s.softErrs := rfl
@[simp] theorem State.setThr_corrected (s : State) (r : ThreadRef) (f : Thread → Thread) : (s.setThr r f).corrected = s.corrected := rfl
@[simp] theorem State.setThr_sweep (s : State) (r : ThreadRef) (f : Thread → Thread) : (s.setThr r f).sweep = s.sweep := rfl
@[simp] theorem State.setThr_cells (s : State) (r : ThreadRef) (f : Thread → Thread) : (s.setThr r f).cells = s.cells := rfl
@[simp] theorem State.setThr_jobs (s : State) (r : ThreadRef) (f : Thread → Thread) : (s.setThr r f).jobs = s.jobs := rfl
@[simp] theorem State.setThr_launches (s : State) (r : ThreadRef) (f : Thread → Thread) : (s.setThr r f).launches = s.launches := rfl
@[simp] theorem State.setThr_insts (s : State) (r : ThreadRef) (f : Thread → Thread) : (s.setThr r f).insts = s.insts := rfl
@[simp] theorem State.setThr_nextSerial (s : State) (r : ThreadRef) (f : Thread → Thread) : (s.setThr r f).nextSerial = s.nextSerial := rfl
@[simp] theorem State.setThr_traps (s : State) (r : ThreadRef) (f : Thread → Thread) : (s.setThr r f).traps = s.traps := rfl
@[simp] theorem State.setThr_parked (s : State) (r : ThreadRef) (f : Thread → Thread) : (s.setThr r f).parked = s.parked := rfl
@[simp] theorem State.setThr_queues (s : State) (r : ThreadRef) (f : Thread → Thread) : (s.setThr r f).queues = s.queues := rfl
@[simp] theorem State.setThr_hubClock (s : State) (r : ThreadRef) (f : Thread → Thread) : (s.setThr r f).hubClock = s.hubClock := rfl
@[simp] theorem State.setThr_links (s : State) (r : ThreadRef) (f : Thread → Thread) : (s.setThr r f).links = s.links := rfl
@[simp] theorem State.setThr_linkOut (s : State) (r : ThreadRef) (f : Thread → Thread) : (s.setThr r f).linkOut = s.linkOut := rfl
@[simp] theorem State.setThr_colls (s : State) (r : ThreadRef) (f : Thread → Thread) : (s.setThr r f).colls = s.colls := rfl
@[simp] theorem State.setThr_mgmt (s : State) (r : ThreadRef) (f : Thread → Thread) : (s.setThr r f).mgmt = s.mgmt := rfl
@[simp] theorem State.setThr_nvIndex (s : State) (r : ThreadRef) (f : Thread → Thread) : (s.setThr r f).nvIndex = s.nvIndex := rfl
@[simp] theorem State.setThr_counters (s : State) (r : ThreadRef) (f : Thread → Thread) : (s.setThr r f).counters = s.counters := rfl
@[simp] theorem State.setThr_elog (s : State) (r : ThreadRef) (f : Thread → Thread) : (s.setThr r f).elog = s.elog := rfl
@[simp] theorem State.setThr_errovf (s : State) (r : ThreadRef) (f : Thread → Thread) : (s.setThr r f).errovf = s.errovf := rfl
@[simp] theorem State.setThr_msix (s : State) (r : ThreadRef) (f : Thread → Thread) : (s.setThr r f).msix = s.msix := rfl
@[simp] theorem State.setThr_tripPin (s : State) (r : ThreadRef) (f : Thread → Thread) : (s.setThr r f).tripPin = s.tripPin := rfl
@[simp] theorem State.setThr_portOut (s : State) (r : ThreadRef) (f : Thread → Thread) : (s.setThr r f).portOut = s.portOut := rfl

/-! ### State.setLive -/

@[simp] theorem State.setLive_build (s : State) (r : ThreadRef) (f : Thread → Thread) : (s.setLive r f).build = s.build := rfl
@[simp] theorem State.setLive_turns (s : State) (r : ThreadRef) (f : Thread → Thread) : (s.setLive r f).turns = s.turns := rfl
@[simp] theorem State.setLive_cur (s : State) (r : ThreadRef) (f : Thread → Thread) : (s.setLive r f).cur = s.cur := rfl
@[simp] theorem State.setLive_frozen (s : State) (r : ThreadRef) (f : Thread → Thread) : (s.setLive r f).frozen = s.frozen := rfl
@[simp] theorem State.setLive_tapIr (s : State) (r : ThreadRef) (f : Thread → Thread) : (s.setLive r f).tapIr = s.tapIr := rfl
@[simp] theorem State.setLive_tapOut (s : State) (r : ThreadRef) (f : Thread → Thread) : (s.setLive r f).tapOut = s.tapOut := rfl
@[simp] theorem State.setLive_mem (s : State) (r : ThreadRef) (f : Thread → Thread) : (s.setLive r f).mem = s.mem := rfl
@[simp] theorem State.setLive_hostMem (s : State) (r : ThreadRef) (f : Thread → Thread) : (s.setLive r f).hostMem = s.hostMem := rfl
@[simp] theorem State.setLive_hostRanges (s : State) (r : ThreadRef) (f : Thread → Thread) : (s.setLive r f).hostRanges = s.hostRanges := rfl
@[simp] theorem State.setLive_peerMem (s : State) (r : ThreadRef) (f : Thread → Thread) : (s.setLive r f).peerMem = s.peerMem := rfl
@[simp] theorem State.setLive_tlb (s : State) (r : ThreadRef) (f : Thread → Thread) : (s.setLive r f).tlb = s.tlb := rfl
@[simp] theorem State.setLive_cores (s : State) (r : ThreadRef) (f : Thread → Thread) : (s.setLive r f).cores = s.cores := rfl
@[simp] theorem State.setLive_ops (s : State) (r : ThreadRef) (f : Thread → Thread) : (s.setLive r f).ops = s.ops := rfl
@[simp] theorem State.setLive_nextOp (s : State) (r : ThreadRef) (f : Thread → Thread) : (s.setLive r f).nextOp = s.nextOp := rfl
@[simp] theorem State.setLive_creds (s : State) (r : ThreadRef) (f : Thread → Thread) : (s.setLive r f).creds = s.creds := rfl
@[simp] theorem State.setLive_rowFns (s : State) (r : ThreadRef) (f : Thread → Thread) : (s.setLive r f).rowFns = s.rowFns := rfl
@[simp] theorem State.setLive_nextHandle (s : State) (r : ThreadRef) (f : Thread → Thread) : (s.setLive r f).nextHandle = s.nextHandle := rfl
@[simp] theorem State.setLive_rowApps (s : State) (r : ThreadRef) (f : Thread → Thread) : (s.setLive r f).rowApps = s.rowApps := rfl
@[simp] theorem State.setLive_poisoned (s : State) (r : ThreadRef) (f : Thread → Thread) : (s.setLive r f).poisoned = s.poisoned := rfl
@[simp] theorem State.setLive_hardErrs (s : State) (r : ThreadRef) (f : Thread → Thread) : (s.setLive r f).hardErrs = s.hardErrs := rfl
@[simp] theorem State.setLive_softErrs (s : State) (r : ThreadRef) (f : Thread → Thread) : (s.setLive r f).softErrs = s.softErrs := rfl
@[simp] theorem State.setLive_corrected (s : State) (r : ThreadRef) (f : Thread → Thread) : (s.setLive r f).corrected = s.corrected := rfl
@[simp] theorem State.setLive_sweep (s : State) (r : ThreadRef) (f : Thread → Thread) : (s.setLive r f).sweep = s.sweep := rfl
@[simp] theorem State.setLive_cells (s : State) (r : ThreadRef) (f : Thread → Thread) : (s.setLive r f).cells = s.cells := rfl
@[simp] theorem State.setLive_jobs (s : State) (r : ThreadRef) (f : Thread → Thread) : (s.setLive r f).jobs = s.jobs := rfl
@[simp] theorem State.setLive_launches (s : State) (r : ThreadRef) (f : Thread → Thread) : (s.setLive r f).launches = s.launches := rfl
@[simp] theorem State.setLive_insts (s : State) (r : ThreadRef) (f : Thread → Thread) : (s.setLive r f).insts = s.insts := rfl
@[simp] theorem State.setLive_nextSerial (s : State) (r : ThreadRef) (f : Thread → Thread) : (s.setLive r f).nextSerial = s.nextSerial := rfl
@[simp] theorem State.setLive_traps (s : State) (r : ThreadRef) (f : Thread → Thread) : (s.setLive r f).traps = s.traps := rfl
@[simp] theorem State.setLive_parked (s : State) (r : ThreadRef) (f : Thread → Thread) : (s.setLive r f).parked = s.parked := rfl
@[simp] theorem State.setLive_queues (s : State) (r : ThreadRef) (f : Thread → Thread) : (s.setLive r f).queues = s.queues := rfl
@[simp] theorem State.setLive_hubClock (s : State) (r : ThreadRef) (f : Thread → Thread) : (s.setLive r f).hubClock = s.hubClock := rfl
@[simp] theorem State.setLive_links (s : State) (r : ThreadRef) (f : Thread → Thread) : (s.setLive r f).links = s.links := rfl
@[simp] theorem State.setLive_linkOut (s : State) (r : ThreadRef) (f : Thread → Thread) : (s.setLive r f).linkOut = s.linkOut := rfl
@[simp] theorem State.setLive_colls (s : State) (r : ThreadRef) (f : Thread → Thread) : (s.setLive r f).colls = s.colls := rfl
@[simp] theorem State.setLive_mgmt (s : State) (r : ThreadRef) (f : Thread → Thread) : (s.setLive r f).mgmt = s.mgmt := rfl
@[simp] theorem State.setLive_nvIndex (s : State) (r : ThreadRef) (f : Thread → Thread) : (s.setLive r f).nvIndex = s.nvIndex := rfl
@[simp] theorem State.setLive_counters (s : State) (r : ThreadRef) (f : Thread → Thread) : (s.setLive r f).counters = s.counters := rfl
@[simp] theorem State.setLive_elog (s : State) (r : ThreadRef) (f : Thread → Thread) : (s.setLive r f).elog = s.elog := rfl
@[simp] theorem State.setLive_errovf (s : State) (r : ThreadRef) (f : Thread → Thread) : (s.setLive r f).errovf = s.errovf := rfl
@[simp] theorem State.setLive_msix (s : State) (r : ThreadRef) (f : Thread → Thread) : (s.setLive r f).msix = s.msix := rfl
@[simp] theorem State.setLive_tripPin (s : State) (r : ThreadRef) (f : Thread → Thread) : (s.setLive r f).tripPin = s.tripPin := rfl
@[simp] theorem State.setLive_portOut (s : State) (r : ThreadRef) (f : Thread → Thread) : (s.setLive r f).portOut = s.portOut := rfl

/-! ### State.setCore -/

@[simp] theorem State.setCore_build (s : State) (c : Nat) (f : Core → Core) : (s.setCore c f).build = s.build := rfl
@[simp] theorem State.setCore_turns (s : State) (c : Nat) (f : Core → Core) : (s.setCore c f).turns = s.turns := rfl
@[simp] theorem State.setCore_cur (s : State) (c : Nat) (f : Core → Core) : (s.setCore c f).cur = s.cur := rfl
@[simp] theorem State.setCore_frozen (s : State) (c : Nat) (f : Core → Core) : (s.setCore c f).frozen = s.frozen := rfl
@[simp] theorem State.setCore_tapIr (s : State) (c : Nat) (f : Core → Core) : (s.setCore c f).tapIr = s.tapIr := rfl
@[simp] theorem State.setCore_tapOut (s : State) (c : Nat) (f : Core → Core) : (s.setCore c f).tapOut = s.tapOut := rfl
@[simp] theorem State.setCore_mem (s : State) (c : Nat) (f : Core → Core) : (s.setCore c f).mem = s.mem := rfl
@[simp] theorem State.setCore_hostMem (s : State) (c : Nat) (f : Core → Core) : (s.setCore c f).hostMem = s.hostMem := rfl
@[simp] theorem State.setCore_hostRanges (s : State) (c : Nat) (f : Core → Core) : (s.setCore c f).hostRanges = s.hostRanges := rfl
@[simp] theorem State.setCore_peerMem (s : State) (c : Nat) (f : Core → Core) : (s.setCore c f).peerMem = s.peerMem := rfl
@[simp] theorem State.setCore_tlb (s : State) (c : Nat) (f : Core → Core) : (s.setCore c f).tlb = s.tlb := rfl
@[simp] theorem State.setCore_cores (s : State) (c : Nat) (f : Core → Core) : (s.setCore c f).cores = s.cores.modify c f := rfl
@[simp] theorem State.setCore_groups (s : State) (c : Nat) (f : Core → Core) : (s.setCore c f).groups = s.groups := rfl
@[simp] theorem State.setCore_ops (s : State) (c : Nat) (f : Core → Core) : (s.setCore c f).ops = s.ops := rfl
@[simp] theorem State.setCore_nextOp (s : State) (c : Nat) (f : Core → Core) : (s.setCore c f).nextOp = s.nextOp := rfl
@[simp] theorem State.setCore_creds (s : State) (c : Nat) (f : Core → Core) : (s.setCore c f).creds = s.creds := rfl
@[simp] theorem State.setCore_rowFns (s : State) (c : Nat) (f : Core → Core) : (s.setCore c f).rowFns = s.rowFns := rfl
@[simp] theorem State.setCore_nextHandle (s : State) (c : Nat) (f : Core → Core) : (s.setCore c f).nextHandle = s.nextHandle := rfl
@[simp] theorem State.setCore_rowApps (s : State) (c : Nat) (f : Core → Core) : (s.setCore c f).rowApps = s.rowApps := rfl
@[simp] theorem State.setCore_poisoned (s : State) (c : Nat) (f : Core → Core) : (s.setCore c f).poisoned = s.poisoned := rfl
@[simp] theorem State.setCore_hardErrs (s : State) (c : Nat) (f : Core → Core) : (s.setCore c f).hardErrs = s.hardErrs := rfl
@[simp] theorem State.setCore_softErrs (s : State) (c : Nat) (f : Core → Core) : (s.setCore c f).softErrs = s.softErrs := rfl
@[simp] theorem State.setCore_corrected (s : State) (c : Nat) (f : Core → Core) : (s.setCore c f).corrected = s.corrected := rfl
@[simp] theorem State.setCore_sweep (s : State) (c : Nat) (f : Core → Core) : (s.setCore c f).sweep = s.sweep := rfl
@[simp] theorem State.setCore_cells (s : State) (c : Nat) (f : Core → Core) : (s.setCore c f).cells = s.cells := rfl
@[simp] theorem State.setCore_jobs (s : State) (c : Nat) (f : Core → Core) : (s.setCore c f).jobs = s.jobs := rfl
@[simp] theorem State.setCore_launches (s : State) (c : Nat) (f : Core → Core) : (s.setCore c f).launches = s.launches := rfl
@[simp] theorem State.setCore_insts (s : State) (c : Nat) (f : Core → Core) : (s.setCore c f).insts = s.insts := rfl
@[simp] theorem State.setCore_nextSerial (s : State) (c : Nat) (f : Core → Core) : (s.setCore c f).nextSerial = s.nextSerial := rfl
@[simp] theorem State.setCore_traps (s : State) (c : Nat) (f : Core → Core) : (s.setCore c f).traps = s.traps := rfl
@[simp] theorem State.setCore_parked (s : State) (c : Nat) (f : Core → Core) : (s.setCore c f).parked = s.parked := rfl
@[simp] theorem State.setCore_queues (s : State) (c : Nat) (f : Core → Core) : (s.setCore c f).queues = s.queues := rfl
@[simp] theorem State.setCore_hubClock (s : State) (c : Nat) (f : Core → Core) : (s.setCore c f).hubClock = s.hubClock := rfl
@[simp] theorem State.setCore_links (s : State) (c : Nat) (f : Core → Core) : (s.setCore c f).links = s.links := rfl
@[simp] theorem State.setCore_linkOut (s : State) (c : Nat) (f : Core → Core) : (s.setCore c f).linkOut = s.linkOut := rfl
@[simp] theorem State.setCore_colls (s : State) (c : Nat) (f : Core → Core) : (s.setCore c f).colls = s.colls := rfl
@[simp] theorem State.setCore_mgmt (s : State) (c : Nat) (f : Core → Core) : (s.setCore c f).mgmt = s.mgmt := rfl
@[simp] theorem State.setCore_nvIndex (s : State) (c : Nat) (f : Core → Core) : (s.setCore c f).nvIndex = s.nvIndex := rfl
@[simp] theorem State.setCore_counters (s : State) (c : Nat) (f : Core → Core) : (s.setCore c f).counters = s.counters := rfl
@[simp] theorem State.setCore_elog (s : State) (c : Nat) (f : Core → Core) : (s.setCore c f).elog = s.elog := rfl
@[simp] theorem State.setCore_errovf (s : State) (c : Nat) (f : Core → Core) : (s.setCore c f).errovf = s.errovf := rfl
@[simp] theorem State.setCore_msix (s : State) (c : Nat) (f : Core → Core) : (s.setCore c f).msix = s.msix := rfl
@[simp] theorem State.setCore_tripPin (s : State) (c : Nat) (f : Core → Core) : (s.setCore c f).tripPin = s.tripPin := rfl
@[simp] theorem State.setCore_portOut (s : State) (c : Nat) (f : Core → Core) : (s.setCore c f).portOut = s.portOut := rfl

/-! ### State.clearL1 -/

@[simp] theorem State.clearL1_build (s : State) (c : Nat) : (s.clearL1 c).build = s.build := rfl
@[simp] theorem State.clearL1_turns (s : State) (c : Nat) : (s.clearL1 c).turns = s.turns := rfl
@[simp] theorem State.clearL1_cur (s : State) (c : Nat) : (s.clearL1 c).cur = s.cur := rfl
@[simp] theorem State.clearL1_frozen (s : State) (c : Nat) : (s.clearL1 c).frozen = s.frozen := rfl
@[simp] theorem State.clearL1_tapIr (s : State) (c : Nat) : (s.clearL1 c).tapIr = s.tapIr := rfl
@[simp] theorem State.clearL1_tapOut (s : State) (c : Nat) : (s.clearL1 c).tapOut = s.tapOut := rfl
@[simp] theorem State.clearL1_mem (s : State) (c : Nat) : (s.clearL1 c).mem = s.mem := rfl
@[simp] theorem State.clearL1_hostMem (s : State) (c : Nat) : (s.clearL1 c).hostMem = s.hostMem := rfl
@[simp] theorem State.clearL1_hostRanges (s : State) (c : Nat) : (s.clearL1 c).hostRanges = s.hostRanges := rfl
@[simp] theorem State.clearL1_peerMem (s : State) (c : Nat) : (s.clearL1 c).peerMem = s.peerMem := rfl
@[simp] theorem State.clearL1_tlb (s : State) (c : Nat) : (s.clearL1 c).tlb = s.tlb := rfl
@[simp] theorem State.clearL1_groups (s : State) (c : Nat) : (s.clearL1 c).groups = s.groups := rfl
@[simp] theorem State.clearL1_ops (s : State) (c : Nat) : (s.clearL1 c).ops = s.ops := rfl
@[simp] theorem State.clearL1_nextOp (s : State) (c : Nat) : (s.clearL1 c).nextOp = s.nextOp := rfl
@[simp] theorem State.clearL1_creds (s : State) (c : Nat) : (s.clearL1 c).creds = s.creds := rfl
@[simp] theorem State.clearL1_rowFns (s : State) (c : Nat) : (s.clearL1 c).rowFns = s.rowFns := rfl
@[simp] theorem State.clearL1_nextHandle (s : State) (c : Nat) : (s.clearL1 c).nextHandle = s.nextHandle := rfl
@[simp] theorem State.clearL1_rowApps (s : State) (c : Nat) : (s.clearL1 c).rowApps = s.rowApps := rfl
@[simp] theorem State.clearL1_poisoned (s : State) (c : Nat) : (s.clearL1 c).poisoned = s.poisoned := rfl
@[simp] theorem State.clearL1_hardErrs (s : State) (c : Nat) : (s.clearL1 c).hardErrs = s.hardErrs := rfl
@[simp] theorem State.clearL1_softErrs (s : State) (c : Nat) : (s.clearL1 c).softErrs = s.softErrs := rfl
@[simp] theorem State.clearL1_corrected (s : State) (c : Nat) : (s.clearL1 c).corrected = s.corrected := rfl
@[simp] theorem State.clearL1_sweep (s : State) (c : Nat) : (s.clearL1 c).sweep = s.sweep := rfl
@[simp] theorem State.clearL1_cells (s : State) (c : Nat) : (s.clearL1 c).cells = s.cells := rfl
@[simp] theorem State.clearL1_jobs (s : State) (c : Nat) : (s.clearL1 c).jobs = s.jobs := rfl
@[simp] theorem State.clearL1_launches (s : State) (c : Nat) : (s.clearL1 c).launches = s.launches := rfl
@[simp] theorem State.clearL1_insts (s : State) (c : Nat) : (s.clearL1 c).insts = s.insts := rfl
@[simp] theorem State.clearL1_nextSerial (s : State) (c : Nat) : (s.clearL1 c).nextSerial = s.nextSerial := rfl
@[simp] theorem State.clearL1_traps (s : State) (c : Nat) : (s.clearL1 c).traps = s.traps := rfl
@[simp] theorem State.clearL1_parked (s : State) (c : Nat) : (s.clearL1 c).parked = s.parked := rfl
@[simp] theorem State.clearL1_queues (s : State) (c : Nat) : (s.clearL1 c).queues = s.queues := rfl
@[simp] theorem State.clearL1_hubClock (s : State) (c : Nat) : (s.clearL1 c).hubClock = s.hubClock := rfl
@[simp] theorem State.clearL1_links (s : State) (c : Nat) : (s.clearL1 c).links = s.links := rfl
@[simp] theorem State.clearL1_linkOut (s : State) (c : Nat) : (s.clearL1 c).linkOut = s.linkOut := rfl
@[simp] theorem State.clearL1_colls (s : State) (c : Nat) : (s.clearL1 c).colls = s.colls := rfl
@[simp] theorem State.clearL1_mgmt (s : State) (c : Nat) : (s.clearL1 c).mgmt = s.mgmt := rfl
@[simp] theorem State.clearL1_nvIndex (s : State) (c : Nat) : (s.clearL1 c).nvIndex = s.nvIndex := rfl
@[simp] theorem State.clearL1_counters (s : State) (c : Nat) : (s.clearL1 c).counters = s.counters := rfl
@[simp] theorem State.clearL1_elog (s : State) (c : Nat) : (s.clearL1 c).elog = s.elog := rfl
@[simp] theorem State.clearL1_errovf (s : State) (c : Nat) : (s.clearL1 c).errovf = s.errovf := rfl
@[simp] theorem State.clearL1_msix (s : State) (c : Nat) : (s.clearL1 c).msix = s.msix := rfl
@[simp] theorem State.clearL1_tripPin (s : State) (c : Nat) : (s.clearL1 c).tripPin = s.tripPin := rfl
@[simp] theorem State.clearL1_portOut (s : State) (c : Nat) : (s.clearL1 c).portOut = s.portOut := rfl

/-! ### State.dropL1 -/

@[simp] theorem State.dropL1_build (s : State) (c pa n : Nat) : (s.dropL1 c pa n).build = s.build := rfl
@[simp] theorem State.dropL1_turns (s : State) (c pa n : Nat) : (s.dropL1 c pa n).turns = s.turns := rfl
@[simp] theorem State.dropL1_cur (s : State) (c pa n : Nat) : (s.dropL1 c pa n).cur = s.cur := rfl
@[simp] theorem State.dropL1_frozen (s : State) (c pa n : Nat) : (s.dropL1 c pa n).frozen = s.frozen := rfl
@[simp] theorem State.dropL1_tapIr (s : State) (c pa n : Nat) : (s.dropL1 c pa n).tapIr = s.tapIr := rfl
@[simp] theorem State.dropL1_tapOut (s : State) (c pa n : Nat) : (s.dropL1 c pa n).tapOut = s.tapOut := rfl
@[simp] theorem State.dropL1_mem (s : State) (c pa n : Nat) : (s.dropL1 c pa n).mem = s.mem := rfl
@[simp] theorem State.dropL1_hostMem (s : State) (c pa n : Nat) : (s.dropL1 c pa n).hostMem = s.hostMem := rfl
@[simp] theorem State.dropL1_hostRanges (s : State) (c pa n : Nat) : (s.dropL1 c pa n).hostRanges = s.hostRanges := rfl
@[simp] theorem State.dropL1_peerMem (s : State) (c pa n : Nat) : (s.dropL1 c pa n).peerMem = s.peerMem := rfl
@[simp] theorem State.dropL1_tlb (s : State) (c pa n : Nat) : (s.dropL1 c pa n).tlb = s.tlb := rfl
@[simp] theorem State.dropL1_groups (s : State) (c pa n : Nat) : (s.dropL1 c pa n).groups = s.groups := rfl
@[simp] theorem State.dropL1_ops (s : State) (c pa n : Nat) : (s.dropL1 c pa n).ops = s.ops := rfl
@[simp] theorem State.dropL1_nextOp (s : State) (c pa n : Nat) : (s.dropL1 c pa n).nextOp = s.nextOp := rfl
@[simp] theorem State.dropL1_creds (s : State) (c pa n : Nat) : (s.dropL1 c pa n).creds = s.creds := rfl
@[simp] theorem State.dropL1_rowFns (s : State) (c pa n : Nat) : (s.dropL1 c pa n).rowFns = s.rowFns := rfl
@[simp] theorem State.dropL1_nextHandle (s : State) (c pa n : Nat) : (s.dropL1 c pa n).nextHandle = s.nextHandle := rfl
@[simp] theorem State.dropL1_rowApps (s : State) (c pa n : Nat) : (s.dropL1 c pa n).rowApps = s.rowApps := rfl
@[simp] theorem State.dropL1_poisoned (s : State) (c pa n : Nat) : (s.dropL1 c pa n).poisoned = s.poisoned := rfl
@[simp] theorem State.dropL1_hardErrs (s : State) (c pa n : Nat) : (s.dropL1 c pa n).hardErrs = s.hardErrs := rfl
@[simp] theorem State.dropL1_softErrs (s : State) (c pa n : Nat) : (s.dropL1 c pa n).softErrs = s.softErrs := rfl
@[simp] theorem State.dropL1_corrected (s : State) (c pa n : Nat) : (s.dropL1 c pa n).corrected = s.corrected := rfl
@[simp] theorem State.dropL1_sweep (s : State) (c pa n : Nat) : (s.dropL1 c pa n).sweep = s.sweep := rfl
@[simp] theorem State.dropL1_cells (s : State) (c pa n : Nat) : (s.dropL1 c pa n).cells = s.cells := rfl
@[simp] theorem State.dropL1_jobs (s : State) (c pa n : Nat) : (s.dropL1 c pa n).jobs = s.jobs := rfl
@[simp] theorem State.dropL1_launches (s : State) (c pa n : Nat) : (s.dropL1 c pa n).launches = s.launches := rfl
@[simp] theorem State.dropL1_insts (s : State) (c pa n : Nat) : (s.dropL1 c pa n).insts = s.insts := rfl
@[simp] theorem State.dropL1_nextSerial (s : State) (c pa n : Nat) : (s.dropL1 c pa n).nextSerial = s.nextSerial := rfl
@[simp] theorem State.dropL1_traps (s : State) (c pa n : Nat) : (s.dropL1 c pa n).traps = s.traps := rfl
@[simp] theorem State.dropL1_parked (s : State) (c pa n : Nat) : (s.dropL1 c pa n).parked = s.parked := rfl
@[simp] theorem State.dropL1_queues (s : State) (c pa n : Nat) : (s.dropL1 c pa n).queues = s.queues := rfl
@[simp] theorem State.dropL1_hubClock (s : State) (c pa n : Nat) : (s.dropL1 c pa n).hubClock = s.hubClock := rfl
@[simp] theorem State.dropL1_links (s : State) (c pa n : Nat) : (s.dropL1 c pa n).links = s.links := rfl
@[simp] theorem State.dropL1_linkOut (s : State) (c pa n : Nat) : (s.dropL1 c pa n).linkOut = s.linkOut := rfl
@[simp] theorem State.dropL1_colls (s : State) (c pa n : Nat) : (s.dropL1 c pa n).colls = s.colls := rfl
@[simp] theorem State.dropL1_mgmt (s : State) (c pa n : Nat) : (s.dropL1 c pa n).mgmt = s.mgmt := rfl
@[simp] theorem State.dropL1_nvIndex (s : State) (c pa n : Nat) : (s.dropL1 c pa n).nvIndex = s.nvIndex := rfl
@[simp] theorem State.dropL1_counters (s : State) (c pa n : Nat) : (s.dropL1 c pa n).counters = s.counters := rfl
@[simp] theorem State.dropL1_elog (s : State) (c pa n : Nat) : (s.dropL1 c pa n).elog = s.elog := rfl
@[simp] theorem State.dropL1_errovf (s : State) (c pa n : Nat) : (s.dropL1 c pa n).errovf = s.errovf := rfl
@[simp] theorem State.dropL1_msix (s : State) (c pa n : Nat) : (s.dropL1 c pa n).msix = s.msix := rfl
@[simp] theorem State.dropL1_tripPin (s : State) (c pa n : Nat) : (s.dropL1 c pa n).tripPin = s.tripPin := rfl
@[simp] theorem State.dropL1_portOut (s : State) (c pa n : Nat) : (s.dropL1 c pa n).portOut = s.portOut := rfl

/-! ### State.setJob -/

@[simp] theorem State.setJob_build (s : State) (a : Nat) (f : Job → Job) : (s.setJob a f).build = s.build := rfl
@[simp] theorem State.setJob_turns (s : State) (a : Nat) (f : Job → Job) : (s.setJob a f).turns = s.turns := rfl
@[simp] theorem State.setJob_cur (s : State) (a : Nat) (f : Job → Job) : (s.setJob a f).cur = s.cur := rfl
@[simp] theorem State.setJob_frozen (s : State) (a : Nat) (f : Job → Job) : (s.setJob a f).frozen = s.frozen := rfl
@[simp] theorem State.setJob_tapIr (s : State) (a : Nat) (f : Job → Job) : (s.setJob a f).tapIr = s.tapIr := rfl
@[simp] theorem State.setJob_tapOut (s : State) (a : Nat) (f : Job → Job) : (s.setJob a f).tapOut = s.tapOut := rfl
@[simp] theorem State.setJob_mem (s : State) (a : Nat) (f : Job → Job) : (s.setJob a f).mem = s.mem := rfl
@[simp] theorem State.setJob_hostMem (s : State) (a : Nat) (f : Job → Job) : (s.setJob a f).hostMem = s.hostMem := rfl
@[simp] theorem State.setJob_hostRanges (s : State) (a : Nat) (f : Job → Job) : (s.setJob a f).hostRanges = s.hostRanges := rfl
@[simp] theorem State.setJob_peerMem (s : State) (a : Nat) (f : Job → Job) : (s.setJob a f).peerMem = s.peerMem := rfl
@[simp] theorem State.setJob_tlb (s : State) (a : Nat) (f : Job → Job) : (s.setJob a f).tlb = s.tlb := rfl
@[simp] theorem State.setJob_cores (s : State) (a : Nat) (f : Job → Job) : (s.setJob a f).cores = s.cores := rfl
@[simp] theorem State.setJob_groups (s : State) (a : Nat) (f : Job → Job) : (s.setJob a f).groups = s.groups := rfl
@[simp] theorem State.setJob_ops (s : State) (a : Nat) (f : Job → Job) : (s.setJob a f).ops = s.ops := rfl
@[simp] theorem State.setJob_nextOp (s : State) (a : Nat) (f : Job → Job) : (s.setJob a f).nextOp = s.nextOp := rfl
@[simp] theorem State.setJob_creds (s : State) (a : Nat) (f : Job → Job) : (s.setJob a f).creds = s.creds := rfl
@[simp] theorem State.setJob_rowFns (s : State) (a : Nat) (f : Job → Job) : (s.setJob a f).rowFns = s.rowFns := rfl
@[simp] theorem State.setJob_nextHandle (s : State) (a : Nat) (f : Job → Job) : (s.setJob a f).nextHandle = s.nextHandle := rfl
@[simp] theorem State.setJob_rowApps (s : State) (a : Nat) (f : Job → Job) : (s.setJob a f).rowApps = s.rowApps := rfl
@[simp] theorem State.setJob_poisoned (s : State) (a : Nat) (f : Job → Job) : (s.setJob a f).poisoned = s.poisoned := rfl
@[simp] theorem State.setJob_hardErrs (s : State) (a : Nat) (f : Job → Job) : (s.setJob a f).hardErrs = s.hardErrs := rfl
@[simp] theorem State.setJob_softErrs (s : State) (a : Nat) (f : Job → Job) : (s.setJob a f).softErrs = s.softErrs := rfl
@[simp] theorem State.setJob_corrected (s : State) (a : Nat) (f : Job → Job) : (s.setJob a f).corrected = s.corrected := rfl
@[simp] theorem State.setJob_sweep (s : State) (a : Nat) (f : Job → Job) : (s.setJob a f).sweep = s.sweep := rfl
@[simp] theorem State.setJob_cells (s : State) (a : Nat) (f : Job → Job) : (s.setJob a f).cells = s.cells := rfl
@[simp] theorem State.setJob_jobs (s : State) (a : Nat) (f : Job → Job) : (s.setJob a f).jobs = s.jobs.map fun j => if j.desc.asid = a then f j else j := rfl
@[simp] theorem State.setJob_launches (s : State) (a : Nat) (f : Job → Job) : (s.setJob a f).launches = s.launches := rfl
@[simp] theorem State.setJob_insts (s : State) (a : Nat) (f : Job → Job) : (s.setJob a f).insts = s.insts := rfl
@[simp] theorem State.setJob_nextSerial (s : State) (a : Nat) (f : Job → Job) : (s.setJob a f).nextSerial = s.nextSerial := rfl
@[simp] theorem State.setJob_traps (s : State) (a : Nat) (f : Job → Job) : (s.setJob a f).traps = s.traps := rfl
@[simp] theorem State.setJob_parked (s : State) (a : Nat) (f : Job → Job) : (s.setJob a f).parked = s.parked := rfl
@[simp] theorem State.setJob_queues (s : State) (a : Nat) (f : Job → Job) : (s.setJob a f).queues = s.queues := rfl
@[simp] theorem State.setJob_hubClock (s : State) (a : Nat) (f : Job → Job) : (s.setJob a f).hubClock = s.hubClock := rfl
@[simp] theorem State.setJob_links (s : State) (a : Nat) (f : Job → Job) : (s.setJob a f).links = s.links := rfl
@[simp] theorem State.setJob_linkOut (s : State) (a : Nat) (f : Job → Job) : (s.setJob a f).linkOut = s.linkOut := rfl
@[simp] theorem State.setJob_colls (s : State) (a : Nat) (f : Job → Job) : (s.setJob a f).colls = s.colls := rfl
@[simp] theorem State.setJob_mgmt (s : State) (a : Nat) (f : Job → Job) : (s.setJob a f).mgmt = s.mgmt := rfl
@[simp] theorem State.setJob_nvIndex (s : State) (a : Nat) (f : Job → Job) : (s.setJob a f).nvIndex = s.nvIndex := rfl
@[simp] theorem State.setJob_counters (s : State) (a : Nat) (f : Job → Job) : (s.setJob a f).counters = s.counters := rfl
@[simp] theorem State.setJob_elog (s : State) (a : Nat) (f : Job → Job) : (s.setJob a f).elog = s.elog := rfl
@[simp] theorem State.setJob_errovf (s : State) (a : Nat) (f : Job → Job) : (s.setJob a f).errovf = s.errovf := rfl
@[simp] theorem State.setJob_msix (s : State) (a : Nat) (f : Job → Job) : (s.setJob a f).msix = s.msix := rfl
@[simp] theorem State.setJob_tripPin (s : State) (a : Nat) (f : Job → Job) : (s.setJob a f).tripPin = s.tripPin := rfl
@[simp] theorem State.setJob_portOut (s : State) (a : Nat) (f : Job → Job) : (s.setJob a f).portOut = s.portOut := rfl

/-! ### State.setLaunch -/

@[simp] theorem State.setLaunch_build (s : State) (a l : Nat) (f : Launch → Launch) : (s.setLaunch a l f).build = s.build := rfl
@[simp] theorem State.setLaunch_turns (s : State) (a l : Nat) (f : Launch → Launch) : (s.setLaunch a l f).turns = s.turns := rfl
@[simp] theorem State.setLaunch_cur (s : State) (a l : Nat) (f : Launch → Launch) : (s.setLaunch a l f).cur = s.cur := rfl
@[simp] theorem State.setLaunch_frozen (s : State) (a l : Nat) (f : Launch → Launch) : (s.setLaunch a l f).frozen = s.frozen := rfl
@[simp] theorem State.setLaunch_tapIr (s : State) (a l : Nat) (f : Launch → Launch) : (s.setLaunch a l f).tapIr = s.tapIr := rfl
@[simp] theorem State.setLaunch_tapOut (s : State) (a l : Nat) (f : Launch → Launch) : (s.setLaunch a l f).tapOut = s.tapOut := rfl
@[simp] theorem State.setLaunch_mem (s : State) (a l : Nat) (f : Launch → Launch) : (s.setLaunch a l f).mem = s.mem := rfl
@[simp] theorem State.setLaunch_hostMem (s : State) (a l : Nat) (f : Launch → Launch) : (s.setLaunch a l f).hostMem = s.hostMem := rfl
@[simp] theorem State.setLaunch_hostRanges (s : State) (a l : Nat) (f : Launch → Launch) : (s.setLaunch a l f).hostRanges = s.hostRanges := rfl
@[simp] theorem State.setLaunch_peerMem (s : State) (a l : Nat) (f : Launch → Launch) : (s.setLaunch a l f).peerMem = s.peerMem := rfl
@[simp] theorem State.setLaunch_tlb (s : State) (a l : Nat) (f : Launch → Launch) : (s.setLaunch a l f).tlb = s.tlb := rfl
@[simp] theorem State.setLaunch_cores (s : State) (a l : Nat) (f : Launch → Launch) : (s.setLaunch a l f).cores = s.cores := rfl
@[simp] theorem State.setLaunch_groups (s : State) (a l : Nat) (f : Launch → Launch) : (s.setLaunch a l f).groups = s.groups := rfl
@[simp] theorem State.setLaunch_ops (s : State) (a l : Nat) (f : Launch → Launch) : (s.setLaunch a l f).ops = s.ops := rfl
@[simp] theorem State.setLaunch_nextOp (s : State) (a l : Nat) (f : Launch → Launch) : (s.setLaunch a l f).nextOp = s.nextOp := rfl
@[simp] theorem State.setLaunch_creds (s : State) (a l : Nat) (f : Launch → Launch) : (s.setLaunch a l f).creds = s.creds := rfl
@[simp] theorem State.setLaunch_rowFns (s : State) (a l : Nat) (f : Launch → Launch) : (s.setLaunch a l f).rowFns = s.rowFns := rfl
@[simp] theorem State.setLaunch_nextHandle (s : State) (a l : Nat) (f : Launch → Launch) : (s.setLaunch a l f).nextHandle = s.nextHandle := rfl
@[simp] theorem State.setLaunch_rowApps (s : State) (a l : Nat) (f : Launch → Launch) : (s.setLaunch a l f).rowApps = s.rowApps := rfl
@[simp] theorem State.setLaunch_poisoned (s : State) (a l : Nat) (f : Launch → Launch) : (s.setLaunch a l f).poisoned = s.poisoned := rfl
@[simp] theorem State.setLaunch_hardErrs (s : State) (a l : Nat) (f : Launch → Launch) : (s.setLaunch a l f).hardErrs = s.hardErrs := rfl
@[simp] theorem State.setLaunch_softErrs (s : State) (a l : Nat) (f : Launch → Launch) : (s.setLaunch a l f).softErrs = s.softErrs := rfl
@[simp] theorem State.setLaunch_corrected (s : State) (a l : Nat) (f : Launch → Launch) : (s.setLaunch a l f).corrected = s.corrected := rfl
@[simp] theorem State.setLaunch_sweep (s : State) (a l : Nat) (f : Launch → Launch) : (s.setLaunch a l f).sweep = s.sweep := rfl
@[simp] theorem State.setLaunch_cells (s : State) (a l : Nat) (f : Launch → Launch) : (s.setLaunch a l f).cells = s.cells := rfl
@[simp] theorem State.setLaunch_jobs (s : State) (a l : Nat) (f : Launch → Launch) : (s.setLaunch a l f).jobs = s.jobs := rfl
@[simp] theorem State.setLaunch_insts (s : State) (a l : Nat) (f : Launch → Launch) : (s.setLaunch a l f).insts = s.insts := rfl
@[simp] theorem State.setLaunch_nextSerial (s : State) (a l : Nat) (f : Launch → Launch) : (s.setLaunch a l f).nextSerial = s.nextSerial := rfl
@[simp] theorem State.setLaunch_traps (s : State) (a l : Nat) (f : Launch → Launch) : (s.setLaunch a l f).traps = s.traps := rfl
@[simp] theorem State.setLaunch_parked (s : State) (a l : Nat) (f : Launch → Launch) : (s.setLaunch a l f).parked = s.parked := rfl
@[simp] theorem State.setLaunch_queues (s : State) (a l : Nat) (f : Launch → Launch) : (s.setLaunch a l f).queues = s.queues := rfl
@[simp] theorem State.setLaunch_hubClock (s : State) (a l : Nat) (f : Launch → Launch) : (s.setLaunch a l f).hubClock = s.hubClock := rfl
@[simp] theorem State.setLaunch_links (s : State) (a l : Nat) (f : Launch → Launch) : (s.setLaunch a l f).links = s.links := rfl
@[simp] theorem State.setLaunch_linkOut (s : State) (a l : Nat) (f : Launch → Launch) : (s.setLaunch a l f).linkOut = s.linkOut := rfl
@[simp] theorem State.setLaunch_colls (s : State) (a l : Nat) (f : Launch → Launch) : (s.setLaunch a l f).colls = s.colls := rfl
@[simp] theorem State.setLaunch_mgmt (s : State) (a l : Nat) (f : Launch → Launch) : (s.setLaunch a l f).mgmt = s.mgmt := rfl
@[simp] theorem State.setLaunch_nvIndex (s : State) (a l : Nat) (f : Launch → Launch) : (s.setLaunch a l f).nvIndex = s.nvIndex := rfl
@[simp] theorem State.setLaunch_counters (s : State) (a l : Nat) (f : Launch → Launch) : (s.setLaunch a l f).counters = s.counters := rfl
@[simp] theorem State.setLaunch_elog (s : State) (a l : Nat) (f : Launch → Launch) : (s.setLaunch a l f).elog = s.elog := rfl
@[simp] theorem State.setLaunch_errovf (s : State) (a l : Nat) (f : Launch → Launch) : (s.setLaunch a l f).errovf = s.errovf := rfl
@[simp] theorem State.setLaunch_msix (s : State) (a l : Nat) (f : Launch → Launch) : (s.setLaunch a l f).msix = s.msix := rfl
@[simp] theorem State.setLaunch_tripPin (s : State) (a l : Nat) (f : Launch → Launch) : (s.setLaunch a l f).tripPin = s.tripPin := rfl
@[simp] theorem State.setLaunch_portOut (s : State) (a l : Nat) (f : Launch → Launch) : (s.setLaunch a l f).portOut = s.portOut := rfl

/-! ### State.setMgmt -/

@[simp] theorem State.setMgmt_build (s : State) (f : Mgmt → Mgmt) : (s.setMgmt f).build = s.build := rfl
@[simp] theorem State.setMgmt_turns (s : State) (f : Mgmt → Mgmt) : (s.setMgmt f).turns = s.turns := rfl
@[simp] theorem State.setMgmt_cur (s : State) (f : Mgmt → Mgmt) : (s.setMgmt f).cur = s.cur := rfl
@[simp] theorem State.setMgmt_frozen (s : State) (f : Mgmt → Mgmt) : (s.setMgmt f).frozen = s.frozen := rfl
@[simp] theorem State.setMgmt_tapIr (s : State) (f : Mgmt → Mgmt) : (s.setMgmt f).tapIr = s.tapIr := rfl
@[simp] theorem State.setMgmt_tapOut (s : State) (f : Mgmt → Mgmt) : (s.setMgmt f).tapOut = s.tapOut := rfl
@[simp] theorem State.setMgmt_mem (s : State) (f : Mgmt → Mgmt) : (s.setMgmt f).mem = s.mem := rfl
@[simp] theorem State.setMgmt_hostMem (s : State) (f : Mgmt → Mgmt) : (s.setMgmt f).hostMem = s.hostMem := rfl
@[simp] theorem State.setMgmt_hostRanges (s : State) (f : Mgmt → Mgmt) : (s.setMgmt f).hostRanges = s.hostRanges := rfl
@[simp] theorem State.setMgmt_peerMem (s : State) (f : Mgmt → Mgmt) : (s.setMgmt f).peerMem = s.peerMem := rfl
@[simp] theorem State.setMgmt_tlb (s : State) (f : Mgmt → Mgmt) : (s.setMgmt f).tlb = s.tlb := rfl
@[simp] theorem State.setMgmt_cores (s : State) (f : Mgmt → Mgmt) : (s.setMgmt f).cores = s.cores := rfl
@[simp] theorem State.setMgmt_groups (s : State) (f : Mgmt → Mgmt) : (s.setMgmt f).groups = s.groups := rfl
@[simp] theorem State.setMgmt_ops (s : State) (f : Mgmt → Mgmt) : (s.setMgmt f).ops = s.ops := rfl
@[simp] theorem State.setMgmt_nextOp (s : State) (f : Mgmt → Mgmt) : (s.setMgmt f).nextOp = s.nextOp := rfl
@[simp] theorem State.setMgmt_creds (s : State) (f : Mgmt → Mgmt) : (s.setMgmt f).creds = s.creds := rfl
@[simp] theorem State.setMgmt_rowFns (s : State) (f : Mgmt → Mgmt) : (s.setMgmt f).rowFns = s.rowFns := rfl
@[simp] theorem State.setMgmt_nextHandle (s : State) (f : Mgmt → Mgmt) : (s.setMgmt f).nextHandle = s.nextHandle := rfl
@[simp] theorem State.setMgmt_rowApps (s : State) (f : Mgmt → Mgmt) : (s.setMgmt f).rowApps = s.rowApps := rfl
@[simp] theorem State.setMgmt_poisoned (s : State) (f : Mgmt → Mgmt) : (s.setMgmt f).poisoned = s.poisoned := rfl
@[simp] theorem State.setMgmt_hardErrs (s : State) (f : Mgmt → Mgmt) : (s.setMgmt f).hardErrs = s.hardErrs := rfl
@[simp] theorem State.setMgmt_softErrs (s : State) (f : Mgmt → Mgmt) : (s.setMgmt f).softErrs = s.softErrs := rfl
@[simp] theorem State.setMgmt_corrected (s : State) (f : Mgmt → Mgmt) : (s.setMgmt f).corrected = s.corrected := rfl
@[simp] theorem State.setMgmt_sweep (s : State) (f : Mgmt → Mgmt) : (s.setMgmt f).sweep = s.sweep := rfl
@[simp] theorem State.setMgmt_cells (s : State) (f : Mgmt → Mgmt) : (s.setMgmt f).cells = s.cells := rfl
@[simp] theorem State.setMgmt_jobs (s : State) (f : Mgmt → Mgmt) : (s.setMgmt f).jobs = s.jobs := rfl
@[simp] theorem State.setMgmt_launches (s : State) (f : Mgmt → Mgmt) : (s.setMgmt f).launches = s.launches := rfl
@[simp] theorem State.setMgmt_insts (s : State) (f : Mgmt → Mgmt) : (s.setMgmt f).insts = s.insts := rfl
@[simp] theorem State.setMgmt_nextSerial (s : State) (f : Mgmt → Mgmt) : (s.setMgmt f).nextSerial = s.nextSerial := rfl
@[simp] theorem State.setMgmt_traps (s : State) (f : Mgmt → Mgmt) : (s.setMgmt f).traps = s.traps := rfl
@[simp] theorem State.setMgmt_parked (s : State) (f : Mgmt → Mgmt) : (s.setMgmt f).parked = s.parked := rfl
@[simp] theorem State.setMgmt_queues (s : State) (f : Mgmt → Mgmt) : (s.setMgmt f).queues = s.queues := rfl
@[simp] theorem State.setMgmt_hubClock (s : State) (f : Mgmt → Mgmt) : (s.setMgmt f).hubClock = s.hubClock := rfl
@[simp] theorem State.setMgmt_links (s : State) (f : Mgmt → Mgmt) : (s.setMgmt f).links = s.links := rfl
@[simp] theorem State.setMgmt_linkOut (s : State) (f : Mgmt → Mgmt) : (s.setMgmt f).linkOut = s.linkOut := rfl
@[simp] theorem State.setMgmt_colls (s : State) (f : Mgmt → Mgmt) : (s.setMgmt f).colls = s.colls := rfl
@[simp] theorem State.setMgmt_mgmt (s : State) (f : Mgmt → Mgmt) : (s.setMgmt f).mgmt = f s.mgmt := rfl
@[simp] theorem State.setMgmt_nvIndex (s : State) (f : Mgmt → Mgmt) : (s.setMgmt f).nvIndex = s.nvIndex := rfl
@[simp] theorem State.setMgmt_counters (s : State) (f : Mgmt → Mgmt) : (s.setMgmt f).counters = s.counters := rfl
@[simp] theorem State.setMgmt_elog (s : State) (f : Mgmt → Mgmt) : (s.setMgmt f).elog = s.elog := rfl
@[simp] theorem State.setMgmt_errovf (s : State) (f : Mgmt → Mgmt) : (s.setMgmt f).errovf = s.errovf := rfl
@[simp] theorem State.setMgmt_msix (s : State) (f : Mgmt → Mgmt) : (s.setMgmt f).msix = s.msix := rfl
@[simp] theorem State.setMgmt_tripPin (s : State) (f : Mgmt → Mgmt) : (s.setMgmt f).tripPin = s.tripPin := rfl
@[simp] theorem State.setMgmt_portOut (s : State) (f : Mgmt → Mgmt) : (s.setMgmt f).portOut = s.portOut := rfl

/-! ### State.setInst -/

@[simp] theorem State.setInst_build (s : State) (n : Nat) (f : Inst → Inst) : (s.setInst n f).build = s.build := rfl
@[simp] theorem State.setInst_turns (s : State) (n : Nat) (f : Inst → Inst) : (s.setInst n f).turns = s.turns := rfl
@[simp] theorem State.setInst_cur (s : State) (n : Nat) (f : Inst → Inst) : (s.setInst n f).cur = s.cur := rfl
@[simp] theorem State.setInst_frozen (s : State) (n : Nat) (f : Inst → Inst) : (s.setInst n f).frozen = s.frozen := rfl
@[simp] theorem State.setInst_tapIr (s : State) (n : Nat) (f : Inst → Inst) : (s.setInst n f).tapIr = s.tapIr := rfl
@[simp] theorem State.setInst_tapOut (s : State) (n : Nat) (f : Inst → Inst) : (s.setInst n f).tapOut = s.tapOut := rfl
@[simp] theorem State.setInst_mem (s : State) (n : Nat) (f : Inst → Inst) : (s.setInst n f).mem = s.mem := rfl
@[simp] theorem State.setInst_hostMem (s : State) (n : Nat) (f : Inst → Inst) : (s.setInst n f).hostMem = s.hostMem := rfl
@[simp] theorem State.setInst_hostRanges (s : State) (n : Nat) (f : Inst → Inst) : (s.setInst n f).hostRanges = s.hostRanges := rfl
@[simp] theorem State.setInst_peerMem (s : State) (n : Nat) (f : Inst → Inst) : (s.setInst n f).peerMem = s.peerMem := rfl
@[simp] theorem State.setInst_tlb (s : State) (n : Nat) (f : Inst → Inst) : (s.setInst n f).tlb = s.tlb := rfl
@[simp] theorem State.setInst_cores (s : State) (n : Nat) (f : Inst → Inst) : (s.setInst n f).cores = s.cores := rfl
@[simp] theorem State.setInst_groups (s : State) (n : Nat) (f : Inst → Inst) : (s.setInst n f).groups = s.groups := rfl
@[simp] theorem State.setInst_ops (s : State) (n : Nat) (f : Inst → Inst) : (s.setInst n f).ops = s.ops := rfl
@[simp] theorem State.setInst_nextOp (s : State) (n : Nat) (f : Inst → Inst) : (s.setInst n f).nextOp = s.nextOp := rfl
@[simp] theorem State.setInst_creds (s : State) (n : Nat) (f : Inst → Inst) : (s.setInst n f).creds = s.creds := rfl
@[simp] theorem State.setInst_rowFns (s : State) (n : Nat) (f : Inst → Inst) : (s.setInst n f).rowFns = s.rowFns := rfl
@[simp] theorem State.setInst_nextHandle (s : State) (n : Nat) (f : Inst → Inst) : (s.setInst n f).nextHandle = s.nextHandle := rfl
@[simp] theorem State.setInst_rowApps (s : State) (n : Nat) (f : Inst → Inst) : (s.setInst n f).rowApps = s.rowApps := rfl
@[simp] theorem State.setInst_poisoned (s : State) (n : Nat) (f : Inst → Inst) : (s.setInst n f).poisoned = s.poisoned := rfl
@[simp] theorem State.setInst_hardErrs (s : State) (n : Nat) (f : Inst → Inst) : (s.setInst n f).hardErrs = s.hardErrs := rfl
@[simp] theorem State.setInst_softErrs (s : State) (n : Nat) (f : Inst → Inst) : (s.setInst n f).softErrs = s.softErrs := rfl
@[simp] theorem State.setInst_corrected (s : State) (n : Nat) (f : Inst → Inst) : (s.setInst n f).corrected = s.corrected := rfl
@[simp] theorem State.setInst_sweep (s : State) (n : Nat) (f : Inst → Inst) : (s.setInst n f).sweep = s.sweep := rfl
@[simp] theorem State.setInst_cells (s : State) (n : Nat) (f : Inst → Inst) : (s.setInst n f).cells = s.cells := rfl
@[simp] theorem State.setInst_jobs (s : State) (n : Nat) (f : Inst → Inst) : (s.setInst n f).jobs = s.jobs := rfl
@[simp] theorem State.setInst_launches (s : State) (n : Nat) (f : Inst → Inst) : (s.setInst n f).launches = s.launches := rfl
@[simp] theorem State.setInst_nextSerial (s : State) (n : Nat) (f : Inst → Inst) : (s.setInst n f).nextSerial = s.nextSerial := rfl
@[simp] theorem State.setInst_traps (s : State) (n : Nat) (f : Inst → Inst) : (s.setInst n f).traps = s.traps := rfl
@[simp] theorem State.setInst_parked (s : State) (n : Nat) (f : Inst → Inst) : (s.setInst n f).parked = s.parked := rfl
@[simp] theorem State.setInst_queues (s : State) (n : Nat) (f : Inst → Inst) : (s.setInst n f).queues = s.queues := rfl
@[simp] theorem State.setInst_hubClock (s : State) (n : Nat) (f : Inst → Inst) : (s.setInst n f).hubClock = s.hubClock := rfl
@[simp] theorem State.setInst_links (s : State) (n : Nat) (f : Inst → Inst) : (s.setInst n f).links = s.links := rfl
@[simp] theorem State.setInst_linkOut (s : State) (n : Nat) (f : Inst → Inst) : (s.setInst n f).linkOut = s.linkOut := rfl
@[simp] theorem State.setInst_colls (s : State) (n : Nat) (f : Inst → Inst) : (s.setInst n f).colls = s.colls := rfl
@[simp] theorem State.setInst_mgmt (s : State) (n : Nat) (f : Inst → Inst) : (s.setInst n f).mgmt = s.mgmt := rfl
@[simp] theorem State.setInst_nvIndex (s : State) (n : Nat) (f : Inst → Inst) : (s.setInst n f).nvIndex = s.nvIndex := rfl
@[simp] theorem State.setInst_counters (s : State) (n : Nat) (f : Inst → Inst) : (s.setInst n f).counters = s.counters := rfl
@[simp] theorem State.setInst_elog (s : State) (n : Nat) (f : Inst → Inst) : (s.setInst n f).elog = s.elog := rfl
@[simp] theorem State.setInst_errovf (s : State) (n : Nat) (f : Inst → Inst) : (s.setInst n f).errovf = s.errovf := rfl
@[simp] theorem State.setInst_msix (s : State) (n : Nat) (f : Inst → Inst) : (s.setInst n f).msix = s.msix := rfl
@[simp] theorem State.setInst_tripPin (s : State) (n : Nat) (f : Inst → Inst) : (s.setInst n f).tripPin = s.tripPin := rfl
@[simp] theorem State.setInst_portOut (s : State) (n : Nat) (f : Inst → Inst) : (s.setInst n f).portOut = s.portOut := rfl

/-! ### State.setLink -/

@[simp] theorem State.setLink_build (s : State) (l : Nat) (f : Link → Link) : (s.setLink l f).build = s.build := rfl
@[simp] theorem State.setLink_turns (s : State) (l : Nat) (f : Link → Link) : (s.setLink l f).turns = s.turns := rfl
@[simp] theorem State.setLink_cur (s : State) (l : Nat) (f : Link → Link) : (s.setLink l f).cur = s.cur := rfl
@[simp] theorem State.setLink_frozen (s : State) (l : Nat) (f : Link → Link) : (s.setLink l f).frozen = s.frozen := rfl
@[simp] theorem State.setLink_tapIr (s : State) (l : Nat) (f : Link → Link) : (s.setLink l f).tapIr = s.tapIr := rfl
@[simp] theorem State.setLink_tapOut (s : State) (l : Nat) (f : Link → Link) : (s.setLink l f).tapOut = s.tapOut := rfl
@[simp] theorem State.setLink_mem (s : State) (l : Nat) (f : Link → Link) : (s.setLink l f).mem = s.mem := rfl
@[simp] theorem State.setLink_hostMem (s : State) (l : Nat) (f : Link → Link) : (s.setLink l f).hostMem = s.hostMem := rfl
@[simp] theorem State.setLink_hostRanges (s : State) (l : Nat) (f : Link → Link) : (s.setLink l f).hostRanges = s.hostRanges := rfl
@[simp] theorem State.setLink_peerMem (s : State) (l : Nat) (f : Link → Link) : (s.setLink l f).peerMem = s.peerMem := rfl
@[simp] theorem State.setLink_tlb (s : State) (l : Nat) (f : Link → Link) : (s.setLink l f).tlb = s.tlb := rfl
@[simp] theorem State.setLink_cores (s : State) (l : Nat) (f : Link → Link) : (s.setLink l f).cores = s.cores := rfl
@[simp] theorem State.setLink_groups (s : State) (l : Nat) (f : Link → Link) : (s.setLink l f).groups = s.groups := rfl
@[simp] theorem State.setLink_ops (s : State) (l : Nat) (f : Link → Link) : (s.setLink l f).ops = s.ops := rfl
@[simp] theorem State.setLink_nextOp (s : State) (l : Nat) (f : Link → Link) : (s.setLink l f).nextOp = s.nextOp := rfl
@[simp] theorem State.setLink_creds (s : State) (l : Nat) (f : Link → Link) : (s.setLink l f).creds = s.creds := rfl
@[simp] theorem State.setLink_rowFns (s : State) (l : Nat) (f : Link → Link) : (s.setLink l f).rowFns = s.rowFns := rfl
@[simp] theorem State.setLink_nextHandle (s : State) (l : Nat) (f : Link → Link) : (s.setLink l f).nextHandle = s.nextHandle := rfl
@[simp] theorem State.setLink_rowApps (s : State) (l : Nat) (f : Link → Link) : (s.setLink l f).rowApps = s.rowApps := rfl
@[simp] theorem State.setLink_poisoned (s : State) (l : Nat) (f : Link → Link) : (s.setLink l f).poisoned = s.poisoned := rfl
@[simp] theorem State.setLink_hardErrs (s : State) (l : Nat) (f : Link → Link) : (s.setLink l f).hardErrs = s.hardErrs := rfl
@[simp] theorem State.setLink_softErrs (s : State) (l : Nat) (f : Link → Link) : (s.setLink l f).softErrs = s.softErrs := rfl
@[simp] theorem State.setLink_corrected (s : State) (l : Nat) (f : Link → Link) : (s.setLink l f).corrected = s.corrected := rfl
@[simp] theorem State.setLink_sweep (s : State) (l : Nat) (f : Link → Link) : (s.setLink l f).sweep = s.sweep := rfl
@[simp] theorem State.setLink_cells (s : State) (l : Nat) (f : Link → Link) : (s.setLink l f).cells = s.cells := rfl
@[simp] theorem State.setLink_jobs (s : State) (l : Nat) (f : Link → Link) : (s.setLink l f).jobs = s.jobs := rfl
@[simp] theorem State.setLink_launches (s : State) (l : Nat) (f : Link → Link) : (s.setLink l f).launches = s.launches := rfl
@[simp] theorem State.setLink_insts (s : State) (l : Nat) (f : Link → Link) : (s.setLink l f).insts = s.insts := rfl
@[simp] theorem State.setLink_nextSerial (s : State) (l : Nat) (f : Link → Link) : (s.setLink l f).nextSerial = s.nextSerial := rfl
@[simp] theorem State.setLink_traps (s : State) (l : Nat) (f : Link → Link) : (s.setLink l f).traps = s.traps := rfl
@[simp] theorem State.setLink_parked (s : State) (l : Nat) (f : Link → Link) : (s.setLink l f).parked = s.parked := rfl
@[simp] theorem State.setLink_queues (s : State) (l : Nat) (f : Link → Link) : (s.setLink l f).queues = s.queues := rfl
@[simp] theorem State.setLink_hubClock (s : State) (l : Nat) (f : Link → Link) : (s.setLink l f).hubClock = s.hubClock := rfl
@[simp] theorem State.setLink_links (s : State) (l : Nat) (f : Link → Link) : (s.setLink l f).links = s.links.modify l f := rfl
@[simp] theorem State.setLink_linkOut (s : State) (l : Nat) (f : Link → Link) : (s.setLink l f).linkOut = s.linkOut := rfl
@[simp] theorem State.setLink_colls (s : State) (l : Nat) (f : Link → Link) : (s.setLink l f).colls = s.colls := rfl
@[simp] theorem State.setLink_mgmt (s : State) (l : Nat) (f : Link → Link) : (s.setLink l f).mgmt = s.mgmt := rfl
@[simp] theorem State.setLink_nvIndex (s : State) (l : Nat) (f : Link → Link) : (s.setLink l f).nvIndex = s.nvIndex := rfl
@[simp] theorem State.setLink_counters (s : State) (l : Nat) (f : Link → Link) : (s.setLink l f).counters = s.counters := rfl
@[simp] theorem State.setLink_elog (s : State) (l : Nat) (f : Link → Link) : (s.setLink l f).elog = s.elog := rfl
@[simp] theorem State.setLink_errovf (s : State) (l : Nat) (f : Link → Link) : (s.setLink l f).errovf = s.errovf := rfl
@[simp] theorem State.setLink_msix (s : State) (l : Nat) (f : Link → Link) : (s.setLink l f).msix = s.msix := rfl
@[simp] theorem State.setLink_tripPin (s : State) (l : Nat) (f : Link → Link) : (s.setLink l f).tripPin = s.tripPin := rfl
@[simp] theorem State.setLink_portOut (s : State) (l : Nat) (f : Link → Link) : (s.setLink l f).portOut = s.portOut := rfl

/-! ### State.setColl -/

@[simp] theorem State.setColl_build (s : State) (i : Nat) (f : Coll → Coll) : (s.setColl i f).build = s.build := rfl
@[simp] theorem State.setColl_turns (s : State) (i : Nat) (f : Coll → Coll) : (s.setColl i f).turns = s.turns := rfl
@[simp] theorem State.setColl_cur (s : State) (i : Nat) (f : Coll → Coll) : (s.setColl i f).cur = s.cur := rfl
@[simp] theorem State.setColl_frozen (s : State) (i : Nat) (f : Coll → Coll) : (s.setColl i f).frozen = s.frozen := rfl
@[simp] theorem State.setColl_tapIr (s : State) (i : Nat) (f : Coll → Coll) : (s.setColl i f).tapIr = s.tapIr := rfl
@[simp] theorem State.setColl_tapOut (s : State) (i : Nat) (f : Coll → Coll) : (s.setColl i f).tapOut = s.tapOut := rfl
@[simp] theorem State.setColl_mem (s : State) (i : Nat) (f : Coll → Coll) : (s.setColl i f).mem = s.mem := rfl
@[simp] theorem State.setColl_hostMem (s : State) (i : Nat) (f : Coll → Coll) : (s.setColl i f).hostMem = s.hostMem := rfl
@[simp] theorem State.setColl_hostRanges (s : State) (i : Nat) (f : Coll → Coll) : (s.setColl i f).hostRanges = s.hostRanges := rfl
@[simp] theorem State.setColl_peerMem (s : State) (i : Nat) (f : Coll → Coll) : (s.setColl i f).peerMem = s.peerMem := rfl
@[simp] theorem State.setColl_tlb (s : State) (i : Nat) (f : Coll → Coll) : (s.setColl i f).tlb = s.tlb := rfl
@[simp] theorem State.setColl_cores (s : State) (i : Nat) (f : Coll → Coll) : (s.setColl i f).cores = s.cores := rfl
@[simp] theorem State.setColl_groups (s : State) (i : Nat) (f : Coll → Coll) : (s.setColl i f).groups = s.groups := rfl
@[simp] theorem State.setColl_ops (s : State) (i : Nat) (f : Coll → Coll) : (s.setColl i f).ops = s.ops := rfl
@[simp] theorem State.setColl_nextOp (s : State) (i : Nat) (f : Coll → Coll) : (s.setColl i f).nextOp = s.nextOp := rfl
@[simp] theorem State.setColl_creds (s : State) (i : Nat) (f : Coll → Coll) : (s.setColl i f).creds = s.creds := rfl
@[simp] theorem State.setColl_rowFns (s : State) (i : Nat) (f : Coll → Coll) : (s.setColl i f).rowFns = s.rowFns := rfl
@[simp] theorem State.setColl_nextHandle (s : State) (i : Nat) (f : Coll → Coll) : (s.setColl i f).nextHandle = s.nextHandle := rfl
@[simp] theorem State.setColl_rowApps (s : State) (i : Nat) (f : Coll → Coll) : (s.setColl i f).rowApps = s.rowApps := rfl
@[simp] theorem State.setColl_poisoned (s : State) (i : Nat) (f : Coll → Coll) : (s.setColl i f).poisoned = s.poisoned := rfl
@[simp] theorem State.setColl_hardErrs (s : State) (i : Nat) (f : Coll → Coll) : (s.setColl i f).hardErrs = s.hardErrs := rfl
@[simp] theorem State.setColl_softErrs (s : State) (i : Nat) (f : Coll → Coll) : (s.setColl i f).softErrs = s.softErrs := rfl
@[simp] theorem State.setColl_corrected (s : State) (i : Nat) (f : Coll → Coll) : (s.setColl i f).corrected = s.corrected := rfl
@[simp] theorem State.setColl_sweep (s : State) (i : Nat) (f : Coll → Coll) : (s.setColl i f).sweep = s.sweep := rfl
@[simp] theorem State.setColl_cells (s : State) (i : Nat) (f : Coll → Coll) : (s.setColl i f).cells = s.cells := rfl
@[simp] theorem State.setColl_jobs (s : State) (i : Nat) (f : Coll → Coll) : (s.setColl i f).jobs = s.jobs := rfl
@[simp] theorem State.setColl_launches (s : State) (i : Nat) (f : Coll → Coll) : (s.setColl i f).launches = s.launches := rfl
@[simp] theorem State.setColl_insts (s : State) (i : Nat) (f : Coll → Coll) : (s.setColl i f).insts = s.insts := rfl
@[simp] theorem State.setColl_nextSerial (s : State) (i : Nat) (f : Coll → Coll) : (s.setColl i f).nextSerial = s.nextSerial := rfl
@[simp] theorem State.setColl_traps (s : State) (i : Nat) (f : Coll → Coll) : (s.setColl i f).traps = s.traps := rfl
@[simp] theorem State.setColl_parked (s : State) (i : Nat) (f : Coll → Coll) : (s.setColl i f).parked = s.parked := rfl
@[simp] theorem State.setColl_queues (s : State) (i : Nat) (f : Coll → Coll) : (s.setColl i f).queues = s.queues := rfl
@[simp] theorem State.setColl_hubClock (s : State) (i : Nat) (f : Coll → Coll) : (s.setColl i f).hubClock = s.hubClock := rfl
@[simp] theorem State.setColl_links (s : State) (i : Nat) (f : Coll → Coll) : (s.setColl i f).links = s.links := rfl
@[simp] theorem State.setColl_linkOut (s : State) (i : Nat) (f : Coll → Coll) : (s.setColl i f).linkOut = s.linkOut := rfl
@[simp] theorem State.setColl_mgmt (s : State) (i : Nat) (f : Coll → Coll) : (s.setColl i f).mgmt = s.mgmt := rfl
@[simp] theorem State.setColl_nvIndex (s : State) (i : Nat) (f : Coll → Coll) : (s.setColl i f).nvIndex = s.nvIndex := rfl
@[simp] theorem State.setColl_counters (s : State) (i : Nat) (f : Coll → Coll) : (s.setColl i f).counters = s.counters := rfl
@[simp] theorem State.setColl_elog (s : State) (i : Nat) (f : Coll → Coll) : (s.setColl i f).elog = s.elog := rfl
@[simp] theorem State.setColl_errovf (s : State) (i : Nat) (f : Coll → Coll) : (s.setColl i f).errovf = s.errovf := rfl
@[simp] theorem State.setColl_msix (s : State) (i : Nat) (f : Coll → Coll) : (s.setColl i f).msix = s.msix := rfl
@[simp] theorem State.setColl_tripPin (s : State) (i : Nat) (f : Coll → Coll) : (s.setColl i f).tripPin = s.tripPin := rfl
@[simp] theorem State.setColl_portOut (s : State) (i : Nat) (f : Coll → Coll) : (s.setColl i f).portOut = s.portOut := rfl

/-! ### State.setQueue' -/

@[simp] theorem State.setQueue'_build (s : State) (q : Nat) (f : HubQueue → HubQueue) : (s.setQueue' q f).build = s.build := rfl
@[simp] theorem State.setQueue'_turns (s : State) (q : Nat) (f : HubQueue → HubQueue) : (s.setQueue' q f).turns = s.turns := rfl
@[simp] theorem State.setQueue'_cur (s : State) (q : Nat) (f : HubQueue → HubQueue) : (s.setQueue' q f).cur = s.cur := rfl
@[simp] theorem State.setQueue'_frozen (s : State) (q : Nat) (f : HubQueue → HubQueue) : (s.setQueue' q f).frozen = s.frozen := rfl
@[simp] theorem State.setQueue'_tapIr (s : State) (q : Nat) (f : HubQueue → HubQueue) : (s.setQueue' q f).tapIr = s.tapIr := rfl
@[simp] theorem State.setQueue'_tapOut (s : State) (q : Nat) (f : HubQueue → HubQueue) : (s.setQueue' q f).tapOut = s.tapOut := rfl
@[simp] theorem State.setQueue'_mem (s : State) (q : Nat) (f : HubQueue → HubQueue) : (s.setQueue' q f).mem = s.mem := rfl
@[simp] theorem State.setQueue'_hostMem (s : State) (q : Nat) (f : HubQueue → HubQueue) : (s.setQueue' q f).hostMem = s.hostMem := rfl
@[simp] theorem State.setQueue'_hostRanges (s : State) (q : Nat) (f : HubQueue → HubQueue) : (s.setQueue' q f).hostRanges = s.hostRanges := rfl
@[simp] theorem State.setQueue'_peerMem (s : State) (q : Nat) (f : HubQueue → HubQueue) : (s.setQueue' q f).peerMem = s.peerMem := rfl
@[simp] theorem State.setQueue'_tlb (s : State) (q : Nat) (f : HubQueue → HubQueue) : (s.setQueue' q f).tlb = s.tlb := rfl
@[simp] theorem State.setQueue'_cores (s : State) (q : Nat) (f : HubQueue → HubQueue) : (s.setQueue' q f).cores = s.cores := rfl
@[simp] theorem State.setQueue'_groups (s : State) (q : Nat) (f : HubQueue → HubQueue) : (s.setQueue' q f).groups = s.groups := rfl
@[simp] theorem State.setQueue'_ops (s : State) (q : Nat) (f : HubQueue → HubQueue) : (s.setQueue' q f).ops = s.ops := rfl
@[simp] theorem State.setQueue'_nextOp (s : State) (q : Nat) (f : HubQueue → HubQueue) : (s.setQueue' q f).nextOp = s.nextOp := rfl
@[simp] theorem State.setQueue'_creds (s : State) (q : Nat) (f : HubQueue → HubQueue) : (s.setQueue' q f).creds = s.creds := rfl
@[simp] theorem State.setQueue'_rowFns (s : State) (q : Nat) (f : HubQueue → HubQueue) : (s.setQueue' q f).rowFns = s.rowFns := rfl
@[simp] theorem State.setQueue'_nextHandle (s : State) (q : Nat) (f : HubQueue → HubQueue) : (s.setQueue' q f).nextHandle = s.nextHandle := rfl
@[simp] theorem State.setQueue'_rowApps (s : State) (q : Nat) (f : HubQueue → HubQueue) : (s.setQueue' q f).rowApps = s.rowApps := rfl
@[simp] theorem State.setQueue'_poisoned (s : State) (q : Nat) (f : HubQueue → HubQueue) : (s.setQueue' q f).poisoned = s.poisoned := rfl
@[simp] theorem State.setQueue'_hardErrs (s : State) (q : Nat) (f : HubQueue → HubQueue) : (s.setQueue' q f).hardErrs = s.hardErrs := rfl
@[simp] theorem State.setQueue'_softErrs (s : State) (q : Nat) (f : HubQueue → HubQueue) : (s.setQueue' q f).softErrs = s.softErrs := rfl
@[simp] theorem State.setQueue'_corrected (s : State) (q : Nat) (f : HubQueue → HubQueue) : (s.setQueue' q f).corrected = s.corrected := rfl
@[simp] theorem State.setQueue'_sweep (s : State) (q : Nat) (f : HubQueue → HubQueue) : (s.setQueue' q f).sweep = s.sweep := rfl
@[simp] theorem State.setQueue'_cells (s : State) (q : Nat) (f : HubQueue → HubQueue) : (s.setQueue' q f).cells = s.cells := rfl
@[simp] theorem State.setQueue'_jobs (s : State) (q : Nat) (f : HubQueue → HubQueue) : (s.setQueue' q f).jobs = s.jobs := rfl
@[simp] theorem State.setQueue'_launches (s : State) (q : Nat) (f : HubQueue → HubQueue) : (s.setQueue' q f).launches = s.launches := rfl
@[simp] theorem State.setQueue'_insts (s : State) (q : Nat) (f : HubQueue → HubQueue) : (s.setQueue' q f).insts = s.insts := rfl
@[simp] theorem State.setQueue'_nextSerial (s : State) (q : Nat) (f : HubQueue → HubQueue) : (s.setQueue' q f).nextSerial = s.nextSerial := rfl
@[simp] theorem State.setQueue'_traps (s : State) (q : Nat) (f : HubQueue → HubQueue) : (s.setQueue' q f).traps = s.traps := rfl
@[simp] theorem State.setQueue'_parked (s : State) (q : Nat) (f : HubQueue → HubQueue) : (s.setQueue' q f).parked = s.parked := rfl
@[simp] theorem State.setQueue'_queues (s : State) (q : Nat) (f : HubQueue → HubQueue) : (s.setQueue' q f).queues = s.queues.modify q f := rfl
@[simp] theorem State.setQueue'_hubClock (s : State) (q : Nat) (f : HubQueue → HubQueue) : (s.setQueue' q f).hubClock = s.hubClock := rfl
@[simp] theorem State.setQueue'_links (s : State) (q : Nat) (f : HubQueue → HubQueue) : (s.setQueue' q f).links = s.links := rfl
@[simp] theorem State.setQueue'_linkOut (s : State) (q : Nat) (f : HubQueue → HubQueue) : (s.setQueue' q f).linkOut = s.linkOut := rfl
@[simp] theorem State.setQueue'_colls (s : State) (q : Nat) (f : HubQueue → HubQueue) : (s.setQueue' q f).colls = s.colls := rfl
@[simp] theorem State.setQueue'_mgmt (s : State) (q : Nat) (f : HubQueue → HubQueue) : (s.setQueue' q f).mgmt = s.mgmt := rfl
@[simp] theorem State.setQueue'_nvIndex (s : State) (q : Nat) (f : HubQueue → HubQueue) : (s.setQueue' q f).nvIndex = s.nvIndex := rfl
@[simp] theorem State.setQueue'_counters (s : State) (q : Nat) (f : HubQueue → HubQueue) : (s.setQueue' q f).counters = s.counters := rfl
@[simp] theorem State.setQueue'_elog (s : State) (q : Nat) (f : HubQueue → HubQueue) : (s.setQueue' q f).elog = s.elog := rfl
@[simp] theorem State.setQueue'_errovf (s : State) (q : Nat) (f : HubQueue → HubQueue) : (s.setQueue' q f).errovf = s.errovf := rfl
@[simp] theorem State.setQueue'_msix (s : State) (q : Nat) (f : HubQueue → HubQueue) : (s.setQueue' q f).msix = s.msix := rfl
@[simp] theorem State.setQueue'_tripPin (s : State) (q : Nat) (f : HubQueue → HubQueue) : (s.setQueue' q f).tripPin = s.tripPin := rfl
@[simp] theorem State.setQueue'_portOut (s : State) (q : Nat) (f : HubQueue → HubQueue) : (s.setQueue' q f).portOut = s.portOut := rfl

/-! ### State.setCounter -/

@[simp] theorem State.setCounter_build (s : State) (k : Counter) : (s.setCounter k).build = s.build := rfl
@[simp] theorem State.setCounter_turns (s : State) (k : Counter) : (s.setCounter k).turns = s.turns := rfl
@[simp] theorem State.setCounter_cur (s : State) (k : Counter) : (s.setCounter k).cur = s.cur := rfl
@[simp] theorem State.setCounter_frozen (s : State) (k : Counter) : (s.setCounter k).frozen = s.frozen := rfl
@[simp] theorem State.setCounter_tapIr (s : State) (k : Counter) : (s.setCounter k).tapIr = s.tapIr := rfl
@[simp] theorem State.setCounter_tapOut (s : State) (k : Counter) : (s.setCounter k).tapOut = s.tapOut := rfl
@[simp] theorem State.setCounter_mem (s : State) (k : Counter) : (s.setCounter k).mem = s.mem := rfl
@[simp] theorem State.setCounter_hostMem (s : State) (k : Counter) : (s.setCounter k).hostMem = s.hostMem := rfl
@[simp] theorem State.setCounter_hostRanges (s : State) (k : Counter) : (s.setCounter k).hostRanges = s.hostRanges := rfl
@[simp] theorem State.setCounter_peerMem (s : State) (k : Counter) : (s.setCounter k).peerMem = s.peerMem := rfl
@[simp] theorem State.setCounter_tlb (s : State) (k : Counter) : (s.setCounter k).tlb = s.tlb := rfl
@[simp] theorem State.setCounter_cores (s : State) (k : Counter) : (s.setCounter k).cores = s.cores := rfl
@[simp] theorem State.setCounter_groups (s : State) (k : Counter) : (s.setCounter k).groups = s.groups := rfl
@[simp] theorem State.setCounter_ops (s : State) (k : Counter) : (s.setCounter k).ops = s.ops := rfl
@[simp] theorem State.setCounter_nextOp (s : State) (k : Counter) : (s.setCounter k).nextOp = s.nextOp := rfl
@[simp] theorem State.setCounter_creds (s : State) (k : Counter) : (s.setCounter k).creds = s.creds := rfl
@[simp] theorem State.setCounter_rowFns (s : State) (k : Counter) : (s.setCounter k).rowFns = s.rowFns := rfl
@[simp] theorem State.setCounter_nextHandle (s : State) (k : Counter) : (s.setCounter k).nextHandle = s.nextHandle := rfl
@[simp] theorem State.setCounter_rowApps (s : State) (k : Counter) : (s.setCounter k).rowApps = s.rowApps := rfl
@[simp] theorem State.setCounter_poisoned (s : State) (k : Counter) : (s.setCounter k).poisoned = s.poisoned := rfl
@[simp] theorem State.setCounter_hardErrs (s : State) (k : Counter) : (s.setCounter k).hardErrs = s.hardErrs := rfl
@[simp] theorem State.setCounter_softErrs (s : State) (k : Counter) : (s.setCounter k).softErrs = s.softErrs := rfl
@[simp] theorem State.setCounter_corrected (s : State) (k : Counter) : (s.setCounter k).corrected = s.corrected := rfl
@[simp] theorem State.setCounter_sweep (s : State) (k : Counter) : (s.setCounter k).sweep = s.sweep := rfl
@[simp] theorem State.setCounter_cells (s : State) (k : Counter) : (s.setCounter k).cells = s.cells := rfl
@[simp] theorem State.setCounter_jobs (s : State) (k : Counter) : (s.setCounter k).jobs = s.jobs := rfl
@[simp] theorem State.setCounter_launches (s : State) (k : Counter) : (s.setCounter k).launches = s.launches := rfl
@[simp] theorem State.setCounter_insts (s : State) (k : Counter) : (s.setCounter k).insts = s.insts := rfl
@[simp] theorem State.setCounter_nextSerial (s : State) (k : Counter) : (s.setCounter k).nextSerial = s.nextSerial := rfl
@[simp] theorem State.setCounter_traps (s : State) (k : Counter) : (s.setCounter k).traps = s.traps := rfl
@[simp] theorem State.setCounter_parked (s : State) (k : Counter) : (s.setCounter k).parked = s.parked := rfl
@[simp] theorem State.setCounter_queues (s : State) (k : Counter) : (s.setCounter k).queues = s.queues := rfl
@[simp] theorem State.setCounter_hubClock (s : State) (k : Counter) : (s.setCounter k).hubClock = s.hubClock := rfl
@[simp] theorem State.setCounter_links (s : State) (k : Counter) : (s.setCounter k).links = s.links := rfl
@[simp] theorem State.setCounter_linkOut (s : State) (k : Counter) : (s.setCounter k).linkOut = s.linkOut := rfl
@[simp] theorem State.setCounter_colls (s : State) (k : Counter) : (s.setCounter k).colls = s.colls := rfl
@[simp] theorem State.setCounter_mgmt (s : State) (k : Counter) : (s.setCounter k).mgmt = s.mgmt := rfl
@[simp] theorem State.setCounter_nvIndex (s : State) (k : Counter) : (s.setCounter k).nvIndex = s.nvIndex := rfl
@[simp] theorem State.setCounter_elog (s : State) (k : Counter) : (s.setCounter k).elog = s.elog := rfl
@[simp] theorem State.setCounter_errovf (s : State) (k : Counter) : (s.setCounter k).errovf = s.errovf := rfl
@[simp] theorem State.setCounter_msix (s : State) (k : Counter) : (s.setCounter k).msix = s.msix := rfl
@[simp] theorem State.setCounter_tripPin (s : State) (k : Counter) : (s.setCounter k).tripPin = s.tripPin := rfl
@[simp] theorem State.setCounter_portOut (s : State) (k : Counter) : (s.setCounter k).portOut = s.portOut := rfl

/-! ### State.sendMsix -/

@[simp] theorem State.sendMsix_build (s : State) (v : Nat) (a : Option Nat) : (s.sendMsix v a).build = s.build := by
  unfold State.sendMsix; split <;> rfl
@[simp] theorem State.sendMsix_turns (s : State) (v : Nat) (a : Option Nat) : (s.sendMsix v a).turns = s.turns := by
  unfold State.sendMsix; split <;> rfl
@[simp] theorem State.sendMsix_cur (s : State) (v : Nat) (a : Option Nat) : (s.sendMsix v a).cur = s.cur := by
  unfold State.sendMsix; split <;> rfl
@[simp] theorem State.sendMsix_frozen (s : State) (v : Nat) (a : Option Nat) : (s.sendMsix v a).frozen = s.frozen := by
  unfold State.sendMsix; split <;> rfl
@[simp] theorem State.sendMsix_tapIr (s : State) (v : Nat) (a : Option Nat) : (s.sendMsix v a).tapIr = s.tapIr := by
  unfold State.sendMsix; split <;> rfl
@[simp] theorem State.sendMsix_tapOut (s : State) (v : Nat) (a : Option Nat) : (s.sendMsix v a).tapOut = s.tapOut := by
  unfold State.sendMsix; split <;> rfl
@[simp] theorem State.sendMsix_mem (s : State) (v : Nat) (a : Option Nat) : (s.sendMsix v a).mem = s.mem := by
  unfold State.sendMsix; split <;> rfl
@[simp] theorem State.sendMsix_hostMem (s : State) (v : Nat) (a : Option Nat) : (s.sendMsix v a).hostMem = s.hostMem := by
  unfold State.sendMsix; split <;> rfl
@[simp] theorem State.sendMsix_hostRanges (s : State) (v : Nat) (a : Option Nat) : (s.sendMsix v a).hostRanges = s.hostRanges := by
  unfold State.sendMsix; split <;> rfl
@[simp] theorem State.sendMsix_peerMem (s : State) (v : Nat) (a : Option Nat) : (s.sendMsix v a).peerMem = s.peerMem := by
  unfold State.sendMsix; split <;> rfl
@[simp] theorem State.sendMsix_tlb (s : State) (v : Nat) (a : Option Nat) : (s.sendMsix v a).tlb = s.tlb := by
  unfold State.sendMsix; split <;> rfl
@[simp] theorem State.sendMsix_cores (s : State) (v : Nat) (a : Option Nat) : (s.sendMsix v a).cores = s.cores := by
  unfold State.sendMsix; split <;> rfl
@[simp] theorem State.sendMsix_groups (s : State) (v : Nat) (a : Option Nat) : (s.sendMsix v a).groups = s.groups := by
  unfold State.sendMsix; split <;> rfl
@[simp] theorem State.sendMsix_ops (s : State) (v : Nat) (a : Option Nat) : (s.sendMsix v a).ops = s.ops := by
  unfold State.sendMsix; split <;> rfl
@[simp] theorem State.sendMsix_nextOp (s : State) (v : Nat) (a : Option Nat) : (s.sendMsix v a).nextOp = s.nextOp := by
  unfold State.sendMsix; split <;> rfl
@[simp] theorem State.sendMsix_creds (s : State) (v : Nat) (a : Option Nat) : (s.sendMsix v a).creds = s.creds := by
  unfold State.sendMsix; split <;> rfl
@[simp] theorem State.sendMsix_rowFns (s : State) (v : Nat) (a : Option Nat) : (s.sendMsix v a).rowFns = s.rowFns := by
  unfold State.sendMsix; split <;> rfl
@[simp] theorem State.sendMsix_nextHandle (s : State) (v : Nat) (a : Option Nat) : (s.sendMsix v a).nextHandle = s.nextHandle := by
  unfold State.sendMsix; split <;> rfl
@[simp] theorem State.sendMsix_rowApps (s : State) (v : Nat) (a : Option Nat) : (s.sendMsix v a).rowApps = s.rowApps := by
  unfold State.sendMsix; split <;> rfl
@[simp] theorem State.sendMsix_poisoned (s : State) (v : Nat) (a : Option Nat) : (s.sendMsix v a).poisoned = s.poisoned := by
  unfold State.sendMsix; split <;> rfl
@[simp] theorem State.sendMsix_hardErrs (s : State) (v : Nat) (a : Option Nat) : (s.sendMsix v a).hardErrs = s.hardErrs := by
  unfold State.sendMsix; split <;> rfl
@[simp] theorem State.sendMsix_softErrs (s : State) (v : Nat) (a : Option Nat) : (s.sendMsix v a).softErrs = s.softErrs := by
  unfold State.sendMsix; split <;> rfl
@[simp] theorem State.sendMsix_corrected (s : State) (v : Nat) (a : Option Nat) : (s.sendMsix v a).corrected = s.corrected := by
  unfold State.sendMsix; split <;> rfl
@[simp] theorem State.sendMsix_sweep (s : State) (v : Nat) (a : Option Nat) : (s.sendMsix v a).sweep = s.sweep := by
  unfold State.sendMsix; split <;> rfl
@[simp] theorem State.sendMsix_cells (s : State) (v : Nat) (a : Option Nat) : (s.sendMsix v a).cells = s.cells := by
  unfold State.sendMsix; split <;> rfl
@[simp] theorem State.sendMsix_jobs (s : State) (v : Nat) (a : Option Nat) : (s.sendMsix v a).jobs = s.jobs := by
  unfold State.sendMsix; split <;> rfl
@[simp] theorem State.sendMsix_launches (s : State) (v : Nat) (a : Option Nat) : (s.sendMsix v a).launches = s.launches := by
  unfold State.sendMsix; split <;> rfl
@[simp] theorem State.sendMsix_insts (s : State) (v : Nat) (a : Option Nat) : (s.sendMsix v a).insts = s.insts := by
  unfold State.sendMsix; split <;> rfl
@[simp] theorem State.sendMsix_nextSerial (s : State) (v : Nat) (a : Option Nat) : (s.sendMsix v a).nextSerial = s.nextSerial := by
  unfold State.sendMsix; split <;> rfl
@[simp] theorem State.sendMsix_traps (s : State) (v : Nat) (a : Option Nat) : (s.sendMsix v a).traps = s.traps := by
  unfold State.sendMsix; split <;> rfl
@[simp] theorem State.sendMsix_parked (s : State) (v : Nat) (a : Option Nat) : (s.sendMsix v a).parked = s.parked := by
  unfold State.sendMsix; split <;> rfl
@[simp] theorem State.sendMsix_queues (s : State) (v : Nat) (a : Option Nat) : (s.sendMsix v a).queues = s.queues := by
  unfold State.sendMsix; split <;> rfl
@[simp] theorem State.sendMsix_hubClock (s : State) (v : Nat) (a : Option Nat) : (s.sendMsix v a).hubClock = s.hubClock := by
  unfold State.sendMsix; split <;> rfl
@[simp] theorem State.sendMsix_links (s : State) (v : Nat) (a : Option Nat) : (s.sendMsix v a).links = s.links := by
  unfold State.sendMsix; split <;> rfl
@[simp] theorem State.sendMsix_linkOut (s : State) (v : Nat) (a : Option Nat) : (s.sendMsix v a).linkOut = s.linkOut := by
  unfold State.sendMsix; split <;> rfl
@[simp] theorem State.sendMsix_colls (s : State) (v : Nat) (a : Option Nat) : (s.sendMsix v a).colls = s.colls := by
  unfold State.sendMsix; split <;> rfl
@[simp] theorem State.sendMsix_mgmt (s : State) (v : Nat) (a : Option Nat) : (s.sendMsix v a).mgmt =
    if s.msixMasked v then { s.mgmt with msixPend := s.mgmt.msixPend ||| BitVec.ofNat 72 (2 ^ v) } else s.mgmt := by
  unfold State.sendMsix; split <;> rfl
@[simp] theorem State.sendMsix_nvIndex (s : State) (v : Nat) (a : Option Nat) : (s.sendMsix v a).nvIndex = s.nvIndex := by
  unfold State.sendMsix; split <;> rfl
@[simp] theorem State.sendMsix_elog (s : State) (v : Nat) (a : Option Nat) : (s.sendMsix v a).elog = s.elog := by
  unfold State.sendMsix; split <;> rfl
@[simp] theorem State.sendMsix_errovf (s : State) (v : Nat) (a : Option Nat) : (s.sendMsix v a).errovf = s.errovf := by
  unfold State.sendMsix; split <;> rfl
@[simp] theorem State.sendMsix_msix (s : State) (v : Nat) (a : Option Nat) :
    (s.sendMsix v a).msix = if s.msixMasked v then s.msix else v :: s.msix := by
  unfold State.sendMsix; split <;> rfl
@[simp] theorem State.sendMsix_tripPin (s : State) (v : Nat) (a : Option Nat) : (s.sendMsix v a).tripPin = s.tripPin := by
  unfold State.sendMsix; split <;> rfl
@[simp] theorem State.sendMsix_portOut (s : State) (v : Nat) (a : Option Nat) : (s.sendMsix v a).portOut = s.portOut := by
  unfold State.sendMsix; split <;> rfl

/-! ### State.count -/

@[simp] theorem State.count_build (s : State) (b k n : Nat) (a : Option Nat) (m : Nat) : (s.count b k n a m).build = s.build := rfl
@[simp] theorem State.count_turns (s : State) (b k n : Nat) (a : Option Nat) (m : Nat) : (s.count b k n a m).turns = s.turns := rfl
@[simp] theorem State.count_cur (s : State) (b k n : Nat) (a : Option Nat) (m : Nat) : (s.count b k n a m).cur = s.cur := rfl
@[simp] theorem State.count_frozen (s : State) (b k n : Nat) (a : Option Nat) (m : Nat) : (s.count b k n a m).frozen = s.frozen := rfl
@[simp] theorem State.count_tapIr (s : State) (b k n : Nat) (a : Option Nat) (m : Nat) : (s.count b k n a m).tapIr = s.tapIr := rfl
@[simp] theorem State.count_tapOut (s : State) (b k n : Nat) (a : Option Nat) (m : Nat) : (s.count b k n a m).tapOut = s.tapOut := rfl
@[simp] theorem State.count_mem (s : State) (b k n : Nat) (a : Option Nat) (m : Nat) : (s.count b k n a m).mem = s.mem := rfl
@[simp] theorem State.count_hostMem (s : State) (b k n : Nat) (a : Option Nat) (m : Nat) : (s.count b k n a m).hostMem = s.hostMem := rfl
@[simp] theorem State.count_hostRanges (s : State) (b k n : Nat) (a : Option Nat) (m : Nat) : (s.count b k n a m).hostRanges = s.hostRanges := rfl
@[simp] theorem State.count_peerMem (s : State) (b k n : Nat) (a : Option Nat) (m : Nat) : (s.count b k n a m).peerMem = s.peerMem := rfl
@[simp] theorem State.count_tlb (s : State) (b k n : Nat) (a : Option Nat) (m : Nat) : (s.count b k n a m).tlb = s.tlb := rfl
@[simp] theorem State.count_cores (s : State) (b k n : Nat) (a : Option Nat) (m : Nat) : (s.count b k n a m).cores = s.cores := rfl
@[simp] theorem State.count_groups (s : State) (b k n : Nat) (a : Option Nat) (m : Nat) : (s.count b k n a m).groups = s.groups := rfl
@[simp] theorem State.count_ops (s : State) (b k n : Nat) (a : Option Nat) (m : Nat) : (s.count b k n a m).ops = s.ops := rfl
@[simp] theorem State.count_nextOp (s : State) (b k n : Nat) (a : Option Nat) (m : Nat) : (s.count b k n a m).nextOp = s.nextOp := rfl
@[simp] theorem State.count_creds (s : State) (b k n : Nat) (a : Option Nat) (m : Nat) : (s.count b k n a m).creds = s.creds := rfl
@[simp] theorem State.count_rowFns (s : State) (b k n : Nat) (a : Option Nat) (m : Nat) : (s.count b k n a m).rowFns = s.rowFns := rfl
@[simp] theorem State.count_nextHandle (s : State) (b k n : Nat) (a : Option Nat) (m : Nat) : (s.count b k n a m).nextHandle = s.nextHandle := rfl
@[simp] theorem State.count_rowApps (s : State) (b k n : Nat) (a : Option Nat) (m : Nat) : (s.count b k n a m).rowApps = s.rowApps := rfl
@[simp] theorem State.count_poisoned (s : State) (b k n : Nat) (a : Option Nat) (m : Nat) : (s.count b k n a m).poisoned = s.poisoned := rfl
@[simp] theorem State.count_hardErrs (s : State) (b k n : Nat) (a : Option Nat) (m : Nat) : (s.count b k n a m).hardErrs = s.hardErrs := rfl
@[simp] theorem State.count_softErrs (s : State) (b k n : Nat) (a : Option Nat) (m : Nat) : (s.count b k n a m).softErrs = s.softErrs := rfl
@[simp] theorem State.count_corrected (s : State) (b k n : Nat) (a : Option Nat) (m : Nat) : (s.count b k n a m).corrected = s.corrected := rfl
@[simp] theorem State.count_sweep (s : State) (b k n : Nat) (a : Option Nat) (m : Nat) : (s.count b k n a m).sweep = s.sweep := rfl
@[simp] theorem State.count_cells (s : State) (b k n : Nat) (a : Option Nat) (m : Nat) : (s.count b k n a m).cells = s.cells := rfl
@[simp] theorem State.count_jobs (s : State) (b k n : Nat) (a : Option Nat) (m : Nat) : (s.count b k n a m).jobs = s.jobs := rfl
@[simp] theorem State.count_launches (s : State) (b k n : Nat) (a : Option Nat) (m : Nat) : (s.count b k n a m).launches = s.launches := rfl
@[simp] theorem State.count_insts (s : State) (b k n : Nat) (a : Option Nat) (m : Nat) : (s.count b k n a m).insts = s.insts := rfl
@[simp] theorem State.count_nextSerial (s : State) (b k n : Nat) (a : Option Nat) (m : Nat) : (s.count b k n a m).nextSerial = s.nextSerial := rfl
@[simp] theorem State.count_traps (s : State) (b k n : Nat) (a : Option Nat) (m : Nat) : (s.count b k n a m).traps = s.traps := rfl
@[simp] theorem State.count_parked (s : State) (b k n : Nat) (a : Option Nat) (m : Nat) : (s.count b k n a m).parked = s.parked := rfl
@[simp] theorem State.count_queues (s : State) (b k n : Nat) (a : Option Nat) (m : Nat) : (s.count b k n a m).queues = s.queues := rfl
@[simp] theorem State.count_hubClock (s : State) (b k n : Nat) (a : Option Nat) (m : Nat) : (s.count b k n a m).hubClock = s.hubClock := rfl
@[simp] theorem State.count_links (s : State) (b k n : Nat) (a : Option Nat) (m : Nat) : (s.count b k n a m).links = s.links := rfl
@[simp] theorem State.count_linkOut (s : State) (b k n : Nat) (a : Option Nat) (m : Nat) : (s.count b k n a m).linkOut = s.linkOut := rfl
@[simp] theorem State.count_colls (s : State) (b k n : Nat) (a : Option Nat) (m : Nat) : (s.count b k n a m).colls = s.colls := rfl
@[simp] theorem State.count_mgmt (s : State) (b k n : Nat) (a : Option Nat) (m : Nat) : (s.count b k n a m).mgmt = s.mgmt := rfl
@[simp] theorem State.count_nvIndex (s : State) (b k n : Nat) (a : Option Nat) (m : Nat) : (s.count b k n a m).nvIndex = s.nvIndex := rfl
@[simp] theorem State.count_elog (s : State) (b k n : Nat) (a : Option Nat) (m : Nat) : (s.count b k n a m).elog = s.elog := rfl
@[simp] theorem State.count_errovf (s : State) (b k n : Nat) (a : Option Nat) (m : Nat) : (s.count b k n a m).errovf = s.errovf := rfl
@[simp] theorem State.count_msix (s : State) (b k n : Nat) (a : Option Nat) (m : Nat) : (s.count b k n a m).msix = s.msix := rfl
@[simp] theorem State.count_tripPin (s : State) (b k n : Nat) (a : Option Nat) (m : Nat) : (s.count b k n a m).tripPin = s.tripPin := rfl
@[simp] theorem State.count_portOut (s : State) (b k n : Nat) (a : Option Nat) (m : Nat) : (s.count b k n a m).portOut = s.portOut := rfl

/-! ### State.hostFlits -/

@[simp] theorem State.hostFlits_build (s : State) (n k : Nat) : (s.hostFlits n k).build = s.build := rfl
@[simp] theorem State.hostFlits_turns (s : State) (n k : Nat) : (s.hostFlits n k).turns = s.turns := rfl
@[simp] theorem State.hostFlits_cur (s : State) (n k : Nat) : (s.hostFlits n k).cur = s.cur := rfl
@[simp] theorem State.hostFlits_frozen (s : State) (n k : Nat) : (s.hostFlits n k).frozen = s.frozen := rfl
@[simp] theorem State.hostFlits_tapIr (s : State) (n k : Nat) : (s.hostFlits n k).tapIr = s.tapIr := rfl
@[simp] theorem State.hostFlits_tapOut (s : State) (n k : Nat) : (s.hostFlits n k).tapOut = s.tapOut := rfl
@[simp] theorem State.hostFlits_mem (s : State) (n k : Nat) : (s.hostFlits n k).mem = s.mem := rfl
@[simp] theorem State.hostFlits_hostMem (s : State) (n k : Nat) : (s.hostFlits n k).hostMem = s.hostMem := rfl
@[simp] theorem State.hostFlits_hostRanges (s : State) (n k : Nat) : (s.hostFlits n k).hostRanges = s.hostRanges := rfl
@[simp] theorem State.hostFlits_peerMem (s : State) (n k : Nat) : (s.hostFlits n k).peerMem = s.peerMem := rfl
@[simp] theorem State.hostFlits_tlb (s : State) (n k : Nat) : (s.hostFlits n k).tlb = s.tlb := rfl
@[simp] theorem State.hostFlits_cores (s : State) (n k : Nat) : (s.hostFlits n k).cores = s.cores := rfl
@[simp] theorem State.hostFlits_groups (s : State) (n k : Nat) : (s.hostFlits n k).groups = s.groups := rfl
@[simp] theorem State.hostFlits_ops (s : State) (n k : Nat) : (s.hostFlits n k).ops = s.ops := rfl
@[simp] theorem State.hostFlits_nextOp (s : State) (n k : Nat) : (s.hostFlits n k).nextOp = s.nextOp := rfl
@[simp] theorem State.hostFlits_creds (s : State) (n k : Nat) : (s.hostFlits n k).creds = s.creds := rfl
@[simp] theorem State.hostFlits_rowFns (s : State) (n k : Nat) : (s.hostFlits n k).rowFns = s.rowFns := rfl
@[simp] theorem State.hostFlits_nextHandle (s : State) (n k : Nat) : (s.hostFlits n k).nextHandle = s.nextHandle := rfl
@[simp] theorem State.hostFlits_rowApps (s : State) (n k : Nat) : (s.hostFlits n k).rowApps = s.rowApps := rfl
@[simp] theorem State.hostFlits_poisoned (s : State) (n k : Nat) : (s.hostFlits n k).poisoned = s.poisoned := rfl
@[simp] theorem State.hostFlits_hardErrs (s : State) (n k : Nat) : (s.hostFlits n k).hardErrs = s.hardErrs := rfl
@[simp] theorem State.hostFlits_softErrs (s : State) (n k : Nat) : (s.hostFlits n k).softErrs = s.softErrs := rfl
@[simp] theorem State.hostFlits_corrected (s : State) (n k : Nat) : (s.hostFlits n k).corrected = s.corrected := rfl
@[simp] theorem State.hostFlits_sweep (s : State) (n k : Nat) : (s.hostFlits n k).sweep = s.sweep := rfl
@[simp] theorem State.hostFlits_cells (s : State) (n k : Nat) : (s.hostFlits n k).cells = s.cells := rfl
@[simp] theorem State.hostFlits_jobs (s : State) (n k : Nat) : (s.hostFlits n k).jobs = s.jobs := rfl
@[simp] theorem State.hostFlits_launches (s : State) (n k : Nat) : (s.hostFlits n k).launches = s.launches := rfl
@[simp] theorem State.hostFlits_insts (s : State) (n k : Nat) : (s.hostFlits n k).insts = s.insts := rfl
@[simp] theorem State.hostFlits_nextSerial (s : State) (n k : Nat) : (s.hostFlits n k).nextSerial = s.nextSerial := rfl
@[simp] theorem State.hostFlits_traps (s : State) (n k : Nat) : (s.hostFlits n k).traps = s.traps := rfl
@[simp] theorem State.hostFlits_parked (s : State) (n k : Nat) : (s.hostFlits n k).parked = s.parked := rfl
@[simp] theorem State.hostFlits_queues (s : State) (n k : Nat) : (s.hostFlits n k).queues = s.queues := rfl
@[simp] theorem State.hostFlits_hubClock (s : State) (n k : Nat) : (s.hostFlits n k).hubClock = s.hubClock := rfl
@[simp] theorem State.hostFlits_links (s : State) (n k : Nat) : (s.hostFlits n k).links = s.links := rfl
@[simp] theorem State.hostFlits_linkOut (s : State) (n k : Nat) : (s.hostFlits n k).linkOut = s.linkOut := rfl
@[simp] theorem State.hostFlits_colls (s : State) (n k : Nat) : (s.hostFlits n k).colls = s.colls := rfl
@[simp] theorem State.hostFlits_mgmt (s : State) (n k : Nat) : (s.hostFlits n k).mgmt = s.mgmt := rfl
@[simp] theorem State.hostFlits_nvIndex (s : State) (n k : Nat) : (s.hostFlits n k).nvIndex = s.nvIndex := rfl
@[simp] theorem State.hostFlits_elog (s : State) (n k : Nat) : (s.hostFlits n k).elog = s.elog := rfl
@[simp] theorem State.hostFlits_errovf (s : State) (n k : Nat) : (s.hostFlits n k).errovf = s.errovf := rfl
@[simp] theorem State.hostFlits_msix (s : State) (n k : Nat) : (s.hostFlits n k).msix = s.msix := rfl
@[simp] theorem State.hostFlits_tripPin (s : State) (n k : Nat) : (s.hostFlits n k).tripPin = s.tripPin := rfl
@[simp] theorem State.hostFlits_portOut (s : State) (n k : Nat) : (s.hostFlits n k).portOut = s.portOut := rfl

/-! ### State.emitMsix -/

@[simp] theorem State.emitMsix_build (s : State) (v : Nat) (a : Option Nat) : (s.emitMsix v a).build = s.build := rfl
@[simp] theorem State.emitMsix_turns (s : State) (v : Nat) (a : Option Nat) : (s.emitMsix v a).turns = s.turns := rfl
@[simp] theorem State.emitMsix_cur (s : State) (v : Nat) (a : Option Nat) : (s.emitMsix v a).cur = s.cur := rfl
@[simp] theorem State.emitMsix_frozen (s : State) (v : Nat) (a : Option Nat) : (s.emitMsix v a).frozen = s.frozen := rfl
@[simp] theorem State.emitMsix_tapIr (s : State) (v : Nat) (a : Option Nat) : (s.emitMsix v a).tapIr = s.tapIr := rfl
@[simp] theorem State.emitMsix_tapOut (s : State) (v : Nat) (a : Option Nat) : (s.emitMsix v a).tapOut = s.tapOut := rfl
@[simp] theorem State.emitMsix_mem (s : State) (v : Nat) (a : Option Nat) : (s.emitMsix v a).mem = s.mem := rfl
@[simp] theorem State.emitMsix_hostMem (s : State) (v : Nat) (a : Option Nat) : (s.emitMsix v a).hostMem = s.hostMem := rfl
@[simp] theorem State.emitMsix_hostRanges (s : State) (v : Nat) (a : Option Nat) : (s.emitMsix v a).hostRanges = s.hostRanges := rfl
@[simp] theorem State.emitMsix_peerMem (s : State) (v : Nat) (a : Option Nat) : (s.emitMsix v a).peerMem = s.peerMem := rfl
@[simp] theorem State.emitMsix_tlb (s : State) (v : Nat) (a : Option Nat) : (s.emitMsix v a).tlb = s.tlb := rfl
@[simp] theorem State.emitMsix_cores (s : State) (v : Nat) (a : Option Nat) : (s.emitMsix v a).cores = s.cores := rfl
@[simp] theorem State.emitMsix_groups (s : State) (v : Nat) (a : Option Nat) : (s.emitMsix v a).groups = s.groups := rfl
@[simp] theorem State.emitMsix_ops (s : State) (v : Nat) (a : Option Nat) : (s.emitMsix v a).ops = s.ops := rfl
@[simp] theorem State.emitMsix_nextOp (s : State) (v : Nat) (a : Option Nat) : (s.emitMsix v a).nextOp = s.nextOp := rfl
@[simp] theorem State.emitMsix_creds (s : State) (v : Nat) (a : Option Nat) : (s.emitMsix v a).creds = s.creds := rfl
@[simp] theorem State.emitMsix_rowFns (s : State) (v : Nat) (a : Option Nat) : (s.emitMsix v a).rowFns = s.rowFns := rfl
@[simp] theorem State.emitMsix_nextHandle (s : State) (v : Nat) (a : Option Nat) : (s.emitMsix v a).nextHandle = s.nextHandle := rfl
@[simp] theorem State.emitMsix_rowApps (s : State) (v : Nat) (a : Option Nat) : (s.emitMsix v a).rowApps = s.rowApps := rfl
@[simp] theorem State.emitMsix_poisoned (s : State) (v : Nat) (a : Option Nat) : (s.emitMsix v a).poisoned = s.poisoned := rfl
@[simp] theorem State.emitMsix_hardErrs (s : State) (v : Nat) (a : Option Nat) : (s.emitMsix v a).hardErrs = s.hardErrs := rfl
@[simp] theorem State.emitMsix_softErrs (s : State) (v : Nat) (a : Option Nat) : (s.emitMsix v a).softErrs = s.softErrs := rfl
@[simp] theorem State.emitMsix_corrected (s : State) (v : Nat) (a : Option Nat) : (s.emitMsix v a).corrected = s.corrected := rfl
@[simp] theorem State.emitMsix_sweep (s : State) (v : Nat) (a : Option Nat) : (s.emitMsix v a).sweep = s.sweep := rfl
@[simp] theorem State.emitMsix_cells (s : State) (v : Nat) (a : Option Nat) : (s.emitMsix v a).cells = s.cells := rfl
@[simp] theorem State.emitMsix_jobs (s : State) (v : Nat) (a : Option Nat) : (s.emitMsix v a).jobs = s.jobs := rfl
@[simp] theorem State.emitMsix_launches (s : State) (v : Nat) (a : Option Nat) : (s.emitMsix v a).launches = s.launches := rfl
@[simp] theorem State.emitMsix_insts (s : State) (v : Nat) (a : Option Nat) : (s.emitMsix v a).insts = s.insts := rfl
@[simp] theorem State.emitMsix_nextSerial (s : State) (v : Nat) (a : Option Nat) : (s.emitMsix v a).nextSerial = s.nextSerial := rfl
@[simp] theorem State.emitMsix_traps (s : State) (v : Nat) (a : Option Nat) : (s.emitMsix v a).traps = s.traps := rfl
@[simp] theorem State.emitMsix_parked (s : State) (v : Nat) (a : Option Nat) : (s.emitMsix v a).parked = s.parked := rfl
@[simp] theorem State.emitMsix_queues (s : State) (v : Nat) (a : Option Nat) : (s.emitMsix v a).queues = s.queues := rfl
@[simp] theorem State.emitMsix_hubClock (s : State) (v : Nat) (a : Option Nat) : (s.emitMsix v a).hubClock = s.hubClock := rfl
@[simp] theorem State.emitMsix_links (s : State) (v : Nat) (a : Option Nat) : (s.emitMsix v a).links = s.links := rfl
@[simp] theorem State.emitMsix_linkOut (s : State) (v : Nat) (a : Option Nat) : (s.emitMsix v a).linkOut = s.linkOut := rfl
@[simp] theorem State.emitMsix_colls (s : State) (v : Nat) (a : Option Nat) : (s.emitMsix v a).colls = s.colls := rfl
@[simp] theorem State.emitMsix_mgmt (s : State) (v : Nat) (a : Option Nat) : (s.emitMsix v a).mgmt = s.mgmt := rfl
@[simp] theorem State.emitMsix_nvIndex (s : State) (v : Nat) (a : Option Nat) : (s.emitMsix v a).nvIndex = s.nvIndex := rfl
@[simp] theorem State.emitMsix_elog (s : State) (v : Nat) (a : Option Nat) : (s.emitMsix v a).elog = s.elog := rfl
@[simp] theorem State.emitMsix_errovf (s : State) (v : Nat) (a : Option Nat) : (s.emitMsix v a).errovf = s.errovf := rfl
@[simp] theorem State.emitMsix_msix (s : State) (v : Nat) (a : Option Nat) : (s.emitMsix v a).msix = v :: s.msix := rfl
@[simp] theorem State.emitMsix_tripPin (s : State) (v : Nat) (a : Option Nat) : (s.emitMsix v a).tripPin = s.tripPin := rfl
@[simp] theorem State.emitMsix_portOut (s : State) (v : Nat) (a : Option Nat) : (s.emitMsix v a).portOut = s.portOut := rfl

end Sys2Proof.Machine
end

