-- ==== Sys2Proof/Laws/Ops.lean ====
section
/-! SUPPORT. What the shared operation that executes an instruction can do, by how its meaning ends (R77): a proof about an
instruction cites one of these and never unfolds `issue`. -/

set_option Elab.async false

namespace Sys2Proof.Machine

/-! ## The checks before the meaning -/

/-- An instruction that is assigned an opcode passes its checks when it runs. -/
theorem checks_pass {s : State} {i : Instr} {g : Group} {t : Thread} (h : Runs s i g t)
    (hn : ∀ r, i ≠ .illegalOpcode r) : checksOf i (ctxOf s i g t) = none := by
  have e : t.hazards (namesOf i) = [] := h.free
  have l : (Machine.legal i && regsExist g.nregs i) = true := by rw [h.legal, h.regs]; rfl
  unfold checksOf
  split
  · exact absurd rfl (hn _)
  · simp only [ctxOf, l, e, Bool.not_true, Bool.false_eq_true, if_false, List.isEmpty_nil, Bool.true_or, if_true]

/-- An instruction that runs has its meaning's effect. -/
theorem issue_runs {s : State} {i : Instr} {g : Group} {t : Thread} (h : Runs s i g t)
    (hn : ∀ r, i ≠ .illegalOpcode r) (body : Ctx → State → Eff) :
    issue i s body = .next (s.settleEff (ctxOf s i g t) (insnOf i) (lookOf i) (destSet i) (body (ctxOf s i g t) s)) := by
  have hc := checks_pass h hn
  simp only [ctxOf, nextPc] at hc
  simp only [issue, State.issueWith, h.grp, h.thr, h.guardThere, h.guard, h.unit, Bool.not_true, Bool.false_eq_true,
    if_false, ctxOf, nextPc, hc]

/-- It completes. -/
theorem issue_done {s u : State} {i : Instr} {g : Group} {t : Thread} (h : Runs s i g t) {body : Ctx → State → Eff}
    {ws : List Write} (e : body (ctxOf s i g t) s = .done u ws) (hn : ∀ r, i ≠ .illegalOpcode r := by intro r; simp) :
    issue i s body = .next (u.finished (ctxOf s i g t) i ws) := by
  rw [issue_runs h hn, e]; rfl

/-- It is transferred. -/
theorem issue_jump {s u : State} {i : Instr} {g : Group} {t : Thread} (h : Runs s i g t) {body : Ctx → State → Eff}
    {pc : Dword} (e : body (ctxOf s i g t) s = .jump u pc) (hn : ∀ r, i ≠ .illegalOpcode r := by intro r; simp) :
    issue i s body = .next (u.jumped (ctxOf s i g t) pc) := by
  rw [issue_runs h hn, e]; rfl

/-- It faults with none of its effects. -/
theorem issue_trap {s : State} {i : Instr} {g : Group} {t : Thread} (h : Runs s i g t) {body : Ctx → State → Eff}
    {x : TrapInfo} (e : body (ctxOf s i g t) s = .trap x) (hn : ∀ r, i ≠ .illegalOpcode r := by intro r; simp) :
    issue i s body = .next (s.trappedAt s (ctxOf s i g t) i x) := by
  rw [issue_runs h hn, e]; rfl

/-- It waits and is executed again. -/
theorem issue_poll {s : State} {i : Instr} {g : Group} {t : Thread} (h : Runs s i g t) {body : Ctx → State → Eff}
    {w : Wait} (e : body (ctxOf s i g t) s = .poll w) (hn : ∀ r, i ≠ .illegalOpcode r := by intro r; simp) :
    issue i s body = .next (s.poll s.cur.ref w (some (insnOf i)) s.cur.shortw) := by
  rw [issue_runs h hn, e]; rfl

/-- It meets an absent page. -/
theorem issue_park {s : State} {i : Instr} {g : Group} {t : Thread} (h : Runs s i g t) {body : Ctx → State → Eff}
    {a : Dword} {w : Bool} (e : body (ctxOf s i g t) s = .park a w) (hn : ∀ r, i ≠ .illegalOpcode r := by intro r; simp) :
    issue i s body = .next (s.parkThread s.cur.ref (some (insnOf i)) s.cur.shortw a false w) := by
  rw [issue_runs h hn, e]; rfl

/-- Its meaning has placed the thread itself. -/
theorem issue_raw {s u : State} {i : Instr} {g : Group} {t : Thread} (h : Runs s i g t) {body : Ctx → State → Eff}
    (e : body (ctxOf s i g t) s = .raw u) (hn : ∀ r, i ≠ .illegalOpcode r := by intro r; simp) :
    issue i s body = .next u := by
  rw [issue_runs h hn, e]; rfl

/-- It completes and its result is still to come. -/
theorem issue_pend {s u : State} {i : Instr} {g : Group} {t : Thread} (h : Runs s i g t) {body : Ctx → State → Eff}
    {r : WRes} (e : body (ctxOf s i g t) s = .pend u r) (hn : ∀ r, i ≠ .illegalOpcode r := by intro r; simp) :
    issue i s body =
      .next (u.setLive s.cur.ref fun x => x.completeLook (nextPc s i t) (lookOf i) (destSet i) r) := by
  rw [issue_runs h hn, e]; rfl

/-- An instruction that only reads and writes registers. -/
theorem regOp_runs {s : State} {i : Instr} {g : Group} {t : Thread} (h : Runs s i g t) (f : Ctx → List Write)
    (hn : ∀ r, i ≠ .illegalOpcode r := by intro r; simp) :
    regOp i s f = .next (s.finished (ctxOf s i g t) i (f (ctxOf s i g t))) := issue_done h rfl hn

/-- An instruction whose guard fails is passed over (R14, R59). -/
theorem issue_passed {s : State} {i : Instr} {g : Group} {t : Thread} (body : Ctx → State → Eff)
    (hg : s.groups[s.cur.ref.grp]? = some g) (ht : s.thr s.cur.ref = some t) (ho : t.guardOpen (hdrOf i) = false)
    (hh : t.guardHolds (hdrOf i) = false) :
    issue i s body =
      .next (s.setThr s.cur.ref fun x => x.passOver (nextPc s i t) (lookOf i) (destSet i)) := by
  simp only [issue, State.issueWith, hg, ht, ho, hh, Bool.not_false, Bool.false_eq_true, if_false, if_true, nextPc]

/-- Executed for a thread of the state, an instruction answers a next state. -/
theorem issue_answers {s : State} (h : s.curOk) (i : Instr) (body : Ctx → State → Eff) : answers (issue i s body) := by
  obtain ⟨g, t, hg, ht⟩ := h
  unfold issue State.issueWith answers
  rw [hg, ht]
  dsimp only
  repeat' split
  all_goals exact ⟨_, rfl⟩

/-- A step of the device answers a next state. -/
theorem event_answers (s : State) (f : State → State) : answers (event s f) := ⟨_, rfl⟩

/-- A step of the device changes nothing while the device is frozen (R328). -/
theorem event_frozen {s : State} (h : s.frozen = true) (f : State → State) : event s f = .next s := by
  simp [event, h]

/-- A step of the device that is not frozen. -/
theorem event_runs {s : State} (h : s.frozen = false) (f : State → State) : event s f = .next (f s) := by
  simp [event, h]

/-! ## Threads after an instruction -/

@[simp] theorem thr_setThr_self (s : State) (r : ThreadRef) (f : Thread → Thread) :
    (s.setThr r f).thr r = (s.thr r).map f := by
  unfold State.setThr State.setGrp State.thr
  simp only [List.getElem?_modify_eq]
  cases s.groups[r.grp]? <;> simp

/-- Another thread is untouched. -/
theorem thr_setThr_ne (s : State) (r r' : ThreadRef) (f : Thread → Thread) (h : r ≠ r') :
    (s.setThr r f).thr r' = s.thr r' := by
  unfold State.setThr State.setGrp State.thr
  by_cases hg : r.grp = r'.grp
  · have ht : r.tid ≠ r'.tid := fun e => h (by cases r; cases r'; simp_all)
    simp only [hg, List.getElem?_modify_eq]
    cases s.groups[r'.grp]? with
    | none => rfl
    | some g => simp [ht]
  · simp only [List.getElem?_modify, hg, if_false, id_map']

/-- A thread's predicate registers, flags and d registers as one window's delivery or a list of writes changes them. -/
theorem putAll_dreg {t : Thread} {ws : List Write} {n : Nat} (h : unwritten (.d n) ws) : (t.putAll ws).dreg n = t.dreg n := by
  induction ws generalizing t with
  | nil => rfl
  | cons w ws ih =>
    have hw : ∀ v, w ≠ .reg (.d n) v := fun v e => h v (e ▸ List.mem_cons_self ..)
    have step : (t.put w).dreg n = t.dreg n := by
      unfold Thread.put
      split <;> try rfl
      rename_i k v
      have : k ≠ n := fun e => hw v (by rw [e])
      simp [Thread.dreg, List.getD, this]
    rw [← step]
    exact ih fun v hv => h v (List.mem_cons_of_mem _ hv)

/-- A window's registers stay when its values name none of them. -/
theorem take_dreg {t : Thread} {w : Window} {n : Nat} (h : ∀ ws, w.res = .vals ws → unwritten (.d n) ws) :
    (t.take w).dreg n = t.dreg n := by
  unfold Thread.take
  split
  · rename_i ws e; exact putAll_dreg (h ws e)
  · rfl

theorem foldl_take_dreg {ws : List Window} {t : Thread} {n : Nat}
    (h : ∀ w ∈ ws, ∀ vs, w.res = .vals vs → unwritten (.d n) vs) : (ws.foldl Thread.take t).dreg n = t.dreg n := by
  induction ws generalizing t with
  | nil => rfl
  | cons w ws ih =>
    simp only [List.foldl_cons]
    rw [ih fun x hx => h x (List.mem_cons_of_mem _ hx), take_dreg (h w (List.mem_cons_self ..))]

/-! ## What an order and a load leave of a core (R108, R114, R256) -/

/-- Nothing of a core's L1 stays. -/
theorem clearL1_l1 (s : State) (c k : Nat) : ((s.clearL1 c).core k).l1 = if c = k then [] else (s.core k).l1 := by
  simp only [State.clearL1, State.setCore, State.core, List.getD, List.getElem?_modify]
  split
  · cases s.cores[k]? <;> rfl
  · cases s.cores[k]? <;> rfl

/-- An order leaves the state alone or empties the core's L1, the second where a release has written. -/
theorem ordered_cases (s : State) (core : Nat) (m : Mc) (wr : Bool) :
    (s.ordered core m wr = s ∧ (wr && Order.releases m.order) = false) ∨ s.ordered core m wr = s.clearL1 core := by
  unfold State.ordered State.acquire
  split
  · exact .inr rfl
  · rename_i h
    have h' : (wr && Order.releases m.order) = false := by simpa using h
    split
    · split <;> first | exact .inl ⟨rfl, h'⟩ | exact .inr rfl
    · exact .inl ⟨rfl, h'⟩

/-- The data of a load change no slot's tag. -/
theorem fillSlot_tag (s : State) (core slot n : Nat) (f : LFmt) (vs : List (Nat × Word)) (k j : Nat) :
    (((s.fillSlot core slot n f vs).core k).slots.getD j WSlot.empty).tag = ((s.core k).slots.getD j WSlot.empty).tag := by
  simp only [State.fillSlot, State.setCore, State.core, List.getD, List.getElem?_modify]
  cases s.cores[k]? with
  | none => simp
  | some c =>
    by_cases e : core = k
    · simp only [e, if_true, Option.map_eq_map, Option.map_some, Option.getD_some, List.getElem?_modify]
      cases c.slots[j]? with
      | none => rfl
      | some w =>
        by_cases e' : slot = j
        · simp only [e', if_true, Option.map_some, Option.getD_some]; split <;> rfl
        · simp [e']
    · simp [e]

end Sys2Proof.Machine
end

