-- ==== Sys2Proof/Laws/PerInstr.lean ====
section
/-! SUPPORT. Family Coding: for every instruction, the decoder picks from the fields that encode it the instruction itself,
and an encoding has nothing beyond its length (R50 to R58). A step of the device and a short have no such fields. -/

set_option Elab.async false

namespace Sys2Proof.Laws

open Machine

/-- An unassigned opcode is picked as itself (R74). -/
theorem pick_unassigned (r : Raw) (h : assigned r.op = false) : pick r = some (.illegalOpcode r) := by
  unfold pick
  split <;> first
    | rfl
    | (rename_i e; exact absurd h (by unfold assigned; dsimp only; rw [e]; decide))

namespace Coding

/-- The fields of a well-formed instruction are read back as that instruction. -/
def Statement (i : Instr) : Prop :=
  ∀ r, legal i = true → toRaw i = some r → pick r = some i ∧ r.hdr = hdrOf i ∧ r.hi = r.hdr.len.clip r.hi

theorem short (b) (idx) (h0) (h1) (h2) : Statement (.short b idx h0 h1 h2) := fun _ _ h => nomatch h

theorem shortNop (b) (h0) (h1) (h2) : Statement (.shortNop b h0 h1 h2) := fun _ _ h => nomatch h

theorem iadd (h) (d) (a) (b) : Statement (.iadd h d a b) := by
  rintro _ hl ⟨⟩
  have ok := legal_ok hl
  simp only [fieldsOk, Bool.and_eq_true] at ok
  exact ⟨pick_step a (srcA_ok (l := h.len) ok.1.2 (amod_a ..) rfl) (pick_step b (srcB_ok ok.2 ok.1.1 (amod_b ..) rfl rfl) rfl), rfl, clip_B2 _ ok.1.1⟩

theorem isub (h) (d) (a) (b) : Statement (.isub h d a b) := by
  rintro _ hl ⟨⟩
  have ok := legal_ok hl
  simp only [fieldsOk, Bool.and_eq_true] at ok
  exact ⟨pick_step a (srcA_ok (l := h.len) ok.1.2 (amod_a ..) rfl) (pick_step b (srcB_ok ok.2 ok.1.1 (amod_b ..) rfl rfl) rfl), rfl, clip_B2 _ ok.1.1⟩

theorem imul (h) (d) (a) (b) : Statement (.imul h d a b) := by
  rintro _ hl ⟨⟩
  have ok := legal_ok hl
  simp only [fieldsOk, Bool.and_eq_true] at ok
  exact ⟨pick_step a (srcA_ok (l := h.len) ok.1.2 (amod_a ..) rfl) (pick_step b (srcB_ok ok.2 ok.1.1 (amod_b ..) rfl rfl) rfl), rfl, clip_B2 _ ok.1.1⟩

theorem imulh (h) (u) (d) (a) (b) : Statement (.imulh h u d a b) := by
  rintro _ hl ⟨⟩
  have ok := legal_ok hl
  simp only [fieldsOk, Bool.and_eq_true] at ok
  exact ⟨pick_step a (srcA_ok (l := h.len) ok.1.2 (amod_a ..) rfl) (pick_step b (srcB_ok ok.2 ok.1.1 (amod_b ..) rfl rfl) (by simp only [bit4_eq])), rfl, clip_B2 _ ok.1.1⟩

theorem imad (h) (d) (a) (b) (c) : Statement (.imad h d a b c) := by
  rintro _ hl ⟨⟩
  have ok := legal_ok hl
  simp only [fieldsOk, Bool.and_eq_true] at ok
  exact ⟨pick_step a (srcA_ok (l := h.len) ok.1.1.2 (amod_a ..) rfl) (pick_step b (srcB3_ok ok.1.1.1 ok.1.2 (amod_b ..) rfl rfl) (pick_step c (srcC_ok ok.1.1.1 ok.2 rfl) rfl)), rfl, clip_C3 ok.1.1.1⟩

theorem imadw (h) (u) (d) (a) (b) (c) : Statement (.imadw h u d a b c) := by
  rintro _ hl ⟨⟩
  have ok := legal_ok hl
  simp only [fieldsOk, Bool.and_eq_true] at ok
  exact ⟨pick_step a (srcA_ok (l := h.len) ok.1.1.1.2 (amod_a ..) rfl) (pick_step b (srcB3_ok ok.1.1.1.1 ok.1.1.2 (amod_b ..) rfl rfl) (pick_step c (srcC_ok ok.1.1.1.1 ok.1.2 rfl) (by simp only [amod_0]))), rfl, clip_C3 ok.1.1.1.1⟩

theorem ineg (h) (d) (a) : Statement (.ineg h d a) := by
  rintro _ hl ⟨⟩
  have ok := legal_ok hl
  simp only [fieldsOk, Bool.and_eq_true] at ok
  exact ⟨pick_step a (srcA_ok (l := h.len) ok.2 (amod_a ..) rfl) rfl, rfl, clip_0 _⟩

theorem iabs (h) (d) (a) : Statement (.iabs h d a) := by
  rintro _ hl ⟨⟩
  have ok := legal_ok hl
  simp only [fieldsOk, Bool.and_eq_true] at ok
  exact ⟨pick_step a (srcA_ok (l := h.len) ok.2 (amod_a ..) rfl) rfl, rfl, clip_0 _⟩

theorem imin (h) (u) (d) (a) (b) : Statement (.imin h u d a b) := by
  rintro _ hl ⟨⟩
  have ok := legal_ok hl
  simp only [fieldsOk, Bool.and_eq_true] at ok
  exact ⟨pick_step a (srcA_ok (l := h.len) ok.1.2 (amod_a ..) rfl) (pick_step b (srcB_ok ok.2 ok.1.1 (amod_b ..) rfl rfl) (by simp only [bit4_eq])), rfl, clip_B2 _ ok.1.1⟩

theorem imax (h) (u) (d) (a) (b) : Statement (.imax h u d a b) := by
  rintro _ hl ⟨⟩
  have ok := legal_ok hl
  simp only [fieldsOk, Bool.and_eq_true] at ok
  exact ⟨pick_step a (srcA_ok (l := h.len) ok.1.2 (amod_a ..) rfl) (pick_step b (srcB_ok ok.2 ok.1.1 (amod_b ..) rfl rfl) (by simp only [bit4_eq])), rfl, clip_B2 _ ok.1.1⟩

theorem ishl (h) (d) (a) (b) : Statement (.ishl h d a b) := by
  rintro _ hl ⟨⟩
  have ok := legal_ok hl
  simp only [fieldsOk, Bool.and_eq_true] at ok
  exact ⟨pick_step a (srcA_ok (l := h.len) ok.1.2 (amod_a ..) rfl) (pick_step b (srcB_ok ok.2 ok.1.1 (amod_b ..) rfl rfl) rfl), rfl, clip_B2 _ ok.1.1⟩

theorem ishr (h) (d) (a) (b) : Statement (.ishr h d a b) := by
  rintro _ hl ⟨⟩
  have ok := legal_ok hl
  simp only [fieldsOk, Bool.and_eq_true] at ok
  exact ⟨pick_step a (srcA_ok (l := h.len) ok.1.2 (amod_a ..) rfl) (pick_step b (srcB_ok ok.2 ok.1.1 (amod_b ..) rfl rfl) rfl), rfl, clip_B2 _ ok.1.1⟩

theorem ilsr (h) (d) (a) (b) : Statement (.ilsr h d a b) := by
  rintro _ hl ⟨⟩
  have ok := legal_ok hl
  simp only [fieldsOk, Bool.and_eq_true] at ok
  exact ⟨pick_step a (srcA_ok (l := h.len) ok.1.2 (amod_a ..) rfl) (pick_step b (srcB_ok ok.2 ok.1.1 (amod_b ..) rfl rfl) rfl), rfl, clip_B2 _ ok.1.1⟩

theorem irot (h) (d) (a) (b) : Statement (.irot h d a b) := by
  rintro _ hl ⟨⟩
  have ok := legal_ok hl
  simp only [fieldsOk, Bool.and_eq_true] at ok
  exact ⟨pick_step a (srcA_ok (l := h.len) ok.1.2 (amod_a ..) rfl) (pick_step b (srcB_ok ok.2 ok.1.1 (amod_b ..) rfl rfl) rfl), rfl, clip_B2 _ ok.1.1⟩

theorem iand (h) (d) (a) (b) : Statement (.iand h d a b) := by
  rintro _ hl ⟨⟩
  have ok := legal_ok hl
  simp only [fieldsOk, Bool.and_eq_true] at ok
  exact ⟨pick_step a (srcA_ok (l := h.len) ok.1.2 (amod_a ..) rfl) (pick_step b (srcB_ok ok.2 ok.1.1 (amod_b ..) rfl rfl) rfl), rfl, clip_B2 _ ok.1.1⟩

theorem ior (h) (d) (a) (b) : Statement (.ior h d a b) := by
  rintro _ hl ⟨⟩
  have ok := legal_ok hl
  simp only [fieldsOk, Bool.and_eq_true] at ok
  exact ⟨pick_step a (srcA_ok (l := h.len) ok.1.2 (amod_a ..) rfl) (pick_step b (srcB_ok ok.2 ok.1.1 (amod_b ..) rfl rfl) rfl), rfl, clip_B2 _ ok.1.1⟩

theorem ixor (h) (d) (a) (b) : Statement (.ixor h d a b) := by
  rintro _ hl ⟨⟩
  have ok := legal_ok hl
  simp only [fieldsOk, Bool.and_eq_true] at ok
  exact ⟨pick_step a (srcA_ok (l := h.len) ok.1.2 (amod_a ..) rfl) (pick_step b (srcB_ok ok.2 ok.1.1 (amod_b ..) rfl rfl) rfl), rfl, clip_B2 _ ok.1.1⟩

theorem iandn (h) (d) (a) (b) : Statement (.iandn h d a b) := by
  rintro _ hl ⟨⟩
  have ok := legal_ok hl
  simp only [fieldsOk, Bool.and_eq_true] at ok
  exact ⟨pick_step a (srcA_ok (l := h.len) ok.1.2 (amod_a ..) rfl) (pick_step b (srcB_ok ok.2 ok.1.1 (amod_b ..) rfl rfl) rfl), rfl, clip_B2 _ ok.1.1⟩

theorem inot (h) (d) (a) : Statement (.inot h d a) := by
  rintro _ hl ⟨⟩
  have ok := legal_ok hl
  simp only [fieldsOk, Bool.and_eq_true] at ok
  exact ⟨pick_step a (srcA_ok (l := h.len) ok.2 (amod_a ..) rfl) rfl, rfl, clip_0 _⟩

theorem ipopc (h) (d) (a) : Statement (.ipopc h d a) := by
  rintro _ hl ⟨⟩
  have ok := legal_ok hl
  simp only [fieldsOk, Bool.and_eq_true] at ok
  exact ⟨pick_step a (srcA_ok (l := h.len) ok.2 (amod_a ..) rfl) rfl, rfl, clip_0 _⟩

theorem iclz (h) (d) (a) : Statement (.iclz h d a) := by
  rintro _ hl ⟨⟩
  have ok := legal_ok hl
  simp only [fieldsOk, Bool.and_eq_true] at ok
  exact ⟨pick_step a (srcA_ok (l := h.len) ok.2 (amod_a ..) rfl) rfl, rfl, clip_0 _⟩

theorem ibrev (h) (d) (a) : Statement (.ibrev h d a) := by
  rintro _ hl ⟨⟩
  have ok := legal_ok hl
  simp only [fieldsOk, Bool.and_eq_true] at ok
  exact ⟨pick_step a (srcA_ok (l := h.len) ok.2 (amod_a ..) rfl) rfl, rfl, clip_0 _⟩

theorem ibfe (h) (u) (d) (a) (b) : Statement (.ibfe h u d a b) := by
  rintro _ hl ⟨⟩
  have ok := legal_ok hl
  simp only [fieldsOk, Bool.and_eq_true] at ok
  exact ⟨pick_step a (srcA_ok (l := h.len) ok.1.2 (amod_a ..) rfl) (pick_step b (srcB_ok ok.2 ok.1.1 (amod_b ..) rfl rfl) (by simp only [amod_0])), rfl, clip_B2 _ ok.1.1⟩

theorem ibfi (h) (d) (a) (b) (c) : Statement (.ibfi h d a b c) := by
  rintro _ hl ⟨⟩
  have ok := legal_ok hl
  simp only [fieldsOk, Bool.and_eq_true] at ok
  exact ⟨pick_step a (srcA_ok (l := h.len) ok.1.1.2 (amod_a ..) rfl) (pick_step b (srcB3_ok ok.1.1.1 ok.1.2 (amod_b ..) rfl rfl) (pick_step c (srcC_ok ok.1.1.1 ok.2 rfl) rfl)), rfl, clip_C3 ok.1.1.1⟩

theorem idiv (h) (u) (d) (a) (b) : Statement (.idiv h u d a b) := by
  rintro _ hl ⟨⟩
  have ok := legal_ok hl
  simp only [fieldsOk, Bool.and_eq_true] at ok
  exact ⟨pick_step a (srcA_ok (l := h.len) ok.1.2 (amod_a ..) rfl) (pick_step b (srcB_ok ok.2 ok.1.1 (amod_b ..) rfl rfl) (by simp only [bit4_eq])), rfl, clip_B2 _ ok.1.1⟩

theorem irem (h) (u) (d) (a) (b) : Statement (.irem h u d a b) := by
  rintro _ hl ⟨⟩
  have ok := legal_ok hl
  simp only [fieldsOk, Bool.and_eq_true] at ok
  exact ⟨pick_step a (srcA_ok (l := h.len) ok.1.2 (amod_a ..) rfl) (pick_step b (srcB_ok ok.2 ok.1.1 (amod_b ..) rfl rfl) (by simp only [bit4_eq])), rfl, clip_B2 _ ok.1.1⟩

theorem isel (h) (pn) (pq) (d) (a) (b) : Statement (.isel h pn pq d a b) := by
  rintro _ hl ⟨⟩
  have ok := legal_ok hl
  simp only [fieldsOk, Bool.and_eq_true] at ok
  exact ⟨pick_step a (srcA_ok (l := h.len) ok.1.2 (amod_a ..) rfl) (pick_step b (srcB_ok ok.2 ok.1.1 (amod_b ..) rfl rfl) (by simp only [amod_4q, amod_q])), rfl, clip_B2 _ ok.1.1⟩

theorem icmp (h) (cc) (q) (a) (b) : Statement (.icmp h cc q a b) := by
  rintro _ hl ⟨⟩
  have ok := legal_ok hl
  simp only [fieldsOk, Bool.and_eq_true] at ok
  exact ⟨pick_step a (srcA_ok (l := h.len) ok.1.2 (amod_a ..) rfl) (pick_step b (srcB_ok ok.2 ok.1.1 (amod_b ..) rfl rfl) (pick_step _ (icc_code _) (by simp only [q3_qf]))), rfl, clip_B2 _ ok.1.1⟩

theorem ladd (h) (bw) (d) (a) (b) : Statement (.ladd h bw d a b) := by
  rintro _ hl ⟨⟩
  have ok := legal_ok hl
  simp only [fieldsOk, Bool.and_eq_true] at ok
  exact ⟨pick_step a (srcA_ok (l := h.len) ok.1.1 (amod_a ..) rfl) (pick_step b (srcW2_ok ok.1.2 (amod_b ..) rfl rfl) (pick_step _ ((congrArg Bw.ofCode (amod_2 ..)).trans (bw_code _)) rfl)), rfl, clip_W2 _ _⟩

theorem lsub (h) (bw) (d) (a) (b) : Statement (.lsub h bw d a b) := by
  rintro _ hl ⟨⟩
  have ok := legal_ok hl
  simp only [fieldsOk, Bool.and_eq_true] at ok
  exact ⟨pick_step a (srcA_ok (l := h.len) ok.1.1 (amod_a ..) rfl) (pick_step b (srcW2_ok ok.1.2 (amod_b ..) rfl rfl) (pick_step _ ((congrArg Bw.ofCode (amod_2 ..)).trans (bw_code _)) rfl)), rfl, clip_W2 _ _⟩

theorem lmul (h) (bw) (d) (a) (b) : Statement (.lmul h bw d a b) := by
  rintro _ hl ⟨⟩
  have ok := legal_ok hl
  simp only [fieldsOk, Bool.and_eq_true] at ok
  exact ⟨pick_step a (srcA_ok (l := h.len) ok.1.1 (amod_a ..) rfl) (pick_step b (srcW2_ok ok.1.2 (amod_b ..) rfl rfl) (pick_step _ ((congrArg Bw.ofCode (amod_2 ..)).trans (bw_code _)) rfl)), rfl, clip_W2 _ _⟩

theorem lshl (h) (d) (a) (b) : Statement (.lshl h d a b) := by
  rintro _ hl ⟨⟩
  have ok := legal_ok hl
  simp only [fieldsOk, Bool.and_eq_true] at ok
  exact ⟨pick_step a (srcA_ok (l := h.len) ok.1.1.2 (amod_a ..) rfl) (pick_step b (srcB_ok ok.1.2 ok.1.1.1 (amod_b ..) rfl rfl) rfl), rfl, clip_B2 _ ok.1.1.1⟩

theorem lshr (h) (u) (d) (a) (b) : Statement (.lshr h u d a b) := by
  rintro _ hl ⟨⟩
  have ok := legal_ok hl
  simp only [fieldsOk, Bool.and_eq_true] at ok
  exact ⟨pick_step a (srcA_ok (l := h.len) ok.1.1.2 (amod_a ..) rfl) (pick_step b (srcB_ok ok.1.2 ok.1.1.1 (amod_b ..) rfl rfl) (by simp only [bit4_eq])), rfl, clip_B2 _ ok.1.1.1⟩

theorem aadd (h) (u) (sh) (d) (a) (b) : Statement (.aadd h u sh d a b) := by
  rintro _ hl ⟨⟩
  have ok := legal_ok hl
  simp only [fieldsOk, Bool.and_eq_true] at ok
  exact ⟨pick_step a (srcA_ok (l := h.len) ok.1.1.2 (amod_a ..) rfl) (pick_step b (srcB_ok ok.1.2 ok.1.1.1 (amod_b ..) rfl rfl) (by simp only [amod_4, amod_n4])), rfl, clip_B2 _ ok.1.1.1⟩

theorem alea (h) (u) (d) (a) (b) (c) : Statement (.alea h u d a b c) := by
  rintro _ hl ⟨⟩
  have ok := legal_ok hl
  simp only [fieldsOk, Bool.and_eq_true] at ok
  exact ⟨pick_step a (srcA_ok (l := h.len) ok.1.1.1.2 (amod_a ..) rfl) (pick_step b (srcB3_ok ok.1.1.1.1 ok.1.1.2 (amod_b ..) rfl rfl) (pick_step c (srcC_ok ok.1.1.1.1 ok.1.2 rfl) (by simp only [amod_4]))), rfl, clip_C3 ok.1.1.1.1⟩

theorem fadd (h) (rm) (d) (a) (b) : Statement (.fadd h rm d a b) := by
  rintro _ hl ⟨⟩
  have ok := legal_ok hl
  simp only [fieldsOk, Bool.and_eq_true] at ok
  exact ⟨pick_step a (srcA_ok (l := h.len) ok.1.2 (amod_a ..) rfl) (pick_step b (srcB_ok ok.2 ok.1.1 (amod_b ..) rfl rfl) (pick_step _ (rm_code _) rfl)), rfl, clip_B2 _ ok.1.1⟩

theorem fsub (h) (rm) (d) (a) (b) : Statement (.fsub h rm d a b) := by
  rintro _ hl ⟨⟩
  have ok := legal_ok hl
  simp only [fieldsOk, Bool.and_eq_true] at ok
  exact ⟨pick_step a (srcA_ok (l := h.len) ok.1.2 (amod_a ..) rfl) (pick_step b (srcB_ok ok.2 ok.1.1 (amod_b ..) rfl rfl) (pick_step _ (rm_code _) rfl)), rfl, clip_B2 _ ok.1.1⟩

theorem fmul (h) (rm) (d) (a) (b) : Statement (.fmul h rm d a b) := by
  rintro _ hl ⟨⟩
  have ok := legal_ok hl
  simp only [fieldsOk, Bool.and_eq_true] at ok
  exact ⟨pick_step a (srcA_ok (l := h.len) ok.1.2 (amod_a ..) rfl) (pick_step b (srcB_ok ok.2 ok.1.1 (amod_b ..) rfl rfl) (pick_step _ (rm_code _) rfl)), rfl, clip_B2 _ ok.1.1⟩

theorem ffma (h) (rm) (d) (a) (b) (c) : Statement (.ffma h rm d a b c) := by
  rintro _ hl ⟨⟩
  have ok := legal_ok hl
  simp only [fieldsOk, Bool.and_eq_true] at ok
  exact ⟨pick_step a (srcA_ok (l := h.len) ok.1.1.2 (amod_a ..) rfl) (pick_step b (srcB3_ok ok.1.1.1 ok.1.2 (amod_b ..) rfl rfl) (pick_step c (srcC_ok ok.1.1.1 ok.2 rfl) (pick_step _ (rm_code _) rfl))), rfl, clip_C3 ok.1.1.1⟩

theorem fdiv (h) (rm) (d) (a) (b) : Statement (.fdiv h rm d a b) := by
  rintro _ hl ⟨⟩
  have ok := legal_ok hl
  simp only [fieldsOk, Bool.and_eq_true] at ok
  exact ⟨pick_step a (srcA_ok (l := h.len) ok.1.2 (amod_a ..) rfl) (pick_step b (srcB_ok ok.2 ok.1.1 (amod_b ..) rfl rfl) (pick_step _ (rm_code _) rfl)), rfl, clip_B2 _ ok.1.1⟩

theorem fmin (h) (d) (a) (b) : Statement (.fmin h d a b) := by
  rintro _ hl ⟨⟩
  have ok := legal_ok hl
  simp only [fieldsOk, Bool.and_eq_true] at ok
  exact ⟨pick_step a (srcA_ok (l := h.len) ok.1.2 (amod_a ..) rfl) (pick_step b (srcB_ok ok.2 ok.1.1 (amod_b ..) rfl rfl) rfl), rfl, clip_B2 _ ok.1.1⟩

theorem fmax (h) (d) (a) (b) : Statement (.fmax h d a b) := by
  rintro _ hl ⟨⟩
  have ok := legal_ok hl
  simp only [fieldsOk, Bool.and_eq_true] at ok
  exact ⟨pick_step a (srcA_ok (l := h.len) ok.1.2 (amod_a ..) rfl) (pick_step b (srcB_ok ok.2 ok.1.1 (amod_b ..) rfl rfl) rfl), rfl, clip_B2 _ ok.1.1⟩

theorem fcmp (h) (cc) (q) (a) (b) : Statement (.fcmp h cc q a b) := by
  rintro _ hl ⟨⟩
  have ok := legal_ok hl
  simp only [fieldsOk, Bool.and_eq_true] at ok
  exact ⟨pick_step a (srcA_ok (l := h.len) ok.1.2 (amod_a ..) rfl) (pick_step b (srcB_ok ok.2 ok.1.1 (amod_b ..) rfl rfl) (pick_step _ (fcc_code _) (by simp only [q3_qf]))), rfl, clip_B2 _ ok.1.1⟩

theorem fsel (h) (pn) (pq) (d) (a) (b) : Statement (.fsel h pn pq d a b) := by
  rintro _ hl ⟨⟩
  have ok := legal_ok hl
  simp only [fieldsOk, Bool.and_eq_true] at ok
  exact ⟨pick_step a (srcA_ok (l := h.len) ok.1.2 (amod_a ..) rfl) (pick_step b (srcB_ok ok.2 ok.1.1 (amod_b ..) rfl rfl) (by simp only [amod_4q, amod_q])), rfl, clip_B2 _ ok.1.1⟩

theorem fclass (h) (d) (a) : Statement (.fclass h d a) := by
  rintro _ hl ⟨⟩
  have ok := legal_ok hl
  simp only [fieldsOk, Bool.and_eq_true] at ok
  exact ⟨pick_step a (srcA_ok (l := h.len) ok.2 (amod_a ..) rfl) rfl, rfl, clip_0 _⟩

theorem fscale (h) (rm) (d) (a) (b) : Statement (.fscale h rm d a b) := by
  rintro _ hl ⟨⟩
  have ok := legal_ok hl
  simp only [fieldsOk, Bool.and_eq_true] at ok
  exact ⟨pick_step a (srcA_ok (l := h.len) ok.1.2 (amod_a ..) rfl) (pick_step b (srcB_ok ok.2 ok.1.1 (amod_b ..) rfl rfl) (pick_step _ (rm_code _) rfl)), rfl, clip_B2 _ ok.1.1⟩

theorem frint (h) (rm) (d) (a) : Statement (.frint h rm d a) := by
  rintro _ hl ⟨⟩
  have ok := legal_ok hl
  simp only [fieldsOk, Bool.and_eq_true] at ok
  exact ⟨pick_step a (srcA_ok (l := h.len) ok.2 (amod_a ..) rfl) (pick_step _ (rm_code _) rfl), rfl, clip_0 _⟩

theorem ffrac (h) (d) (a) : Statement (.ffrac h d a) := by
  rintro _ hl ⟨⟩
  have ok := legal_ok hl
  simp only [fieldsOk, Bool.and_eq_true] at ok
  exact ⟨pick_step a (srcA_ok (l := h.len) ok.2 (amod_a ..) rfl) rfl, rfl, clip_0 _⟩

theorem frcp (h) (d) (a) : Statement (.frcp h d a) := by
  rintro _ hl ⟨⟩
  have ok := legal_ok hl
  simp only [fieldsOk, Bool.and_eq_true] at ok
  exact ⟨pick_step a (srcA_ok (l := h.len) ok.2 (amod_a ..) rfl) rfl, rfl, clip_0 _⟩

theorem frsq (h) (d) (a) : Statement (.frsq h d a) := by
  rintro _ hl ⟨⟩
  have ok := legal_ok hl
  simp only [fieldsOk, Bool.and_eq_true] at ok
  exact ⟨pick_step a (srcA_ok (l := h.len) ok.2 (amod_a ..) rfl) rfl, rfl, clip_0 _⟩

theorem fex2 (h) (d) (a) : Statement (.fex2 h d a) := by
  rintro _ hl ⟨⟩
  have ok := legal_ok hl
  simp only [fieldsOk, Bool.and_eq_true] at ok
  exact ⟨pick_step a (srcA_ok (l := h.len) ok.2 (amod_a ..) rfl) rfl, rfl, clip_0 _⟩

theorem flg2 (h) (d) (a) : Statement (.flg2 h d a) := by
  rintro _ hl ⟨⟩
  have ok := legal_ok hl
  simp only [fieldsOk, Bool.and_eq_true] at ok
  exact ⟨pick_step a (srcA_ok (l := h.len) ok.2 (amod_a ..) rfl) rfl, rfl, clip_0 _⟩

theorem hadd2 (h) (rm) (bf) (d) (a) (b) : Statement (.hadd2 h rm bf d a b) := by
  rintro _ hl ⟨⟩
  have ok := legal_ok hl
  simp only [fieldsOk, Bool.and_eq_true] at ok
  exact ⟨pick_step a (srcA_ok (l := h.len) ok.1.2 (amod_a ..) rfl) (pick_step b (srcB_ok ok.2 ok.1.1 (amod_b ..) rfl rfl) (pick_step _ (rm_code _) (by simp only [amod_0]))), rfl, clip_B2 _ ok.1.1⟩

theorem hmul2 (h) (rm) (bf) (d) (a) (b) : Statement (.hmul2 h rm bf d a b) := by
  rintro _ hl ⟨⟩
  have ok := legal_ok hl
  simp only [fieldsOk, Bool.and_eq_true] at ok
  exact ⟨pick_step a (srcA_ok (l := h.len) ok.1.2 (amod_a ..) rfl) (pick_step b (srcB_ok ok.2 ok.1.1 (amod_b ..) rfl rfl) (pick_step _ (rm_code _) (by simp only [amod_0]))), rfl, clip_B2 _ ok.1.1⟩

theorem hfma2 (h) (rm) (bf) (d) (a) (b) (c) : Statement (.hfma2 h rm bf d a b c) := by
  rintro _ hl ⟨⟩
  have ok := legal_ok hl
  simp only [fieldsOk, Bool.and_eq_true] at ok
  exact ⟨pick_step a (srcA_ok (l := h.len) ok.1.1.2 (amod_a ..) rfl) (pick_step b (srcB3_ok ok.1.1.1 ok.1.2 (amod_b ..) rfl rfl) (pick_step c (srcC_ok ok.1.1.1 ok.2 rfl) (pick_step _ (rm_code _) (by simp only [amod_0])))), rfl, clip_C3 ok.1.1.1⟩

theorem cvt (h) (m) (df) (sf) (d) (a) (b) : Statement (.cvt h m df sf d a b) := by
  rintro _ hl ⟨⟩
  have ok := legal_ok hl
  simp only [fieldsOk, Bool.and_eq_true] at ok
  exact ⟨pick_step a (srcA_ok (l := h.len) ok.1.1.1.2 (amod_a ..) rfl) (pick_step b (srcB_ok ok.1.1.2 ok.1.1.1.1 (amod_b ..) rfl rfl) (pick_step _ (cvtMode_code _) (pick_step _ ((congrArg CvtFmt.ofCode (amod_df ..)).trans (cvtFmt_code _)) (pick_step _ ((congrArg CvtFmt.ofCode (amod_sf ..)).trans (cvtFmt_code _)) rfl)))), rfl, clip_B2 _ ok.1.1.1.1⟩

theorem dxpack (h) (dx4) (d) (a) (c) : Statement (.dxpack h dx4 d a c) := by
  rintro _ hl ⟨⟩
  have ok := legal_ok hl
  simp only [fieldsOk, Bool.and_eq_true] at ok
  exact ⟨pick_step a (srcA_ok (l := h.len) ok.2 (amod_a ..) rfl) (by simp only [bit4_eq, low_n]), rfl, clip_0 _⟩

theorem dxunpack (h) (dx4) (d) (a) (b) : Statement (.dxunpack h dx4 d a b) := by
  rintro _ hl ⟨⟩
  have ok := legal_ok hl
  simp only [fieldsOk, Bool.and_eq_true] at ok
  exact ⟨pick_step a (srcA_ok (l := h.len) ok.1.2 (amod_a ..) rfl) (pick_step b (srcB_ok ok.2 ok.1.1 (amod_b ..) rfl rfl) (by simp only [bit4_eq])), rfl, clip_B2 _ ok.1.1⟩

theorem pack (h) (f) (d) (a) (b) : Statement (.pack h f d a b) := by
  rintro _ hl ⟨⟩
  have ok := legal_ok hl
  simp only [fieldsOk, Bool.and_eq_true] at ok
  exact ⟨pick_step a (srcA_ok (l := h.len) ok.1.2 (amod_a ..) rfl) (pick_step b (srcB_ok ok.2 ok.1.1 (amod_b ..) rfl rfl) (pick_step _ ((congrArg PackFmt.ofCode (amod_n ..)).trans (packFmt_code _)) rfl)), rfl, clip_B2 _ ok.1.1⟩

theorem unpack (h) (f) (d) (a) : Statement (.unpack h f d a) := by
  rintro _ hl ⟨⟩
  have ok := legal_ok hl
  simp only [fieldsOk, Bool.and_eq_true] at ok
  exact ⟨pick_step a (srcA_ok (l := h.len) ok.1.2 (amod_a ..) rfl) (pick_step _ ((congrArg PackFmt.ofCode (amod_n ..)).trans (packFmt_code _)) rfl), rfl, clip_0 _⟩

theorem mov (h) (w) (d) (a) : Statement (.mov h w d a) := by
  rintro _ hl ⟨⟩
  have ok := legal_ok hl
  simp only [fieldsOk, Bool.and_eq_true] at ok
  exact ⟨pick_step a (srcA_ok (l := h.len) ok.1.2 (amod_a ..) rfl) (by simp only [amod_0]), rfl, clip_0 _⟩

theorem movi (h) (w) (d) (v) : Statement (.movi h w d v) := by
  rintro _ hl ⟨⟩
  have ok := legal_ok hl
  simp only [fieldsOk, Bool.and_eq_true] at ok
  exact ⟨pick_at (f := fun r => some (Instr.movi r.hdr (r.mod.getLsbD 0) r.dst (immB r))) rfl (by dsimp only; rw [movi_ok ok.2 rfl rfl]; simp only [amod_0]), rfl, clip_W2 _ _⟩

theorem sread (h) (d) (r) : Statement (.sread h d r) := by
  rintro _ hl ⟨⟩
  exact ⟨pick_step _ ((congrArg SReg.ofCode (amod_8 ..)).trans (sreg_code _)) rfl, rfl, clip_0 _⟩

theorem swrite (h) (r) (a) : Statement (.swrite h r a) := by
  rintro _ hl ⟨⟩
  have ok := legal_ok hl
  simp only [fieldsOk, Bool.and_eq_true] at ok
  exact ⟨pick_step a (srcA_ok (l := h.len) ok.1.2 (amod_a ..) rfl) (pick_step _ ((congrArg SReg.ofCode (amod_8 ..)).trans (sreg_code _)) rfl), rfl, clip_0 _⟩

theorem bmix (h) (d) (a) (b) (c) : Statement (.bmix h d a b c) := by
  rintro _ hl ⟨⟩
  have ok := legal_ok hl
  simp only [fieldsOk, Bool.and_eq_true] at ok
  exact ⟨pick_step a (srcA_ok (l := h.len) ok.1.1.2 (amod_a ..) rfl) (pick_step b (srcB3_ok ok.1.1.1 ok.1.2 (amod_b ..) rfl rfl) (pick_step c (srcC_ok ok.1.1.1 ok.2 rfl) rfl)), rfl, clip_C3 ok.1.1.1⟩

theorem pset (h) (z) (q) (a) (b) : Statement (.pset h z q a b) := by
  rintro _ hl ⟨⟩
  have ok := legal_ok hl
  simp only [fieldsOk, Bool.and_eq_true] at ok
  exact ⟨pick_step a (srcA_ok (l := h.len) ok.1.2 (amod_a ..) rfl) (pick_step b (srcB_ok ok.2 ok.1.1 (amod_b ..) rfl rfl) (by simp only [amod_0, q3_qf])), rfl, clip_B2 _ ok.1.1⟩

theorem plop (h) (op) (na) (nb) (q) (qa) (qb) : Statement (.plop h op na nb q qa qb) := by
  rintro _ hl ⟨⟩
  exact ⟨pick_step _ (pop_code _) (by simp only [amod_00, amod_1, q3_qf]), rfl, clip_0 _⟩

theorem bra (h) (off) : Statement (.bra h off) := by
  rintro _ hl ⟨⟩
  have ok := legal_ok hl
  simp only [fieldsOk] at ok
  exact ⟨pick_at (f := fun r => some (Instr.bra r.hdr (offOf r))) rfl (by dsimp only; rw [off_ok ok rfl rfl]), rfl, clip_off ok⟩

theorem braU (h) (off) : Statement (.braU h off) := by
  rintro _ hl ⟨⟩
  have ok := legal_ok hl
  simp only [fieldsOk] at ok
  exact ⟨pick_at (f := fun r => some (Instr.braU r.hdr (offOf r))) rfl (by dsimp only; rw [off_ok ok rfl rfl]), rfl, clip_off ok⟩

theorem brx (h) (n) : Statement (.brx h n) := by
  rintro _ hl ⟨⟩
  exact ⟨rfl, rfl, clip_0 _⟩

theorem call (h) (off) : Statement (.call h off) := by
  rintro _ hl ⟨⟩
  have ok := legal_ok hl
  simp only [fieldsOk] at ok
  exact ⟨pick_at (f := fun r => some (Instr.call r.hdr (offOf r))) rfl (by dsimp only; rw [off_ok ok rfl rfl]), rfl, clip_off ok⟩

theorem callx (h) (n) : Statement (.callx h n) := by
  rintro _ hl ⟨⟩
  exact ⟨rfl, rfl, clip_0 _⟩

theorem ret (h) : Statement (.ret h) := by
  rintro _ hl ⟨⟩
  exact ⟨rfl, rfl, clip_0 _⟩

theorem exit (h) : Statement (.exit h) := by
  rintro _ hl ⟨⟩
  exact ⟨rfl, rfl, clip_0 _⟩

theorem nop (h) : Statement (.nop h) := by
  rintro _ hl ⟨⟩
  exact ⟨rfl, rfl, clip_0 _⟩

theorem yield (h) : Statement (.yield h) := by
  rintro _ hl ⟨⟩
  exact ⟨rfl, rfl, clip_0 _⟩

theorem cvset (h) (m) (c) (a) (b) : Statement (.cvset h m c a b) := by
  rintro _ hl ⟨⟩
  have ok := legal_ok hl
  simp only [fieldsOk, Bool.and_eq_true] at ok
  exact ⟨pick_step _ ((congrArg CvMode.ofCode (cmod_0 ..)).trans (cvMode_code _)) (pick_step a (srcA_ok (l := h.len) ok.1.1 (cmod_a ..) rfl) (pick_step b (srcBi_ok ok.1.2 (cmod_b ..) rfl rfl) (by simp only [low_n]))), rfl, clip_Bi ok.1.2⟩

theorem cvsign (h) (c) : Statement (.cvsign h c) := by
  rintro _ hl ⟨⟩
  exact ⟨pick_at (f := fun r => some (Instr.cvsign r.hdr (r.mod.extractLsb' 0 4))) rfl (by simp only [cmod_0]), rfl, clip_0 _⟩

theorem shfl (h) (op) (d) (a) (b) (c) : Statement (.shfl h op d a b c) := by
  rintro _ hl ⟨⟩
  have ok := legal_ok hl
  simp only [fieldsOk, Bool.and_eq_true] at ok
  exact ⟨pick_step _ (shflOp_code _) (pick_step a (srcA_ok (l := h.len) ok.1 (cmod_a ..) rfl) (pick_step b (srcBi_ok ok.2 (cmod_b ..) rfl rfl) (by simp only [cmod_0]))), rfl, clip_Bi ok.2⟩

theorem voteAll (h) (na) (q) (p) (c) : Statement (.voteAll h na q p c) := by
  rintro _ hl ⟨⟩
  exact ⟨pick_at (f := fun r => some (Instr.voteAll r.hdr (r.mod.getLsbD 4) (q3 r.dst) (q3 r.srca) (r.mod.extractLsb' 0 4))) rfl (by simp only [cmod_4, cmod_0, q3_qf]), rfl, clip_0 _⟩

theorem voteAny (h) (na) (q) (p) (c) : Statement (.voteAny h na q p c) := by
  rintro _ hl ⟨⟩
  exact ⟨pick_at (f := fun r => some (Instr.voteAny r.hdr (r.mod.getLsbD 4) (q3 r.dst) (q3 r.srca) (r.mod.extractLsb' 0 4))) rfl (by simp only [cmod_4, cmod_0, q3_qf]), rfl, clip_0 _⟩

theorem voteBallot (h) (na) (d) (p) (b) (c) : Statement (.voteBallot h na d p b c) := by
  rintro _ hl ⟨⟩
  have ok := legal_ok hl
  simp only [fieldsOk] at ok
  exact ⟨pick_step b (srcBi_ok ok (cmod_b ..) rfl rfl) (by simp only [cmod_4, cmod_0, q3_qf]), rfl, clip_Bi ok⟩

theorem redux (h) (op) (ty) (d) (a) (c) : Statement (.redux h op ty d a c) := by
  rintro _ hl ⟨⟩
  have ok := legal_ok hl
  simp only [fieldsOk, Bool.and_eq_true] at ok
  exact ⟨pick_step _ (foldOp_code _) (pick_step _ ((congrArg FoldTy.ofCode (cmod_6 ..)).trans (foldTy_code _)) (pick_step a (srcA_ok (l := h.len) ok.1.2 (cmod_a ..) rfl) (by simp only [cmod_0]))), rfl, clip_0 _⟩

theorem scan (h) (op) (ty) (ex) (d) (a) (c) : Statement (.scan h op ty ex d a c) := by
  rintro _ hl ⟨⟩
  have ok := legal_ok hl
  simp only [fieldsOk, Bool.and_eq_true] at ok
  exact ⟨pick_step _ (foldOp_code _) (pick_step _ ((congrArg FoldTy.ofCode (cmod_6 ..)).trans (foldTy_code _)) (pick_step a (srcA_ok (l := h.len) ok.1.2 (cmod_a ..) rfl) (by simp only [cmod_8, cmod_0]))), rfl, clip_0 _⟩

theorem barArrive (h) (n) (cnt) : Statement (.barArrive h n cnt) := by
  rintro _ hl ⟨⟩
  have ok := legal_ok hl
  simp only [fieldsOk] at ok
  exact ⟨pick_step ((cntSrc cnt)) (srcBi_ok ok (cmod_b ..) rfl rfl) (by simp only [cmod_4, low_n, cnt_eq]), rfl, clip_Bi ok⟩

theorem barWait (h) (n) : Statement (.barWait h n) := by
  rintro _ hl ⟨⟩
  exact ⟨pick_at (f := fun r => some (Instr.barWait r.hdr (r.dst.extractLsb' 0 4))) rfl (by simp only [low_n]), rfl, clip_0 _⟩

theorem barSync (h) (n) (cnt) : Statement (.barSync h n cnt) := by
  rintro _ hl ⟨⟩
  have ok := legal_ok hl
  simp only [fieldsOk] at ok
  exact ⟨pick_step ((cntSrc cnt)) (srcBi_ok ok (cmod_b ..) rfl rfl) (by simp only [cmod_4, low_n, cnt_eq]), rfl, clip_Bi ok⟩

theorem qcfg (h) (n) (a) (b) : Statement (.qcfg h n a b) := by
  rintro _ hl ⟨⟩
  have ok := legal_ok hl
  simp only [fieldsOk, Bool.and_eq_true] at ok
  exact ⟨pick_step a (srcA_ok (l := h.len) ok.1 (cmod_a ..) rfl) (pick_step b (srcBi_ok ok.2 (cmod_b ..) rfl rfl) (by simp only [low_q])), rfl, clip_Bi ok.2⟩

theorem qpush (h) (tr) (p) (n) (b) : Statement (.qpush h tr p n b) := by
  rintro _ hl ⟨⟩
  have ok := legal_ok hl
  simp only [fieldsOk] at ok
  exact ⟨pick_step b (srcBi_ok ok (cmod_b ..) rfl rfl) (by simp only [cmod_4, cmod_q, low_q]), rfl, clip_Bi ok⟩

theorem qpop (h) (tr) (p) (src) (d) (n) : Statement (.qpop h tr p src d n) := by
  rintro _ hl ⟨⟩
  exact ⟨pick_at (f := fun r => some (Instr.qpop r.hdr (r.mod.getLsbD 4) (r.mod.extractLsb' 0 3) (r.mod.getLsbD 5) r.dst (r.srca.extractLsb' 0 3))) rfl (by simp only [cmod_5, cmod_4, cmod_q, low_q]), rfl, clip_0 _⟩

theorem ld (h) (w) (m) (d) (n) (off) : Statement (.ld h w m d n off) := by
  rintro _ hl ⟨⟩
  have ok := legal_ok hl
  simp only [fieldsOk, Bool.and_eq_true] at ok
  exact ⟨pick_step _ (ldw_code _) (pick_step _ (mc_code _) (by rw [off_ok ok.1.1.1 rfl rfl])), rfl, clip_off ok.1.1.1⟩

theorem st (h) (w) (m) (n) (off) (s) : Statement (.st h w m n off s) := by
  rintro _ hl ⟨⟩
  have ok := legal_ok hl
  simp only [fieldsOk, Bool.and_eq_true] at ok
  exact ⟨pick_step _ (stw_code _) (pick_step _ (mc_code _) (by rw [off_ok ok.1.1.1 rfl rfl])), rfl, clip_off ok.1.1.1⟩

theorem lds (h) (w) (m) (d) (n) (off) : Statement (.lds h w m d n off) := by
  rintro _ hl ⟨⟩
  have ok := legal_ok hl
  simp only [fieldsOk, Bool.and_eq_true] at ok
  exact ⟨pick_step _ (ldw_code _) (pick_step _ (mc_code _) (by rw [off_ok ok.1.1 rfl rfl])), rfl, clip_off ok.1.1⟩

theorem sts (h) (w) (m) (n) (off) (s) : Statement (.sts h w m n off s) := by
  rintro _ hl ⟨⟩
  have ok := legal_ok hl
  simp only [fieldsOk, Bool.and_eq_true] at ok
  exact ⟨pick_step _ (stw_code _) (pick_step _ (mc_code _) (by rw [off_ok ok.1.1 rfl rfl])), rfl, clip_off ok.1.1⟩

theorem ldr (h) (w) (m) (d) (n) (off) : Statement (.ldr h w m d n off) := by
  rintro _ hl ⟨⟩
  have ok := legal_ok hl
  simp only [fieldsOk, Bool.and_eq_true] at ok
  exact ⟨pick_step _ (ldw_code _) (pick_step _ (mc_code _) (by rw [off_ok ok.1.1 rfl rfl])), rfl, clip_off ok.1.1⟩

theorem str (h) (w) (m) (n) (off) (s) : Statement (.str h w m n off s) := by
  rintro _ hl ⟨⟩
  have ok := legal_ok hl
  simp only [fieldsOk, Bool.and_eq_true] at ok
  exact ⟨pick_step _ (stw_code _) (pick_step _ (mc_code _) (by rw [off_ok ok.1.1 rfl rfl])), rfl, clip_off ok.1.1⟩

theorem ldp (h) (g) (k) (m) (off) : Statement (.ldp h g k m off) := by
  rintro _ hl ⟨⟩
  have ok := legal_ok hl
  simp only [fieldsOk, Bool.and_eq_true] at ok
  exact ⟨pick_at (f := fun r => some (Instr.ldp r.hdr (r.dst.extractLsb' 0 6) (r.srcb.extractLsb' 0 4) (r.srca.extractLsb' 0 6) (offOf r))) rfl (by dsimp only; rw [off_ok ok.1.1 rfl rfl]; simp only [low_g, low_n]), rfl, clip_off ok.1.1⟩

theorem atom (h) (op) (m) (d) (n) (off) (b) (cmp) : Statement (.atom h op m d n off b cmp) := by
  rintro _ hl ⟨⟩
  have ok := legal_ok hl
  simp only [fieldsOk, Bool.and_eq_true] at ok
  exact ⟨pick_step _ (atomOp_code _) (pick_step _ ((congrArg Mc.ofCode (top_b ..)).trans (mc_code _)) (by simp only [low_b, off32_0])), rfl, clip_atom _ (beq_iff_eq.1 ok.1.1.1.1.1)⟩

theorem red (h) (op) (m) (n) (off) (b) : Statement (.red h op m n off b) := by
  rintro _ hl ⟨⟩
  have ok := legal_ok hl
  simp only [fieldsOk, Bool.and_eq_true] at ok
  exact ⟨pick_step _ (atomOp_code _) (pick_step _ ((congrArg Mc.ofCode (top_b ..)).trans (mc_code _)) (by simp only [off32_0])), rfl, clip_atom _ (beq_iff_eq.1 ok.1.1.1.1.1.1)⟩

theorem fence (h) (k) (sc) : Statement (.fence h k sc) := by
  rintro _ hl ⟨⟩
  exact ⟨pick_step _ (fence_code _) (pick_step _ (mc_code _) rfl), rfl, clip_0 _⟩

theorem cctlRange (h) (n) (l) : Statement (.cctlRange h n l) := by
  rintro _ hl ⟨⟩
  exact ⟨rfl, rfl, clip_0 _⟩

theorem cctlAll (h) : Statement (.cctlAll h) := by
  rintro _ hl ⟨⟩
  exact ⟨rfl, rfl, clip_0 _⟩

theorem pref (h) (n) (off) : Statement (.pref h n off) := by
  rintro _ hl ⟨⟩
  have ok := legal_ok hl
  simp only [fieldsOk, Bool.and_eq_true] at ok
  exact ⟨pick_at (f := fun r => some (Instr.pref r.hdr r.srca (offOf r))) rfl (by dsimp only; rw [off_ok ok.1 rfl rfl]), rfl, clip_off ok.1⟩

theorem sld (h) (v) (d) (n) : Statement (.sld h v d n) := by
  rintro _ hl ⟨⟩
  exact ⟨pick_at (f := fun r => some (Instr.sld r.hdr (r.mod.extractLsb' 0 4) r.dst r.srca)) rfl (by simp only [low_c]), rfl, clip_0 _⟩

theorem sst (h) (s) (n) (v) (tok) : Statement (.sst h s n v tok) := by
  rintro _ hl ⟨⟩
  exact ⟨pick_at (f := fun r => some (Instr.sst r.hdr r.dst r.srca r.srcb (if (r.mod.getLsbD 8) then some (r.mod.extractLsb' 0 8) else none))) rfl (by simp only [bit_s, low_s, tok_eq]), rfl, clip_0 _⟩

theorem sstT (h) (s) (n) (v) (tok) : Statement (.sstT h s n v tok) := by
  rintro _ hl ⟨⟩
  exact ⟨pick_at (f := fun r => some (Instr.sstT r.hdr r.dst r.srca r.srcb (if (r.mod.getLsbD 8) then some (r.mod.extractLsb' 0 8) else none))) rfl (by simp only [bit_s, low_s, tok_eq]), rfl, clip_0 _⟩

theorem recon (h) (op) (ty) (d) (n) : Statement (.recon h op ty d n) := by
  rintro _ hl ⟨⟩
  exact ⟨pick_step _ (reconOp_code _) (by simp only [low_t, reconTy_code]), rfl, clip_0 _⟩

theorem reconSet (h) (s) (n) (v) (t) : Statement (.reconSet h s n v t) := by
  rintro _ hl ⟨⟩
  exact ⟨pick_at (f := fun r => some (Instr.reconSet r.hdr r.dst r.srca r.srcb (r.mod.extractLsb' 0 8))) rfl (by simp only [low_b]), rfl, clip_0 _⟩

theorem rowreg (h) (d) (n) : Statement (.rowreg h d n) := by
  rintro _ hl ⟨⟩
  exact ⟨rfl, rfl, clip_0 _⟩

theorem rowreq (h) (d) (n) : Statement (.rowreq h d n) := by
  rintro _ hl ⟨⟩
  exact ⟨rfl, rfl, clip_0 _⟩

theorem rowwait (h) (d) (a) : Statement (.rowwait h d a) := by
  rintro _ hl ⟨⟩
  exact ⟨rfl, rfl, clip_0 _⟩

theorem rowqry (h) (d) (n) : Statement (.rowqry h d n) := by
  rintro _ hl ⟨⟩
  exact ⟨rfl, rfl, clip_0 _⟩

theorem rowcancel (h) (d) (a) : Statement (.rowcancel h d a) := by
  rintro _ hl ⟨⟩
  exact ⟨rfl, rfl, clip_0 _⟩

theorem cpy (h) (f) (t) (mask) (d) (n) (q) (b) : Statement (.cpy h f t mask d n q b) := by
  rintro _ hl ⟨⟩
  have ok := legal_ok hl
  simp only [fieldsOk, Bool.and_eq_true] at ok
  exact ⟨pick_step f (by rw [emod_8]; exact fmt_code _) (by simp only [emod_4, emod_0, hiReg_0]), rfl, clip_reg _ (beq_iff_eq.1 ok.1.1.1)⟩

theorem cpyo (h) (f) (t) (s) (n) (q) (w) : Statement (.cpyo h f t s n q w) := by
  rintro _ hl ⟨⟩
  have ok := legal_ok hl
  simp only [fieldsOk, Bool.and_eq_true] at ok
  exact ⟨pick_step f (by rw [emod_8]; exact fmt_code _) (by simp only [emod_4, hiReg_0]), rfl, clip_reg _ (beq_iff_eq.1 ok.1.1.1.1)⟩

theorem cpyhTo (h) (f) (t) (s) (n) (q) (w) : Statement (.cpyhTo h f t s n q w) := by
  rintro _ hl ⟨⟩
  have ok := legal_ok hl
  simp only [fieldsOk, Bool.and_eq_true] at ok
  exact ⟨pick_step f (by rw [emod_8]; exact fmt_code _) (by simp only [emod_4, hiReg_0]), rfl, clip_reg _ (beq_iff_eq.1 ok.1.1.1.1)⟩

theorem cpyhFrom (h) (f) (t) (d) (n) (q) (w) : Statement (.cpyhFrom h f t d n q w) := by
  rintro _ hl ⟨⟩
  have ok := legal_ok hl
  simp only [fieldsOk, Bool.and_eq_true] at ok
  exact ⟨pick_step f (by rw [emod_8]; exact fmt_code _) (by simp only [emod_4, hiReg_0]), rfl, clip_reg _ (beq_iff_eq.1 ok.1.1.1.1)⟩

theorem cpyx (h) (mask) (d) (n) (q) (b) : Statement (.cpyx h mask d n q b) := by
  rintro _ hl ⟨⟩
  have ok := legal_ok hl
  simp only [fieldsOk, Bool.and_eq_true] at ok
  exact ⟨pick_at (f := fun r => some (Instr.cpyx r.hdr (r.mod.extractLsb' 0 4) r.dst r.srca r.srcb (r.hi.extractLsb' 0 8))) rfl (by simp only [emod_0, hiReg_0]), rfl, clip_reg _ (beq_iff_eq.1 ok.1.1.1)⟩

theorem arvInit (h) (rm) (a) (b) : Statement (.arvInit h rm a b) := by
  rintro _ hl ⟨⟩
  have ok := legal_ok hl
  simp only [fieldsOk, Bool.and_eq_true] at ok
  exact ⟨pick_step b (srcBi_ok ok.1 (emod_b ..) rfl rfl) (by simp only [emod_5]), rfl, clip_Bi ok.1⟩

theorem arvWait (h) (rm) (d) (a) : Statement (.arvWait h rm d a) := by
  rintro _ hl ⟨⟩
  exact ⟨pick_at (f := fun r => some (Instr.arvWait r.hdr (r.mod.getLsbD 5) r.dst r.srca)) rfl (by simp only [emod_5]), rfl, clip_0 _⟩

theorem arvTest (h) (rm) (q) (a) : Statement (.arvTest h rm q a) := by
  rintro _ hl ⟨⟩
  exact ⟨pick_at (f := fun r => some (Instr.arvTest r.hdr (r.mod.getLsbD 5) (q3 r.dst) r.srca)) rfl (by simp only [emod_5, q3_qf]), rfl, clip_0 _⟩

theorem arvAdd (h) (rm) (a) (b) : Statement (.arvAdd h rm a b) := by
  rintro _ hl ⟨⟩
  have ok := legal_ok hl
  simp only [fieldsOk, Bool.and_eq_true] at ok
  exact ⟨pick_step b (srcBi_ok ok.1 (emod_b ..) rfl rfl) (by simp only [emod_5]), rfl, clip_Bi ok.1⟩

theorem mma (h) (f) (q) (b) (c) : Statement (.mma h f q b c) := by
  rintro _ hl ⟨⟩
  exact ⟨pick_step _ ((congrArg LFmt.ofCode (emod_8 ..)).trans (lfmt_code _)) (by simp only [emod_0]), rfl, clip_0 _⟩

theorem mmz (h) (a) (b) (c) : Statement (.mmz h a b c) := by
  rintro _ hl ⟨⟩
  exact ⟨pick_at (f := fun r => some (Instr.mmz r.hdr r.srca r.srcb (r.mod.extractLsb' 0 4))) rfl (by simp only [emod_0]), rfl, clip_0 _⟩

theorem wbld (h) (s) (n) (q) (b) (c) : Statement (.wbld h s n q b c) := by
  rintro _ hl ⟨⟩
  have ok := legal_ok hl
  simp only [fieldsOk, Bool.and_eq_true] at ok
  exact ⟨pick_at (f := fun r => some (Instr.wbld r.hdr r.dst r.srca r.srcb (r.hi.extractLsb' 0 8) (r.mod.extractLsb' 0 4))) rfl (by simp only [emod_0, hiReg_0]), rfl, clip_reg _ (beq_iff_eq.1 ok.1.1)⟩

theorem wbldSparse (h) (s) (n) (q) (b) (c) : Statement (.wbldSparse h s n q b c) := by
  rintro _ hl ⟨⟩
  have ok := legal_ok hl
  simp only [fieldsOk, Bool.and_eq_true] at ok
  exact ⟨pick_at (f := fun r => some (Instr.wbldSparse r.hdr r.dst r.srca r.srcb (r.hi.extractLsb' 0 8) (r.mod.extractLsb' 0 4))) rfl (by simp only [emod_0, hiReg_0]), rfl, clip_reg _ (beq_iff_eq.1 ok.1.1)⟩

theorem wbrel (h) (b) (c) : Statement (.wbrel h b c) := by
  rintro _ hl ⟨⟩
  exact ⟨pick_at (f := fun r => some (Instr.wbrel r.hdr r.srcb (r.mod.extractLsb' 0 4))) rfl (by simp only [emod_0]), rfl, clip_0 _⟩

theorem accld (h) (f) (q) (b) (c) : Statement (.accld h f q b c) := by
  rintro _ hl ⟨⟩
  exact ⟨pick_step _ ((congrArg LFmt.ofCode (emod_8 ..)).trans (lfmt_code _)) (by simp only [emod_0]), rfl, clip_0 _⟩

theorem accst (h) (f) (q) (b) (c) : Statement (.accst h f q b c) := by
  rintro _ hl ⟨⟩
  exact ⟨pick_step _ ((congrArg LFmt.ofCode (emod_8 ..)).trans (lfmt_code _)) (by simp only [emod_0]), rfl, clip_0 _⟩

theorem credSmx (h) (d) (s) (b) (k) (c) : Statement (.credSmx h d s b k c) := by
  rintro _ hl ⟨⟩
  have ok := legal_ok hl
  simp only [fieldsOk] at ok
  exact ⟨pick_at (f := fun r => some (Instr.credSmx r.hdr r.dst r.srca r.srcb (r.hi.extractLsb' 0 8) (r.mod.extractLsb' 0 4))) rfl (by simp only [emod_0, hiReg_0]), rfl, clip_reg _ (beq_iff_eq.1 ok)⟩

theorem credSum (h) (d) (s) (b) (k) (c) : Statement (.credSum h d s b k c) := by
  rintro _ hl ⟨⟩
  have ok := legal_ok hl
  simp only [fieldsOk] at ok
  exact ⟨pick_at (f := fun r => some (Instr.credSum r.hdr r.dst r.srca r.srcb (r.hi.extractLsb' 0 8) (r.mod.extractLsb' 0 4))) rfl (by simp only [emod_0, hiReg_0]), rfl, clip_reg _ (beq_iff_eq.1 ok)⟩

theorem credMax (h) (d) (s) (b) (k) (c) : Statement (.credMax h d s b k c) := by
  rintro _ hl ⟨⟩
  have ok := legal_ok hl
  simp only [fieldsOk] at ok
  exact ⟨pick_at (f := fun r => some (Instr.credMax r.hdr r.dst r.srca r.srcb (r.hi.extractLsb' 0 8) (r.mod.extractLsb' 0 4))) rfl (by simp only [emod_0, hiReg_0]), rfl, clip_reg _ (beq_iff_eq.1 ok)⟩

theorem gseg (h) (d) (n) (c) : Statement (.gseg h d n c) := by
  rintro _ hl ⟨⟩
  exact ⟨pick_at (f := fun r => some (Instr.gseg r.hdr r.dst r.srca (r.mod.extractLsb' 0 4))) rfl (by simp only [low_c]), rfl, clip_0 _⟩

theorem gvec (h) (d) (q) (c) : Statement (.gvec h d q c) := by
  rintro _ hl ⟨⟩
  exact ⟨pick_at (f := fun r => some (Instr.gvec r.hdr r.dst r.srca (r.mod.extractLsb' 0 4))) rfl (by simp only [low_c]), rfl, clip_0 _⟩

theorem grun (h) (d) (c) : Statement (.grun h d c) := by
  rintro _ hl ⟨⟩
  exact ⟨pick_at (f := fun r => some (Instr.grun r.hdr r.dst (r.mod.extractLsb' 0 4))) rfl (by simp only [low_c]), rfl, clip_0 _⟩

theorem gout (h) (d) (c) : Statement (.gout h d c) := by
  rintro _ hl ⟨⟩
  exact ⟨pick_at (f := fun r => some (Instr.gout r.hdr r.dst (r.mod.extractLsb' 0 4))) rfl (by simp only [low_c]), rfl, clip_0 _⟩

theorem gwait (h) (d) : Statement (.gwait h d) := by
  rintro _ hl ⟨⟩
  exact ⟨rfl, rfl, clip_0 _⟩

theorem dictLoad (h) (d) (n) : Statement (.dictLoad h d n) := by
  rintro _ hl ⟨⟩
  exact ⟨rfl, rfl, clip_0 _⟩

theorem dictRead (h) (d) (b) : Statement (.dictRead h d b) := by
  rintro _ hl ⟨⟩
  have ok := legal_ok hl
  simp only [fieldsOk, Bool.and_eq_true] at ok
  exact ⟨pick_step b (srcBi_ok ok.1 (cmod_b ..) rfl rfl) rfl, rfl, clip_Bi ok.1⟩

theorem fenceF (h) : Statement (.fenceF h) := by
  rintro _ hl ⟨⟩
  exact ⟨rfl, rfl, clip_0 _⟩

theorem launch (h) (d) (n) : Statement (.launch h d n) := by
  rintro _ hl ⟨⟩
  exact ⟨rfl, rfl, clip_0 _⟩

theorem cntWait (h) (lvl) (tr) (d) (a) : Statement (.cntWait h lvl tr d a) := by
  rintro _ hl ⟨⟩
  have ok := legal_ok hl
  simp only [fieldsOk, Bool.and_eq_true] at ok
  exact ⟨pick_step _ ((congrArg Lvl.ofCode (cmod_0 ..)).trans (lvl_code _)) (pick_step a (srcA_ok (l := h.len) ok.2 (cmod_a ..) rfl) (by simp only [cmod_4])), rfl, clip_0 _⟩

theorem cancel (h) (lvl) (d) (a) : Statement (.cancel h lvl d a) := by
  rintro _ hl ⟨⟩
  have ok := legal_ok hl
  simp only [fieldsOk, Bool.and_eq_true] at ok
  exact ⟨pick_step _ ((congrArg Lvl.ofCode (cmod_0 ..)).trans (lvl_code _)) (pick_step a (srcA_ok (l := h.len) ok.2 (cmod_a ..) rfl) rfl), rfl, clip_0 _⟩

theorem tapePush (h) (d) (n) : Statement (.tapePush h d n) := by
  rintro _ hl ⟨⟩
  exact ⟨rfl, rfl, clip_0 _⟩

theorem trap (h) (code) : Statement (.trap h code) := by
  rintro _ hl ⟨⟩
  exact ⟨rfl, rfl, clip_0 _⟩

theorem assert (h) (n) (code) : Statement (.assert h n code) := by
  rintro _ hl ⟨⟩
  exact ⟨rfl, rfl, clip_0 _⟩

theorem resumeRetry (h) : Statement (.resumeRetry h) := by
  rintro _ hl ⟨⟩
  exact ⟨rfl, rfl, clip_0 _⟩

theorem resumeSkip (h) : Statement (.resumeSkip h) := by
  rintro _ hl ⟨⟩
  exact ⟨rfl, rfl, clip_0 _⟩

theorem kill (h) : Statement (.kill h) := by
  rintro _ hl ⟨⟩
  exact ⟨rfl, rfl, clip_0 _⟩

theorem srd (h) (d) (b) : Statement (.srd h d b) := by
  rintro _ hl ⟨⟩
  have ok := legal_ok hl
  simp only [fieldsOk] at ok
  exact ⟨pick_step b (srcBi_ok ok (cmod_b ..) rfl rfl) rfl, rfl, clip_Bi ok⟩

theorem swr (h) (b) (a) : Statement (.swr h b a) := by
  rintro _ hl ⟨⟩
  have ok := legal_ok hl
  simp only [fieldsOk] at ok
  exact ⟨pick_step b (srcBi_ok ok (cmod_b ..) rfl rfl) rfl, rfl, clip_Bi ok⟩

theorem tlbinvAll (h) : Statement (.tlbinvAll h) := by
  rintro _ hl ⟨⟩
  exact ⟨rfl, rfl, clip_0 _⟩

theorem tlbinvPage (h) (n) : Statement (.tlbinvPage h n) := by
  rintro _ hl ⟨⟩
  exact ⟨rfl, rfl, clip_0 _⟩

theorem gswap (h) (d) (c) : Statement (.gswap h d c) := by
  rintro _ hl ⟨⟩
  exact ⟨pick_at (f := fun r => some (Instr.gswap r.hdr r.dst (r.mod.extractLsb' 0 4))) rfl (by simp only [low_c]), rfl, clip_0 _⟩

theorem resultDelivery (t) : Statement (.resultDelivery t) := fun _ _ h => nomatch h

theorem runPick (core) (part) : Statement (.runPick core part) := fun _ _ h => nomatch h

theorem quantumExpiry (grp) : Statement (.quantumExpiry grp) := fun _ _ h => nomatch h

theorem groupSwapOut (grp) : Statement (.groupSwapOut grp) := fun _ _ h => nomatch h

theorem groupSwapIn (grp) (places) : Statement (.groupSwapIn grp places) := fun _ _ h => nomatch h

theorem launchQueueTake (q) : Statement (.launchQueueTake q) := fun _ _ h => nomatch h

theorem groupStart (asid) (lid) (places) : Statement (.groupStart asid lid places) := fun _ _ h => nomatch h

theorem launchCompletion (asid) (lid) : Statement (.launchCompletion asid lid) := fun _ _ h => nomatch h

theorem tapeReplay (serial) : Statement (.tapeReplay serial) := fun _ _ h => nomatch h

theorem tapePop (serial) : Statement (.tapePop serial) := fun _ _ h => nomatch h

theorem copyOperation (id) : Statement (.copyOperation id) := fun _ _ h => nomatch h

theorem tileOperation (id) : Statement (.tileOperation id) := fun _ _ h => nomatch h

theorem wbldOperation (id) : Statement (.wbldOperation id) := fun _ _ h => nomatch h

theorem credResultWrite (id) : Statement (.credResultWrite id) := fun _ _ h => nomatch h

theorem grunEvaluation (id) : Statement (.grunEvaluation id) := fun _ _ h => nomatch h

theorem goutOperation (id) : Statement (.goutOperation id) := fun _ _ h => nomatch h

theorem rowReachBank (fn) (bank) : Statement (.rowReachBank fn bank) := fun _ _ h => nomatch h

theorem sweepVisit (bank) : Statement (.sweepVisit bank) := fun _ _ h => nomatch h

theorem floorRaise (pa) (floor) : Statement (.floorRaise pa floor) := fun _ _ h => nomatch h

theorem faultBufferEntryFree (asid) : Statement (.faultBufferEntryFree asid) := fun _ _ h => nomatch h

theorem jreplay (asid) : Statement (.jreplay asid) := fun _ _ h => nomatch h

theorem handlerGroupStart (asid) (core) : Statement (.handlerGroupStart asid core) := fun _ _ h => nomatch h

theorem quotaTrap (asid) (lid) (core) : Statement (.quotaTrap asid lid core) := fun _ _ h => nomatch h

theorem stopRecordWrite (asid) : Statement (.stopRecordWrite asid) := fun _ _ h => nomatch h

theorem preemptStage2 (asid) : Statement (.preemptStage2 asid) := fun _ _ h => nomatch h

theorem preemptStage3 (asid) : Statement (.preemptStage3 asid) := fun _ _ h => nomatch h

theorem qbaseQctlWrite (w) : Statement (.qbaseQctlWrite w) := fun _ _ h => nomatch h

theorem qwrWrite (w) : Statement (.qwrWrite w) := fun _ _ h => nomatch h

theorem bind (arg) : Statement (.bind arg) := fun _ _ h => nomatch h

theorem unbind (asid) (arg) : Statement (.unbind asid arg) := fun _ _ h => nomatch h

theorem preempt (asid) (arg) : Statement (.preempt asid arg) := fun _ _ h => nomatch h

theorem resume (asid) (arg) : Statement (.resume asid arg) := fun _ _ h => nomatch h

theorem canceljob (asid) (arg) : Statement (.canceljob asid arg) := fun _ _ h => nomatch h

theorem setquota (asid) (arg) : Statement (.setquota asid arg) := fun _ _ h => nomatch h

theorem tlbinv (asid) (arg) : Statement (.tlbinv asid arg) := fun _ _ h => nomatch h

theorem fencelink (arg) : Statement (.fencelink arg) := fun _ _ h => nomatch h

theorem unfencelink (arg) : Statement (.unfencelink arg) := fun _ _ h => nomatch h

theorem freeze (arg) : Statement (.freeze arg) := fun _ _ h => nomatch h

theorem clearlog (arg) : Statement (.clearlog arg) := fun _ _ h => nomatch h

theorem badop (op) (asid) (arg) : Statement (.badop op asid arg) := fun _ _ h => nomatch h

theorem errorLogFree (w) : Statement (.errorLogFree w) := fun _ _ h => nomatch h

theorem attestationRequest (w) : Statement (.attestationRequest w) := fun _ _ h => nomatch h

theorem attestationReport  : Statement (.attestationReport) := fun _ _ h => nomatch h

theorem plimitWrite (w) : Statement (.plimitWrite w) := fun _ _ h => nomatch h

theorem cethreshWrite (w) : Statement (.cethreshWrite w) := fun _ _ h => nomatch h

theorem registerWrite (w) : Statement (.registerWrite w) := fun _ _ h => nomatch h

theorem hostMemoryAccess (a) : Statement (.hostMemoryAccess a) := fun _ _ h => nomatch h

theorem umaryIncomingAccess (link) (a) : Statement (.umaryIncomingAccess link a) := fun _ _ h => nomatch h

theorem linkDown (link) : Statement (.linkDown link) := fun _ _ h => nomatch h

theorem collectiveStart (grp) (va) : Statement (.collectiveStart grp va) := fun _ _ h => nomatch h

theorem collectivePayload (link) (p) : Statement (.collectivePayload link p) := fun _ _ h => nomatch h

theorem collectiveCompute (id) : Statement (.collectiveCompute id) := fun _ _ h => nomatch h

theorem reset  : Statement (.reset) := fun _ _ h => nomatch h

theorem bootVerifyComplete (ok) : Statement (.bootVerifyComplete ok) := fun _ _ h => nomatch h

theorem freezeN  : Statement (.freezeN) := fun _ _ h => nomatch h

theorem readmem (pa) (len) : Statement (.readmem pa len) := fun _ _ h => nomatch h

theorem readthr (core) : Statement (.readthr core) := fun _ _ h => nomatch h

theorem stackOver85c (stack) (hot) : Statement (.stackOver85c stack hot) := fun _ _ h => nomatch h

theorem thermtrip  : Statement (.thermtrip) := fun _ _ h => nomatch h

theorem linkRetraining (link) : Statement (.linkRetraining link) := fun _ _ h => nomatch h

theorem lossOfPower  : Statement (.lossOfPower) := fun _ _ h => nomatch h

theorem illegalOpcode (r) : Statement (.illegalOpcode r) := by
  rintro _ hl ⟨⟩
  simp only [legal, Bool.and_eq_true, Bool.not_eq_true', beq_iff_eq] at hl
  refine ⟨?_, rfl, hl.2⟩
  exact pick_unassigned r hl.1

end Coding
end Sys2Proof.Laws
end

