-- ==== Sys2Proof/Tests/Slice0.lean ====
section
/-! SUPPORT. Tests of one step each: well-formedness, decoding of words written out from the encoding tables, small cases worked
in the spec's own chapters, and for every statement with hypotheses a state and operands that meet them. -/

set_option Elab.async false

namespace Sys2Proof.Tests

open Machine

/-! ## Headers -/

def hp : Hdr := ⟨7, false, 0, false, false, .l64⟩
def h96 : Hdr := ⟨7, false, 0, false, false, .l96⟩
def h128 : Hdr := ⟨7, false, 0, false, false, .l128⟩
def hNf : Hdr := ⟨7, false, 0, true, false, .l64⟩
def hLook : Hdr := ⟨7, false, 2, false, false, .l64⟩
def hQ1 : Hdr := ⟨1, false, 0, false, false, .l64⟩
def hEnd : Hdr := ⟨7, false, 0, false, true, .l64⟩
def hNever : Hdr := ⟨7, true, 0, false, false, .l64⟩

/-! ## Well-formedness (R51 to R58): one well-formed term, and an ill-formed one for each check -/

theorem test_wf_accepts : (Instr.iadd hp 3 (.d 1) (.imm 5)).wf = true := by decide
/-- A length the class does not have; S on an instruction that lists no flag; L on one that may not carry it. -/
theorem test_wf_header : (Instr.iadd h128 3 (.d 1) (.d 2)).wf = false ∧ (Instr.iadd hNf 3 (.d 1) (.d 2)).wf = false ∧
    (Instr.iadd hLook 3 (.d 1) (.d 2)).wf = false := by decide
/-- An immediate A; two immediates; one that its field cannot hold; an odd pair of g registers. -/
theorem test_wf_sources : (Instr.iadd hp 3 (.imm 1) (.d 2)).wf = false ∧
    (Instr.imad h128 3 (.d 1) (.imm 1) (.imm 2)).wf = false ∧ (Instr.iadd hp 3 (.d 1) (.imm 200)).wf = false ∧
    (Instr.ladd hp .full 4 (.g 1) (.d 2)).wf = false := by decide
/-- Odd pairs, a quad that is no multiple of 4, a block of parameters past g63. -/
theorem test_wf_registers : (Instr.ladd hp .full 5 (.d 2) (.d 6)).wf = false ∧
    (Instr.ld hp .b64 ⟨.plain, .thr, false, false⟩ 5 6 0).wf = false ∧
    (Instr.ld hp .b32 ⟨.plain, .thr, false, false⟩ 5 7 0).wf = false ∧ (Instr.rowqry hp 6 2).wf = false ∧
    (Instr.ldp hp 63 1 2 0).wf = false := by decide
/-- Orders that an access does not accept, scope with a plain order, W64 and NSG where they do not belong. -/
theorem test_wf_orders : (Instr.ld hp .b32 ⟨.rel, .dev, false, false⟩ 5 6 0).wf = false ∧
    (Instr.st hp .b32 ⟨.acq, .dev, false, false⟩ 6 0 5).wf = false ∧
    (Instr.ld hp .b32 ⟨.plain, .dev, false, false⟩ 5 6 0).wf = false ∧
    (Instr.ld hp .b32 ⟨.acq, .dev, true, false⟩ 5 6 0).wf = false ∧
    (Instr.atom h96 .add ⟨.rlx, .dev, false, true⟩ 5 6 0 7 0).wf = false ∧
    (Instr.red h96 .exch ⟨.rlx, .dev, false, false⟩ 6 0 7).wf = false ∧ (Instr.fence hp .ar .thr).wf = false := by decide
/-- Formats, types and codes that the entries do not allow. -/
theorem test_wf_codes : (Instr.swrite hp .tid (.d 1)).wf = false ∧ (Instr.redux hp .and .f32 3 (.d 1) 0).wf = false ∧
    (Instr.recon hp .and .f64 6 4).wf = false ∧ (Instr.sld hp 0 10 4).wf = false ∧ (Instr.mma hp .f32 16 9 2).wf = false ∧
    (Instr.plop hp .not false true 5 1 0).wf = false ∧ (Instr.short false 0 1 2 3).wf = false ∧
    (Instr.illegalOpcode ⟨hp, 0x00, 0, 0, 0, 0, 0, 0⟩).wf = false := by decide

/-! ## Decoding: every constructor, by a word written out from R50, R57 and its entry's encoding -/

def reads (w : BitVec 128) (i : Instr) : Bool := match decode w with | .ok j => decide (j = i) | .error _ => false

theorem test_decode_short :
    reads 0x102C600C (.short true 1 12 11 8) = true ∧
    reads 0x2081800 (.shortNop false 3 2 1) = true := by decide

theorem test_decode_integer :
    reads 0x20103000701 (.iadd hp 3 (.d 1) (.d 2)) = true ∧
    reads 0x3000FB0103001701 (.isub hp 3 (.d 1) (.imm (-5))) = true ∧
    reads 0x4000020103002701 (.imul hp 3 (.g 1) (.d 2)) = true ∧
    reads 0x20103103701 (.imulh hp true 3 (.d 1) (.d 2)) = true ∧
    reads 0x50000020103004702 (.imad h96 3 (.d 1) (.d 2) (.d 5)) = true ∧
    reads 0x60001020104005702 (.imadw h96 true 4 (.d 1) (.d 2) (.d 6)) = true ∧
    reads 0x103006701 (.ineg hp 3 (.d 1)) = true ∧
    reads 0x103007701 (.iabs hp 3 (.d 1)) = true ∧
    reads 0x20103108701 (.imin hp true 3 (.d 1) (.d 2)) = true ∧
    reads 0x20103009701 (.imax hp false 3 (.d 1) (.d 2)) = true ∧
    reads 0x30001F010300A701 (.ishl hp 3 (.d 1) (.imm 31)) = true ∧
    reads 0x2010310A701 (.ishr hp 3 (.d 1) (.d 2)) = true ∧
    reads 0x2010320A701 (.ilsr hp 3 (.d 1) (.d 2)) = true ∧
    reads 0x2010330A701 (.irot hp 3 (.d 1) (.d 2)) = true ∧
    reads 0x80000000300000010300B702 (.iand h96 3 (.d 1) (.imm 0xFFFFFFFF80000000)) = true ∧
    reads 0x2010310B701 (.ior hp 3 (.d 1) (.d 2)) = true ∧
    reads 0x2010320B701 (.ixor hp 3 (.d 1) (.d 2)) = true ∧
    reads 0x2010330B701 (.iandn hp 3 (.d 1) (.d 2)) = true ∧
    reads 0x10340B701 (.inot hp 3 (.d 1)) = true ∧
    reads 0x10300C701 (.ipopc hp 3 (.d 1)) = true ∧
    reads 0x10300D701 (.iclz hp 3 (.d 1)) = true ∧
    reads 0x10300E701 (.ibrev hp 3 (.d 1)) = true ∧
    reads 0x102010300F701 (.ibfe hp true 3 (.d 1) (.d 2)) = true ∧
    reads 0x804000000053000000103010703 (.ibfi h128 3 (.d 1) (.imm 0x804) (.d 5)) = true ∧
    reads 0x20103011701 (.idiv hp false 3 (.d 1) (.d 2)) = true ∧
    reads 0x20103112701 (.irem hp true 3 (.d 1) (.d 2)) = true ∧
    reads 0x15020103013701 (.isel hp true 5 3 (.d 1) (.d 2)) = true ∧
    reads 0x20106914701 (.icmp hp .geu 6 (.d 1) (.d 2)) = true := by decide

theorem test_decode_pair :
    reads 0x1060204015701 (.ladd hp .sx 4 (.d 2) (.d 6)) = true ∧
    reads 0x2060204016701 (.lsub hp .zx 4 (.d 2) (.d 6)) = true ∧
    reads 0x123456789ABCDEF03000000204017703 (.lmul h128 .full 4 (.d 2) (.imm 0x123456789ABCDEF0)) = true ∧
    reads 0x60204018701 (.lshl hp 4 (.d 2) (.d 6)) = true ∧
    reads 0x60204119701 (.lshr hp true 4 (.d 2) (.d 6)) = true ∧
    reads 0x1306020401A701 (.aadd hp true 3 4 (.d 2) (.d 6)) = true ∧
    reads 0x9000006020401B702 (.alea h96 false 4 (.d 2) (.d 6) (.d 9)) = true := by decide

theorem test_decode_float :
    reads 0x20103020709 (.fadd hNf .rn 3 (.d 1) (.d 2)) = true ∧
    reads 0x20103121701 (.fsub hp .rz 3 (.d 1) (.d 2)) = true ∧
    reads 0x20103222701 (.fmul hp .rd 3 (.d 1) (.d 2)) = true ∧
    reads 0x90000080B0C023702 (.ffma h96 .rn 12 (.d 11) (.d 8) (.d 9)) = true ∧
    reads 0x20103024701 (.fmin hp 3 (.d 1) (.d 2)) = true ∧
    reads 0x20103025701 (.fmax hp 3 (.d 1) (.d 2)) = true ∧
    reads 0x20105626701 (.fcmp hp .num 5 (.d 1) (.d 2)) = true ∧
    reads 0x2020103027701 (.fsel hp false 2 3 (.d 1) (.d 2)) = true ∧
    reads 0x103028701 (.fclass hp 3 (.d 1)) = true ∧
    reads 0x20103329701 (.fscale hp .ru 3 (.d 1) (.d 2)) = true ∧
    reads 0x10342A701 (.frint hp .dyn 3 (.d 1)) = true ∧
    reads 0x10302B701 (.ffrac hp 3 (.d 1)) = true ∧
    reads 0x10302C721 (.frcp hLook 3 (.d 1)) = true ∧
    reads 0x10302D701 (.frsq hp 3 (.d 1)) = true ∧
    reads 0x10302E701 (.fex2 hp 3 (.d 1)) = true ∧
    reads 0x10302F701 (.flg2 hp 3 (.d 1)) = true ∧
    reads 0x20103030701 (.fdiv hp .rn 3 (.d 1) (.d 2)) = true ∧
    reads 0x1020103031701 (.hadd2 hp .rn true 3 (.d 1) (.d 2)) = true ∧
    reads 0x20103132701 (.hmul2 hp .rz false 3 (.d 1) (.d 2)) = true ∧
    reads 0x50000020103233702 (.hfma2 h96 .rd false 3 (.d 1) (.d 2) (.d 5)) = true := by decide

theorem test_decode_move :
    reads 0xD50020104540701 (.cvt hp .rs .f64 .f32 4 (.d 1) (.d 2)) = true ∧
    reads 0x90103141701 (.dxpack hp true 3 (.d 1) 9) = true ∧
    reads 0x20103042701 (.dxunpack hp false 3 (.d 1) (.d 2)) = true ∧
    reads 0x4020103043701 (.pack hp .b16 3 (.d 1) (.d 2)) = true ∧
    reads 0x1000104044701 (.unpack hp .i16 4 (.d 1)) = true ∧
    reads 0x1000204048701 (.mov hp true 4 (.d 2)) = true ∧
    reads 0x3000800003049701 (.movi hp false 3 (-128)) = true ∧
    reads 0x900000404A701 (.sread hp 4 .stk) = true ∧
    reads 0x700010004B701 (.swrite hp .fmode (.d 1)) = true ∧
    reads 0x1020300000300000002010304C703 (.bmix h128 3 (.d 1) (.d 2) (.imm 0x10203)) = true ∧
    reads 0x102010504D701 (.pset hp true 5 (.d 1) (.d 2)) = true ∧
    reads 0x202010524E701 (.plop hp .xor true false 5 1 2) = true := by decide

theorem test_decode_control :
    reads 0xFFFE000000060701 (.bra hp (-2)) = true ∧
    reads 0x100000000000000160702 (.braU h96 0x10000) = true ∧
    reads 0x400061701 (.brx hp 4) = true ∧
    reads 0xFFF8000000062701 (.call hp (-8)) = true ∧
    reads 0x400063701 (.callx hp 4) = true ∧
    reads 0x64101 (.ret hQ1) = true ∧
    reads 0x65705 (.exit hEnd) = true ∧
    reads 0x66701 (.nop hp) = true ∧
    reads 0x67F01 (.yield hNever) = true := by decide

theorem test_decode_cooperation :
    reads 0x1020103070701 (.cvset hp .word 3 (.d 1) (.d 2)) = true ∧
    reads 0x5000000071701 (.cvsign hp 5) = true ∧
    reads 0x5020103372701 (.shfl hp .xor 3 (.d 1) (.d 2) 5) = true ∧
    reads 0x15000103073701 (.voteAll hp true 3 1 5) = true ∧
    reads 0x5000103173701 (.voteAny hp false 3 1 5) = true ∧
    reads 0x5020103273701 (.voteBallot hp false 3 1 (.d 2) 5) = true ∧
    reads 0x85000103274701 (.redux hp .max .f32 3 (.d 1) 5) = true ∧
    reads 0x145000103075701 (.scan hp .add .n32 true 3 (.d 1) 5) = true ∧
    reads 0x10020003076701 (.barArrive hp 3 (some (.d 2))) = true ∧
    reads 0x3176701 (.barWait hp 3) = true ∧
    reads 0x3276701 (.barSync hp 3 none) = true ∧
    reads 0x20103077701 (.qcfg hp 3 (.d 1) (.d 2)) = true ∧
    reads 0x16020003078701 (.qpush hp true 6 3 (.d 2)) = true ∧
    reads 0x32000304079701 (.qpop hp true 2 true 4 3) = true := by decide

theorem test_decode_memory :
    reads 0xFFF84C0604380701 (.ld hp .b64 ⟨.acq, .dev, false, false⟩ 4 6 (-8)) = true ∧
    reads 0x10080670481701 (.st hp .b128 ⟨.rel, .sys, false, false⟩ 6 16 8) = true ∧
    reads 0x4000503582701 (.lds hp .s8 ⟨.plain, .thr, false, false⟩ 3 5 4) = true ∧
    reads 0x4070500283701 (.sts hp .b32 ⟨.plain, .thr, false, false⟩ 5 4 7) = true ∧
    reads 0x800040000000503184702 (.ldr h96 .b16 ⟨.plain, .thr, false, false⟩ 3 5 0x80004) = true ∧
    reads 0x4070500085701 (.str hp .b8 ⟨.plain, .thr, false, false⟩ 5 4 7) = true ∧
    reads 0xC030208086701 (.ldp hp 8 3 2 12) = true ∧
    reads 0xFFFFFFF08F00080604187702 (.atom h96 .min ⟨.ar, .dev, true, true⟩ 4 6 (-16) 8 0) = true ∧
    reads 0x42C00080600888702 (.red h96 .fadd ⟨.rlx, .dev, false, false⟩ 6 4 8) = true ∧
    reads 0x10289701 (.fence hp .ar .sys) = true ∧
    reads 0x3060008A701 (.cctlRange hp 6 3) = true ∧
    reads 0x18A701 (.cctlAll hp) = true ∧
    reads 0x4000060008B701 (.pref hp 6 64) = true := by decide

theorem test_decode_rows :
    reads 0x300040A0A0701 (.sld hp 3 10 4) = true ∧
    reads 0xC04150A1701 (.sst hp 21 4 12 none) = true ∧
    reads 0x1100C04151A1701 (.sstT hp 21 4 12 (some 16)) = true ∧
    reads 0x20004060A2701 (.recon hp .sum .f32 6 4) = true ∧
    reads 0x100C04150A3701 (.reconSet hp 21 4 12 16) = true ∧
    reads 0x2000A8701 (.rowreg hp 0 2) = true ∧
    reads 0x2000A9701 (.rowreq hp 0 2) = true ∧
    reads 0x11C0AA701 (.rowwait hp 28 1) = true ∧
    reads 0x60C0AB701 (.rowqry hp 12 6) = true ∧
    reads 0x1030AC701 (.rowcancel hp 3 1) = true := by decide

theorem test_decode_engines :
    reads 0x90F000C04080B0702 (.cpy h96 none false 0 8 4 12 9) = true ∧
    reads 0xA04100C04080B1702 (.cpyo h96 (some .b16) true 8 4 12 10) = true ∧
    reads 0xA0F000C04080B2702 (.cpyhTo h96 none false 8 4 12 10) = true ∧
    reads 0xA0F000C04081B2702 (.cpyhFrom h96 none false 8 4 12 10) = true ∧
    reads 0xA00030C04080B3702 (.cpyx h96 3 8 4 12 10) = true ∧
    reads 0x31D000B4701 (.arvInit hp false 29 (.d 3)) = true ∧
    reads 0x20001D3C1B4701 (.arvWait hp true 60 29) = true ∧
    reads 0x1D052B4701 (.arvTest hp false 5 29) = true ∧
    reads 0x3000401D003B4701 (.arvAdd hp false 29 (.imm 64)) = true ∧
    reads 0x4020910000B8701 (.mma hp .b16 16 9 2) = true ∧
    reads 0x20907000B9701 (.mmz hp 7 9 2) = true ∧
    reads 0x900020C04070BA702 (.wbld h96 7 4 12 9 2) = true ∧
    reads 0x900020C04071BA702 (.wbldSparse h96 7 4 12 9 2) = true ∧
    reads 0x20900000BB701 (.wbrel hp 9 2) = true ∧
    reads 0x5020910000BC701 (.accld hp .f32 16 9 2) = true ∧
    reads 0x6020910000BD701 (.accst hp .e4m3 16 9 2) = true ∧
    reads 0x380000203B3A0C8702 (.credSmx h96 58 59 32 56 0) = true ∧
    reads 0x380001203B3A0C9702 (.credSum h96 58 59 32 56 1) = true ∧
    reads 0x380001203B3A0CA702 (.credMax h96 58 59 32 56 1) = true ∧
    reads 0x6040C0701 (.gseg hp 4 6 0) = true ∧
    reads 0x10008040C1701 (.gvec hp 4 8 1) = true ∧
    reads 0x10000050C2701 (.grun hp 5 1) = true ∧
    reads 0x10000050C3701 (.gout hp 5 1) = true ∧
    reads 0x90C4701 (.gwait hp 9) = true := by decide

theorem test_decode_system :
    reads 0x6030CC701 (.dictLoad hp 3 6) = true ∧
    reads 0x200040CD701 (.dictRead hp 4 (.d 2)) = true ∧
    reads 0xCE701 (.fenceF hp) = true ∧
    reads 0x6040D0701 (.launch hp 4 6) = true ∧
    reads 0x120001030D1701 (.cntWait hp .phase true 3 (.d 1)) = true ∧
    reads 0x30001030D2701 (.cancel hp .job 3 (.d 1)) = true ∧
    reads 0x6030D3701 (.tapePush hp 3 6) = true ∧
    reads 0xBEEF0000000E0701 (.trap hp 0xBEEF) = true ∧
    reads 0x70006000E1701 (.assert hp 6 7) = true ∧
    reads 0xE2701 (.resumeRetry hp) = true ∧
    reads 0x1E2701 (.resumeSkip hp) = true ∧
    reads 0xE3701 (.kill hp) = true ∧
    reads 0x700040E4701 (.srd hp 4 (.d 7)) = true ∧
    reads 0x701000E5701 (.swr hp (.d 7) 1) = true ∧
    reads 0xE6701 (.tlbinvAll hp) = true ∧
    reads 0x6001E6701 (.tlbinvPage hp 6) = true ∧
    reads 0x10000020E7701 (.gswap hp 2 1) = true ∧
    reads 0x1004020131C701 (.illegalOpcode ⟨hp, 0x1C, 3, 1, 2, 4, 0x10, 0⟩) = true := by decide

/-! ## A small machine: one running group of one thread of a job, five pages mapped for it -/

def regs : List Word := [0, 0, 1, 0, 0, 0, 0x1000, 0, 0x2000, 0, 0x3000, 0, 0x4000, 0, 0x5000, 0] ++ List.replicate 240 0

def probeRec : LaunchRec := { fetchRec with scratch := 4096, acc := 64, espill := 2, spill := 0x800 }

def page (va pa e : Nat) : Tlb := ⟨1, va, 4096, pa, BitVec.ofNat 64 (pa + e)⟩

/-- d4: a NORMAL address, d6: SIBLING, d8: ROW, d10: IO, d12: NORMAL and read-only, d14: absent, d2: misaligned. -/
def probe : State :=
  let s := State.resetOf ⟨true, false, [], 0x7F⟩ 0
  { s with
    mgmt := { s.mgmt with boot := 1 }
    tlb := [page 0 0x20000 0x1F, page 0x1000 0x21000 (0x1F + 2 * 64), page 0x2000 0x24000 (0x1F + 64),
      page 0x3000 0x3000 (0x1F + 5 * 64), page 0x4000 0x23000 0x07]
    jobs := [fetchJob]
    launches := [⟨1, 1, probeRec, .instr, none, none, none, 1, 0, false, false, [], false, none⟩]
    groups := [{ Group.fresh probeRec 1 1 0 0 [0] ⟨0, 0⟩ none none with
      status := .running, threads := [{ Thread.fresh 256 0 with d := regs }] }] }

def tweak (f : Thread → Thread) : State := probe.setThr ⟨0, 0⟩ f
def tweakG (f : Group → Group) : State := probe.setGrp 0 f
/-- Some registers set. -/
def withD (l : List (Nat × Word)) : State := tweak fun t => { t with d := l.foldl (fun d p => d.set p.1 p.2) t.d }
/-- Bytes stored at the thread's address 0. -/
def withMem (bs : List Byte) : State := { probe with mem := cWrite probe.mem 0x20000 bs }
/-- The group as a handler group that serves trap 1, taken by its own thread's twin in group 1. -/
def handling : State :=
  { probe with
    groups := [{ Group.fresh probeRec 1 0 0 0 [0] ⟨0, 0⟩ (some 1) none with
        status := .running, threads := [{ Thread.fresh 256 0 with d := regs }] },
      { Group.fresh probeRec 1 1 0 0 [1] ⟨0, 64⟩ none none with
        status := .running, threads := [{ Thread.fresh 32 0 with status := .trapped 1 }] }]
    traps := [⟨1, 1, ⟨1, 0, ⟨.trap, 0, 0, 0⟩, 1, 0, 0, false, true, false, 0, 0x66701, 0⟩, 0, some 0, some ⟨1, 0⟩, 0, some 0, false⟩] }

/-- What `Runs` asks, and a condition on the context and the state. -/
def atB (s : State) (i : Instr) (p : Ctx → State → Bool) : Bool :=
  match s.groups[s.cur.ref.grp]?, s.thr s.cur.ref with
  | some g, some t =>
    t.live && !t.guardOpen (hdrOf i) && t.guardHolds (hdrOf i) && !s.unitAbsent (opcodeOf i) && legal i && regsExist g.nregs i &&
      decide (t.hazards (namesOf i) = []) && p (ctxOf s i g t) s
  | _, _ => false

/-- A witness: the current thread of `s` runs `i`, and the condition holds. -/
def At (s : State) (i : Instr) (p : Ctx → State → Prop) : Prop := ∃ g t, Runs s i g t ∧ p (ctxOf s i g t) s

theorem at_of {s : State} {i : Instr} {p : Ctx → State → Bool} (h : atB s i p = true) : At s i fun c u => p c u = true := by
  unfold atB at h
  split at h
  · rename_i g t hg ht
    simp only [Bool.and_eq_true, Bool.not_eq_true', decide_eq_true_eq] at h
    obtain ⟨⟨⟨⟨⟨⟨⟨h1, h2⟩, h3⟩, h4⟩, h5⟩, h6⟩, h7⟩, h8⟩ := h
    exact ⟨g, t, ⟨hg, ht, h1, h2, h3, h4, h5, h6, h7⟩, h8⟩
  · exact absurd h (by decide)

theorem runs_of {s : State} {i : Instr} (h : atB s i (fun _ _ => true) = true) : ∃ g t, Runs s i g t :=
  let ⟨g, t, hr, _⟩ := at_of h
  ⟨g, t, hr⟩

/-- Every instruction of a list runs on the small machine. -/
def runAll (s : State) (is : List Instr) : Bool := is.all fun i => atB s i fun _ _ => true
theorem runs_all {s : State} {is : List Instr} (h : runAll s is = true) : ∀ i ∈ is, ∃ g t, Runs s i g t := fun i hi =>
  runs_of (List.all_eq_true.mp h i hi)

/-! ## Witnesses of the statements' hypotheses -/

theorem witness_IntegerResults : ∀ i ∈ ([.iadd hp 3 (.d 1) (.d 2), .isub hp 3 (.d 1) (.d 2), .imul hp 3 (.d 1) (.d 2),
    .imad h96 3 (.d 1) (.d 2) (.d 5), .ineg hp 3 (.d 1), .iabs hp 3 (.d 1), .imin hp true 3 (.d 1) (.d 2),
    .imax hp false 3 (.d 1) (.d 2), .iand hp 3 (.d 1) (.d 2), .ior hp 3 (.d 1) (.d 2), .ixor hp 3 (.d 1) (.d 2),
    .iandn hp 3 (.d 1) (.d 2), .inot hp 3 (.d 1), .ipopc hp 3 (.d 1), .iclz hp 3 (.d 1), .isel hp true 5 3 (.d 1) (.d 2),
    .imulh hp true 3 (.d 1) (.d 2), .imadw h96 true 4 (.d 1) (.d 2) (.d 6)] : List Instr), ∃ g t, Runs probe i g t :=
  runs_all (by decide)
theorem witness_ShiftAndFieldResults : ∀ i ∈ ([.ishl hp 3 (.d 1) (.imm 32), .ishr hp 3 (.d 1) (.imm 31),
    .ilsr hp 3 (.d 1) (.d 2), .irot hp 3 (.d 1) (.d 2), .ibrev hp 3 (.d 1), .ibfe hp true 3 (.d 1) (.d 2),
    .ibfi h96 3 (.d 1) (.d 2) (.d 5)] : List Instr), ∃ g t, Runs probe i g t := runs_all (by decide)
theorem witness_DivisionResults : ∀ i ∈ ([.idiv hp false 3 (.d 1) (.d 0), .idiv hp true 3 (.d 1) (.d 2),
    .irem hp false 3 (.d 1) (.d 0)] : List Instr), ∃ g t, Runs probe i g t := runs_all (by decide)
theorem witness_PairAndPredicateResults : ∀ i ∈ ([.icmp hp .geu 7 (.d 1) (.d 2), .ladd hp .sx 4 (.d 2) (.d 6),
    .lsub hp .zx 4 (.d 2) (.d 6), .lmul hp .full 4 (.d 2) (.d 6), .lshl hp 4 (.d 2) (.imm 64), .lshr hp true 4 (.d 2) (.d 6),
    .aadd hp true 15 4 (.d 2) (.d 6), .alea h96 false 4 (.d 2) (.d 6) (.d 9)] : List Instr), ∃ g t, Runs probe i g t :=
  runs_all (by decide)
theorem witness_FloatArithmetic : ∀ i ∈ ([.fadd hNf .rn 3 (.d 1) (.d 2), .fsub hp .rz 3 (.d 1) (.d 2),
    .fmul hp .rd 3 (.d 1) (.d 2), .ffma h96 .ru 12 (.d 11) (.d 8) (.d 9), .fdiv hp .dyn 3 (.d 1) (.d 2),
    .hadd2 hp .rn true 3 (.d 1) (.d 2), .hmul2 hp .rz false 3 (.d 1) (.d 2), .hfma2 h96 .rd false 3 (.d 1) (.d 2) (.d 5),
    .fscale hp .ru 3 (.d 1) (.d 2), .frint hp .dyn 3 (.d 1), .ffrac hp 3 (.d 1), .frcp hLook 3 (.d 1), .frsq hp 3 (.d 1),
    .fex2 hp 3 (.d 1), .flg2 hp 3 (.d 1)] : List Instr), ∃ g t, Runs probe i g t := runs_all (by decide)
/-- A quiet and a signalling NaN; infinities of like and unlike sign; zero times infinity; a finite value over zero. -/
theorem witness_FloatSpecialCases :
    (FFmt.f32.read (FFmt.f32.flushIn false 0x7FC00000)).isNan = true ∧ (FFmt.f32.read (FFmt.f32.flushIn true 0x7F800001)).isNan = true ∧
    FFmt.f32.read (FFmt.f32.flushIn true 0xFF800000) = .inf true ∧ FFmt.f32.read (FFmt.f32.flushIn true 0x7F800000) = .inf false ∧
    (FFmt.f32.read (FFmt.f32.flushIn true 1)).isZero = true ∧ (FFmt.f32.read (FFmt.f32.flushIn false 0x80000000)).isZero = true ∧
    (match FFmt.f32.read 0x3F800000 with | .fin p => decide (p.n ≠ 0) | _ => false) = true ∧
    (match FFmt.f32.read 0 with | .fin p => decide (p.n = 0) | _ => false) = true := by decide
/-- A value in FEX2's range on either side of 0, a subnormal and a normal one with their exponents, odd and even. -/
theorem witness_FloatSequences :
    (match FFmt.f32.read 0xBFC00000 with | .fin x => decide (x.neg = true ∧ x.n ≤ 150 * x.d) | _ => false) = true ∧
    (match FFmt.f32.read 0x42FE0000 with | .fin x => decide (x.neg = false ∧ x.n < 128 * x.d) | _ => false) = true ∧
    (match FFmt.f32.read 0x40400000 with | .fin x => decide (x.n ≠ 0 ∧ x.neg = false ∧ x.d * 2 ^ (1 : Int).toNat ≤ x.n * 2 ^ (-1 : Int).toNat ∧
      x.n * 2 ^ (-1 : Int).toNat < 2 * (x.d * 2 ^ (1 : Int).toNat)) | _ => false) = true ∧
    (match FFmt.f32.read 1 with | .fin x => decide (x.n ≠ 0 ∧ x.d * 2 ^ (-149 : Int).toNat ≤ x.n * 2 ^ (149 : Int).toNat ∧
      x.n * 2 ^ (149 : Int).toNat < 2 * (x.d * 2 ^ (-149 : Int).toNat)) | _ => false) = true ∧ FFmt.b16 ≠ FFmt.e4m3 := by decide
theorem witness_FloatSelections : ∀ i ∈ ([.fmin hp 3 (.d 1) (.d 2), .fmax hp 3 (.d 1) (.d 2), .fcmp hp .num 7 (.d 1) (.d 2),
    .fsel hp false 2 3 (.d 1) (.d 2), .fclass hp 3 (.d 1)] : List Instr), ∃ g t, Runs probe i g t := runs_all (by decide)
/-- Operands of the F32 functions: a zero, a negative value, one at FEX2's upper bound and one below its lower, an integer too
large for a fraction and a value that rounds. -/
theorem witness_FloatFunctions :
    (match FFmt.f32.read 0x80000000 with | .fin p => decide (p.n = 0 ∧ p.neg = true) | _ => false) = true ∧
    (match FFmt.f32.read 0xC3160001 with | .fin p => decide (p.n ≠ 0 ∧ p.neg = true ∧ 150 * p.d < p.n) | _ => false) = true ∧
    (match FFmt.f32.read 0x43000000 with | .fin p => decide (p.neg = false ∧ 128 * p.d ≤ p.n) | _ => false) = true ∧
    (match FFmt.f32.read 0x4B000000 with | .fin p => decide (p.d * 2 ^ 23 ≤ p.n) | _ => false) = true ∧
    (match FFmt.f32.read 0x3FC00000 with | .fin p => decide (p.n < p.d * 2 ^ 23 ∧ p.d ≠ 0 ∧ 2 * 2 * p.d = 2 * p.n + p.d) | _ => false) = true := by
  decide
theorem witness_ConversionResults : ∀ i ∈ ([.cvt hp .rs .f64 .f32 4 (.d 1) (.d 2), .cvt hp (.rm .rn) .i8 .n64 4 (.d 2) (.d 0),
    .dxunpack hp false 3 (.d 1) (.d 2), .dxunpack hp true 3 (.d 1) (.d 2), .pack hp .b16 3 (.d 1) (.d 2),
    .unpack hp .i16 4 (.d 1)] : List Instr), ∃ g t, Runs probe i g t := runs_all (by decide)
/-- Values between two powers of 2: in range, below the least normal, beyond the largest; beyond an integer format and in it. -/
theorem witness_Rounding :
    (let x : Q := ⟨false, 3, 2⟩; 0 < x.n ∧ 0 < x.d ∧ x.d * 2 ^ (0 : Int).toNat ≤ x.n * 2 ^ (-(0 : Int)).toNat ∧
      x.n * 2 ^ (-((0 : Int) + 1)).toNat < x.d * 2 ^ ((0 : Int) + 1).toNat) ∧
    (let x : Q := ⟨true, 1, 2 ^ 20⟩; x.d * 2 ^ (-20 : Int).toNat ≤ x.n * 2 ^ (-(-20 : Int)).toNat ∧
      x.n * 2 ^ (-((-20 : Int) + 1)).toNat < x.d * 2 ^ ((-20 : Int) + 1).toNat ∧ (-20 : Int) < FFmt.f16.emin) ∧
    (let x : Q := ⟨false, 2 ^ 16, 1⟩; x.d * 2 ^ (16 : Int).toNat ≤ x.n * 2 ^ (-(16 : Int)).toNat ∧ (2 : Nat) ^ 16 > 65504) ∧
    (0 : Nat) < 8 ∧ (127 : Int) < 300 ∧ (-300 : Int) < 0 := by decide
theorem witness_MoveResults : ∀ i ∈ ([.mov hp false 4 (.d 2), .mov hp true 4 (.d 2), .movi hp false 3 (-128), .movi h128 true 4 5,
    .sread hp 4 .stk, .sread hp 3 .launch, .swrite hp .fstat (.d 1), .swrite hp .fmode (.d 1), .bmix h96 3 (.d 1) (.d 2) (.d 5),
    .pset hp true 5 (.d 1) (.d 2), .plop hp .not true false 5 1 0] : List Instr), ∃ g t, Runs probe i g t :=
  runs_all (by decide)
theorem witness_BranchesAndEnds : ∀ i ∈ ([.bra hp (-2), .braU h96 0x10000, .brx hp 4, .exit hEnd, .nop hp,
    .yield hp] : List Instr), ∃ g t, Runs probe i g t := runs_all (by decide)
/-- Depth 0 and 3; depth 4 with its spill slot writable; depth 6 with two slots; RET at 0, 1 and 5. -/
theorem witness_CallAndReturn :
    At (tweak fun t => { t with depth := 3, stack := [1, 2, 3] }) (.call hp 4) (fun c _ => decide (c.t.depth < 4)) ∧
    At (tweak fun t => { t with depth := 6, stack := [1, 2, 3, 4] }) (.callx hp 4)
      (fun c _ => decide (4 + c.g.espill ≤ c.t.depth)) ∧
    At (tweak fun t => { t with depth := 4, stack := [1, 2, 3, 4] }) (.call hp 4)
      (fun c s => decide (s.check c.g.asid 0x800 .write isNormal = .ok 0x20800 .normal 0x2001F)) ∧
    At probe (.ret hp) (fun c _ => decide (c.t.depth = 0)) ∧
    At (tweak fun t => { t with depth := 1, stack := [1] }) (.ret hp) (fun c _ => decide (0 < c.t.depth ∧ c.t.depth ≤ 4)) ∧
    At (tweak fun t => { t with depth := 5, stack := [1, 2, 3, 4] }) (.ret hp)
      (fun c s => decide (5 ≤ c.t.depth ∧ s.check c.g.asid 0x800 .both isNormal = .ok 0x20800 .normal 0x2001F)) :=
  ⟨at_of (by decide), at_of (by decide), at_of (by decide), at_of (by decide), at_of (by decide), at_of (by decide)⟩
/-- A register without an open use; one with an open use whose members are equal to the new set, and one where they are not. -/
theorem witness_ConvergenceRegisters :
    At probe (.cvset hp .range 0 (.d 0) (.d 2)) (fun c _ => (c.g.cvs[0]?).any fun v => !v.pend) ∧
    At (tweakG fun g => { g with cvs := g.cvs.modify 0 fun v => { v with pend := true } }) (.cvset hp .range 0 (.d 0) (.d 2))
      (fun c _ => (c.g.cvs[0]?).any fun v => v.pend && decide (v.members = 1)) ∧
    At (tweakG fun g => { g with cvs := g.cvs.modify 0 fun v => { v with pend := true } }) (.cvset hp .clear 0 (.d 0) (.d 0))
      (fun c _ => (c.g.cvs[0]?).any fun v => v.pend && decide (v.members ≠ 0)) :=
  ⟨at_of (by decide +kernel), at_of (by decide +kernel), at_of (by decide +kernel)⟩
def joinsB (c : Ctx) (i : Instr) (k : Nat) : Bool := (c.g.cvs[k]?).any fun v =>
  v.members.getLsbD c.ref.tid && decide (v.members &&& c.g.liveSet ≠ 0) &&
    (!v.pend || (!v.signed.getLsbD c.ref.tid && decide (v.tag = tagOf i)))
/-- A thread that may sign; one that is no member; one that meets another tag; one that has signed already. -/
theorem witness_SetSignatures :
    (∀ i ∈ ([.cvsign hp 0, .shfl hp .xor 3 (.d 1) (.d 2) 0, .voteAll hp true 3 1 0, .voteAny hp false 3 1 0,
      .voteBallot hp false 3 1 (.d 2) 0, .redux hp .max .f32 3 (.d 1) 0, .scan hLook .add .n32 true 3 (.d 1) 0,
      .gswap hp 2 0] : List Instr), At probe i (fun c _ => joinsB c i 0)) ∧
    At (tweakG fun g => { g with cvs := g.cvs.modify 0 fun v => { v with pend := true, tag := tagOf (.dxpack hp true 3 (.d 1) 0) } })
      (.dxpack hp true 3 (.d 1) 0) (fun c _ => joinsB c (.dxpack hp true 3 (.d 1) 0) 0 && (c.g.cvs[0]?).any Conv.pend) ∧
    At probe (.cvsign hp 1) (fun c _ => (c.g.cvs[1]?).any fun v => !v.members.getLsbD 0 && c.t.held.isNone) ∧
    At (tweakG fun g => { g with cvs := g.cvs.modify 0 fun v => { v with pend := true, tag := 5 } }) (.cvsign hp 0)
      (fun c _ => (c.g.cvs[0]?).any fun v => v.pend && !v.signed.getLsbD 0 && decide (v.tag ≠ tagOf (.cvsign hp 0))) ∧
    At (tweakG fun g => { g with cvs := g.cvs.modify 0 fun v => { v with pend := true, signed := 1 } }) (.cvsign hp 0)
      (fun c _ => (c.g.cvs[0]?).any fun v => v.pend && v.signed.getLsbD 0) := by
  refine ⟨?_, at_of (by decide +kernel), at_of (by decide +kernel), at_of (by decide +kernel), at_of (by decide +kernel)⟩
  intro i hi
  simp only [List.mem_cons, List.mem_nil_iff, or_false] at hi
  obtain rfl | rfl | rfl | rfl | rfl | rfl | rfl | rfl := hi <;> exact at_of (by decide +kernel)
/-- The group with 32 threads of which all but the first have signed DXPACK at c0; and with c0 free. -/
def wide (open_ : Bool) : State :=
  let ts := (List.range 32).map fun _ => Thread.fresh 32 0
  let x := Instr.dxpack hp true 3 (.d 1) 0
  let all : TSet := BitVec.ofNat 1024 (2 ^ 32 - 1)
  let c0 : Conv := if open_ then ⟨all, true, tagOf x, all, all &&& ~~~1, (List.range' 1 31).map fun t => ⟨t, x, [0], 8⟩⟩
    else ⟨all, false, 0, 0, 0, []⟩
  tweakG fun g => { g with nthreads := 32, threads := ts, cvs := g.cvs.set 0 c0 }
def lastB (c : Ctx) (i : Instr) (k : Nat) : Bool := joinsB c i k && !c.g.gramQ.contains k && !c.g.gswap.contains k &&
  (c.g.cvs[k]?).any fun v => (List.range 1024).all fun t => t == c.ref.tid || !(if v.pend then v.set else v.members &&& c.g.liveSet).getLsbD t ||
    !c.g.live t || (v.pend && v.signed.getLsbD t)
/-- The last thread to sign; DXPACK over 32 members, opening its use or completing one, and over one member; GSWAP without a
quantum, and with one where a started group waits for a slot and where none does. -/
theorem witness_SetFinishes :
    (∀ i ∈ ([.cvsign hp 0, .shfl hp .xor 3 (.d 1) (.d 2) 0, .voteAll hp true 3 1 0, .voteAny hp false 3 1 0,
      .voteBallot hp false 3 1 (.d 2) 0, .redux hp .max .f32 3 (.d 1) 0, .scan hLook .add .n32 true 3 (.d 1) 0] : List Instr),
      At probe i (fun c _ => lastB c i 0)) ∧
    At probe (.gswap hp 2 0) (fun c _ => lastB c (.gswap hp 2 0) 0 && c.g.quant == 0) ∧
    At (tweakG fun g => { g with quant := 2 }) (.gswap hp 2 0)
      (fun c s => lastB c (.gswap hp 2 0) 0 && c.g.quant != 0 && !s.slotWaiter c.g.asid c.g.launch) ∧
    At { probe with groups := (probe.groups.map fun g => { g with quant := 2 }) ++ (probe.groups.map fun g => { g with status := .swapped }) }
      (.gswap hp 2 0) (fun c s => lastB c (.gswap hp 2 0) 0 && c.g.quant != 0 && s.slotWaiter c.g.asid c.g.launch) ∧
    At (wide true) (.dxpack hp true 3 (.d 1) 0) (fun c _ => lastB c (.dxpack hp true 3 (.d 1) 0) 0 && (c.g.cvs[0]?).any Conv.pend) ∧
    At (wide false) (.dxpack hp true 3 (.d 1) 0) (fun c _ => joinsB c (.dxpack hp true 3 (.d 1) 0) 0 &&
      (c.g.cvs[0]?).any fun v => !v.pend && ((List.range 1024).countP fun t => (v.members &&& c.g.liveSet).getLsbD t) == 32) ∧
    At probe (.dxpack hp true 3 (.d 1) 0) (fun c _ => c.t.held.isNone &&
      (c.g.cvs[0]?).any fun v => !v.pend && v.members.getLsbD 0 && ((List.range 1024).countP fun t => (v.members &&& c.g.liveSet).getLsbD t) != 32) := by
  refine ⟨?_, at_of (by decide +kernel), at_of (by decide +kernel), at_of (by decide +kernel), at_of (by decide +kernel),
    at_of (by decide +kernel), at_of (by decide +kernel)⟩
  intro i hi
  simp only [List.mem_cons, List.mem_nil_iff, or_false] at hi
  obtain rfl | rfl | rfl | rfl | rfl | rfl | rfl := hi <;> exact at_of (by decide +kernel)
/-- An open use that every thread of SET has signed, and one whose live thread has not; two participants in order. -/
theorem witness_SetCompletion :
    (let v : Conv := ⟨3, true, 0, 3, 3, [⟨0, .cvsign hp 0, [], 8⟩, ⟨1, .cvsign hp 0, [], 8⟩]⟩
     let g : Group := { Group.fresh probeRec 1 1 0 0 [0] ⟨0, 0⟩ none none with cvs := [v] }
     v.pend = true ∧ v.sigs ≠ [] ∧ g.gramQ.contains 0 = false ∧ 0 ∉ g.gswap ∧
       (∀ t, t < 1024 → v.set.getLsbD t = true → v.signed.getLsbD t = true) ∧
       v.sigs.Pairwise (fun y z => y.tid < z.tid) ∧ v.sigs[1]?.isSome = true) ∧
    (let v : Conv := ⟨1, true, 0, 1, 0, [⟨0, .cvsign hp 0, [], 8⟩]⟩
     let g : Group := { Group.fresh probeRec 1 1 0 0 [0] ⟨0, 0⟩ none none with cvs := [v] }
     v.set.getLsbD 0 = true ∧ v.signed.getLsbD 0 = false ∧ g.live 0 = true ∧ 0 < g.threads.length) := by decide +kernel
theorem witness_NamedBarriers :
    (∀ i ∈ ([.barArrive hp 3 none, .barArrive hp 15 (some (.d 2)), .barWait hp 3, .barSync hp 3 none,
      .barSync hp 3 (some (.d 2))] : List Instr), ∃ g t, Runs probe i g t) ∧
    ((tweakG fun g => { g with bars := g.bars.set 3 ⟨1, 2, 0, 0⟩ }).groups[0]?.any fun g =>
      (g.bars[3]?).any fun b => decide (0 < b.arrived ∧ b.arrived < b.count)) = true ∧
    ((tweakG fun g => { g with bars := g.bars.set 3 ⟨1, 0, 0, 0⟩ }).groups[0]?.any fun g =>
      (g.bars[3]?).any fun b => decide (b.count = 0 ∧ g.threads.countP Thread.live ≤ b.arrived)) = true :=
  ⟨runs_all (by decide), by decide, by decide⟩
def withQ (q : HQueue) : State := tweakG fun g => { g with hqs := g.hqs.set 3 q }
theorem witness_HandOffQueues :
    At (withQ ⟨2, 1, [(5, 0)]⟩) (.qcfg hp 3 (.d 2) (.d 2)) (fun c _ => (c.g.hqs[3]?).any fun q => !q.entries.isEmpty) ∧
    At probe (.qcfg hp 3 (.d 2) (.imm 2)) (fun c _ => decide ((c.w (.d 2)).toNat ≠ 0 ∧ (c.w (.d 2)).toNat < (c.w (.imm 2)).toNat)) ∧
    At probe (.qcfg hp 3 (.d 0) (.d 2)) (fun c _ => decide ((c.w (.d 0)).toNat = 0)) ∧
    At probe (.qpush hp true 6 3 (.d 2)) (fun c _ => (c.g.hqs[3]?).any fun q => q.depth == 0) ∧
    At (withQ ⟨2, 1, []⟩) (.qpush hp false 0 3 (.d 2)) (fun c _ => (c.g.hqs[3]?).any fun q => q.depth != 0 && q.entries.isEmpty) ∧
    At (withQ ⟨2, 1, [(5, 0)]⟩) (.qpush hp false 0 3 (.d 2))
      (fun c _ => (c.g.hqs[3]?).any fun q => q.entries.countP (fun e => e.2 == c.ref.tid) == q.allow) ∧
    At (withQ ⟨1, 1, [(5, 3)]⟩) (.qpush hp true 6 3 (.d 2)) (fun c _ => (c.g.hqs[3]?).any fun q => q.entries.length == q.depth) ∧
    At (withQ ⟨1, 1, [(5, 3)]⟩) (.qpop hp true 2 true 4 3) (fun c _ => (c.g.hqs[3]?).any fun q => q.entries == [(5, 3)]) ∧
    At (withQ ⟨1, 1, []⟩) (.qpop hp false 0 false 4 3) (fun c _ => (c.g.hqs[3]?).any fun q => q.depth != 0 && q.entries.isEmpty) :=
  ⟨at_of (by decide), at_of (by decide), at_of (by decide), at_of (by decide), at_of (by decide), at_of (by decide),
    at_of (by decide), at_of (by decide), at_of (by decide)⟩
def mPlain : Mc := ⟨.plain, .thr, false, false⟩
theorem witness_LoadResults :
    At probe (.ld hp .b64 ⟨.acq, .dev, false, false⟩ 20 4 8)
      (fun c s => decide (s.check c.g.asid 8 .read (accessType 8) = .ok 0x20008 .normal 0x2001F)) ∧
    At probe (.ld hp .b32 mPlain 20 10 0) (fun c s => decide (s.check c.g.asid 0x3000 .read (accessType 4) = .ok 0x3000 .io 0x315F)) ∧
    At probe (.lds hp .b128 mPlain 20 0 4080) (fun c _ => decide (4080 + 16 ≤ c.g.scratchLen)) ∧
    At probe (.ldr hp .s8 mPlain 20 0 4095)
      (fun c s => decide (0 < c.g.csize) && (s.groups[c.g.rank 0]?).any fun p => decide (4095 + 1 ≤ p.scratchLen)) :=
  ⟨at_of (by decide), at_of (by decide), at_of (by decide), at_of (by decide)⟩
theorem witness_StoreResults :
    At probe (.st hp .b128 ⟨.rel, .sys, false, false⟩ 4 4080 20)
      (fun c s => decide (s.check c.g.asid 4080 .write (accessType 16) = .ok 0x20FF0 .normal 0x2001F)) ∧
    At probe (.st hp .b32 mPlain 10 0 20) (fun c s => decide (s.check c.g.asid 0x3000 .write (accessType 4) = .ok 0x3000 .io 0x315F)) ∧
    At probe (.sts hp .b8 mPlain 0 4095 20) (fun c _ => decide (4095 + 1 ≤ c.g.scratchLen)) ∧
    At probe (.str hp .b64 mPlain 0 4088 20)
      (fun c s => decide (0 < c.g.csize) && (s.groups[c.g.rank 0]?).any fun p => decide (4088 + 8 ≤ p.scratchLen)) :=
  ⟨at_of (by decide), at_of (by decide), at_of (by decide), at_of (by decide)⟩
theorem witness_StoreFrame :
    probe.quietMem ∧ At probe (.st hp .b64 mPlain 4 8 20) (fun c s => decide (c.t.windows = [] ∧
      s.check c.g.asid 8 .write (accessType 8) = .ok 0x20008 .normal 0x2001F)) :=
  ⟨⟨rfl, rfl, rfl, rfl, rfl⟩, at_of (by decide)⟩
theorem witness_AtomicResults :
    At probe (.atom h96 .cas ⟨.ar, .dev, true, false⟩ 20 4 8 22 24)
      (fun c s => decide (s.check c.g.asid 8 .both (atomType true .cas) = .ok 0x20008 .normal 0x2001F)) ∧
    At probe (.red h96 .fadd ⟨.rlx, .dev, false, false⟩ 4 4 22)
      (fun c s => decide (s.check c.g.asid 4 .both (atomType false .fadd) = .ok 0x20004 .normal 0x2001F)) :=
  ⟨at_of (by decide), at_of (by decide)⟩
theorem witness_AccessFaults :
    At probe (.ld hp .b32 mPlain 20 2 0) (fun c _ => decide ((c.t.dpair 2).toNat % 4 ≠ 0)) ∧
    At probe (.st hp .b32 mPlain 12 0 20) (fun c s => decide (s.check c.g.asid 0x4000 .write (accessType 4) = .perm)) ∧
    At probe (.ld hp .b32 mPlain 20 6 0) (fun c s => decide (s.check c.g.asid 0x1000 .read (accessType 4) = .memtype)) ∧
    At probe (.ld hp .b32 mPlain 20 14 0) (fun c s => decide (s.check c.g.asid 0x5000 .read (accessType 4) = .absent)) ∧
    At probe (.lds hp .b16 mPlain 20 2 0) (fun c _ => decide ((c.t.dreg 2).toNat % 2 ≠ 0)) ∧
    At probe (.sts hp .b32 mPlain 0 4096 20) (fun c _ => decide (c.g.scratchLen < 4096 + 4)) ∧
    At (withD [(20, 0x200000)]) (.ldr hp .b32 mPlain 22 20 0) (fun c _ => decide (2 ^ 21 ≤ (c.t.dreg 20).toNat)) ∧
    At (withD [(20, 0x80000)]) (.str hp .b32 mPlain 20 0 22) (fun c _ => decide (c.g.csize ≤ (c.t.dreg 20).toNat / 2 ^ 19 % 4)) :=
  ⟨at_of (by decide), at_of (by decide), at_of (by decide), at_of (by decide), at_of (by decide), at_of (by decide),
    at_of (by decide), at_of (by decide)⟩
theorem witness_FencesAndHints :
    (∀ i ∈ ([.fence hp .ar .sys, .fence hp .rel .grp, .cctlRange hp 6 3, .cctlAll hp, .pref hp 14 64, .fenceF hp] : List Instr),
      ∃ g t, Runs probe i g t) ∧
    At (tweakG fun g => { g with prologue := [0] }) (.ldp hp 8 2 2 12)
      (fun c s => decide (s.cur.shortw = none ∧ c.t.pc ∈ c.g.prologue)) ∧
    At probe (.ldp hp 8 2 2 12) (fun c _ => decide (c.t.pc ∉ c.g.prologue)) :=
  ⟨runs_all (by decide), at_of (by decide), at_of (by decide)⟩
theorem witness_SiblingOperations :
    At probe (.sld hp 8 20 6) (fun c s => decide (s.check c.g.asid 0x1000 .read (· == .sibling) = .ok 0x21000 .sibling 0x2109F)) ∧
    At probe (.sst hp 21 6 22 none) (fun c s => decide (s.check c.g.asid 0x1000 .both (· == .sibling) = .ok 0x21000 .sibling 0x2109F)) ∧
    At probe (.sstT hp 21 6 22 (some 24)) (fun _ s => decide ((s.cellAt 0x21000).stamp ≠ 0xFFFFFFFF ∧ (s.cellAt 0x21000).sibs.length = 1)) ∧
    At { probe with cells := [⟨0x21000, 0xFFFFFFFF, 0, [⟨5, 3, 0⟩]⟩] } (.sstT hp 21 6 22 none)
      (fun _ s => decide ((s.cellAt 0x21000).stamp = 0xFFFFFFFF)) ∧
    At probe (.recon hp .sum .f32 20 6) (fun _ s => decide ((s.cellAt 0x21000).stamp ≠ 0xFFFFFFFF)) ∧
    At { probe with cells := [⟨0x21000, 0xFFFFFFFF, 0, [⟨5, 3, 0⟩]⟩] } (.recon hp .min .i64 20 6)
      (fun _ s => decide ((s.cellAt 0x21000).stamp = 0xFFFFFFFF)) ∧
    At (withD [(24, sibCheck 0x21000)]) (.reconSet hp 21 6 22 24)
      (fun c s => decide (c.t.dreg 24 = sibCheck (s.cellAt 0x21000).pa ∧ c.t.dreg 25 = (s.cellAt 0x21000).stamp)) ∧
    At (withD [(24, sibCheck 0x21000 + 1)]) (.reconSet hp 21 6 22 24)
      (fun c s => decide (c.t.dreg 24 ≠ sibCheck (s.cellAt 0x21000).pa)) :=
  ⟨at_of (by decide), at_of (by decide), at_of (by decide), at_of (by decide), at_of (by decide), at_of (by decide),
    at_of (by decide), at_of (by decide)⟩
theorem witness_SiblingFull :
    At { probe with cells := [⟨0x21000, 5, 0, [⟨5, 3, 0⟩, ⟨6, 4, 0⟩]⟩] } (.sstT hp 21 6 22 none)
      (fun _ s => decide (2 ^ (bits 0x2109F 10 9 + 1) < (s.cellAt 0x21000).sibs.length + 1)) ∧ probe.quietMem :=
  ⟨at_of (by decide), rfl, rfl, rfl, rfl, rfl⟩
/-- The last stamp; no room; a token that supersedes, one below the floor, one of another cell. -/
theorem witness_SiblingStoreRules :
    (let x : SibCell := ⟨8, 5, 2, [⟨1, 1, 0⟩, ⟨2, 4, 0⟩]⟩
     x.stamp ≠ 0xFFFFFFFF ∧ x.sibs.Pairwise (fun a b => a.stamp < b.stamp) ∧ (∀ y ∈ x.sibs, y.stamp ≤ x.stamp) ∧
     2 < x.sibs.length + 1 ∧ (sibCheck x.pa ≠ sibCheck x.pa + 1) ∧ (4 : Word) ≤ x.stamp ∧ x.floor ≤ 4 ∧ (1 : Word) < x.floor) ∧
    (⟨8, 0xFFFFFFFF, 0, []⟩ : SibCell).stamp = 0xFFFFFFFF ∧
    (ReconOp.or = .and ∨ ReconOp.or = .or → ReconTy.n64 = .i64 ∨ ReconTy.n64 = .n64) ∧ [(⟨2, 4, 0⟩ : Sib)] ≠ [] := by decide
def rowFn (done : Option Dword) : RowFn := ⟨7, 7, 1, 0, false, [], 0, 0, none, [], [], 0, 0, false, done, 0⟩
def rowDesc (base len prog : Nat) : List Byte := leBytes 32 (base + len * 2 ^ 64 + prog * 2 ^ 128)
/-- A good descriptor of one row, with a program of REND alone, with an empty program, and a bad descriptor. -/
def rowState (desc prog : List Byte) : State := { probe with mem := cWrite (cWrite probe.mem 0x20000 desc) 0x20080 prog }
def foundB (c : Ctx) (s : State) (rq : Bool) : Bool :=
  let r := s.readFor c.g.core c.g.asid 0x20000 32
  let x := RowDesc.ofNat (leNat r.2)
  !badDesc rq (leNat r.2) && (match r.1.rangeRows c.g.asid x.base (x.len / 1024) with | .ok rows => rows == [0x90] | .error _ => false) &&
    decide (r.1.check c.g.asid x.prog .read isNormal = .ok 0x20080 .normal 0x2001F) && x.cword == 0
def validB (c : Ctx) (s : State) : Bool :=
  let r := ((s.readFor c.g.core c.g.asid 0x20000 32).1.readFor c.g.core c.g.asid 0x20080 128).2
  (rowValidate (imagePad r) 0 false (imageWords r)).isNone
theorem witness_RowRegistration :
    At (rowState (rowDesc 0x2000 1024 0x80) (leBytes 128 0xA8000000)) (.rowreq hp 20 4)
      (fun c s => foundB c s true && validB c s && !s.rowBusy true [0x90]) ∧
    At (rowState (rowDesc 0x2000 1024 0x80) []) (.rowreg hp 20 4) (fun c s => foundB c s false && !validB c s) ∧
    At { rowState (rowDesc 0x2000 1024 0x80) (leBytes 128 0xA8000000) with rowFns := (List.range 32).map fun k =>
        { rowFn none with handle := k, request := true, rows := [0x90] } } (.rowreq hp 20 4)
      (fun c s => foundB c s true && validB c s && s.rowBusy true [0x90]) ∧
    At (rowState (rowDesc 0x2000 2048 0x80) []) (.rowreq hp 20 4)
      (fun c s => badDesc true (leNat (s.readFor c.g.core c.g.asid 0x20000 32).2)) :=
  ⟨at_of (by decide +kernel), at_of (by decide +kernel), at_of (by decide +kernel), at_of (by decide +kernel)⟩
theorem witness_Validate : (List.replicate 15 0 ++ [0xA8000000]).length = 16 ∧ (∀ w ∈ List.replicate 15 0 ++ [0xA8000000], w < 2 ^ 32) ∧
    rowValidate false 0 false (List.replicate 15 0 ++ [0xA8000000]) = none ∧ rowValidate true 0 false (0xA8000000 :: List.replicate 15 0) = some (5, 16) ∧
    rowValidate false 0 false (0xA8000000 :: List.replicate 14 0 ++ [1]) = some (2, 15) := by decide
/-- A function to cancel with a bank still to accept it, and with none; its completion word in a row that awaits nothing. -/
theorem witness_Cancel : ∀ banks ∈ ([[], [3]] : List (List Nat)),
    let f : RowFn := { rowFn none with rows := [0x90], banks, cword := some 0x20000 }
    let s : State := { probe with rowFns := [f] }
    s.rowFns.filter (fun x => x.done.isNone && x.handle == f.handle) = [f] ∧ s.wordsQuiet := by
  intro banks hb f s
  refine ⟨by simp only [List.mem_cons, List.mem_nil_iff, or_false] at hb; obtain rfl | rfl := hb <;> decide, ?_⟩
  intro g hg pa hpa
  exact ⟨List.not_mem_nil, List.not_mem_nil, fun a ha => absurd ha List.not_mem_nil⟩
theorem witness_RowJoins :
    At probe (.rowwait hp 20 2) (fun c s => s.rowFns.all fun f => f.name != c.t.dreg 2) ∧
    At { withD [(2, 7)] with rowFns := [rowFn (some 5)] } (.rowwait hp 20 2)
      (fun c s => s.rowFns.any fun f => f.name == c.t.dreg 2 && f.done.isSome) ∧
    At { withD [(2, 7)] with rowFns := [rowFn none] } (.rowwait hLook 20 2)
      (fun c s => s.rowFns.any fun f => f.name == c.t.dreg 2 && f.done.isNone) ∧
    At { withD [(2, 7)] with rowFns := [rowFn none] } (.rowcancel hp 20 2)
      (fun c s => s.rowFns.any fun f => f.name == c.t.dreg 2 && f.done.isNone) ∧
    At probe (.rowqry hp 20 8) (fun c s => decide (s.check c.g.asid 0x2000 .read (· == .row) = .ok 0x24000 .row 0x2405F)) :=
  ⟨at_of (by decide), at_of (by decide), at_of (by decide), at_of (by decide), at_of (by decide)⟩
theorem witness_CopyIssue :
    (∀ i ∈ ([.cpy h96 none false 0 0 4 24 0, .cpy h96 none false 1 0 4 24 0, .cpyo h96 (some .b16) true 0 4 24 4, .cpyhTo h96 none false 0 4 24 4,
      .cpyhFrom h96 none false 0 4 24 4, .cpyx h96 1 0 4 24 0] : List Instr),
      At probe i fun c s => decide ((c.t.dreg 0).toNat % 64 = 0 ∧ s.check c.g.asid 0 .read isNormal = .ok 0x20000 .normal 0x2001F ∧
        s.check c.g.asid 0 .write isNormal = .ok 0x20000 .normal 0x2001F ∧ c.g.cluster.length = 1 ∧ 64 ≤ c.g.scratchLen)) ∧
    At probe (.cpy h96 none false 0 2 4 24 0) (fun c _ => decide ((c.t.dreg 2).toNat % 64 ≠ 0)) ∧
    At probe (.cpy h96 none false 2 0 4 24 0) (fun c _ => decide (2 ^ c.g.cluster.length ≤ (2 : BitVec 4).toNat)) := by
  refine ⟨?_, at_of (by decide), at_of (by decide)⟩
  intro i hi
  simp only [List.mem_cons, List.mem_nil_iff, or_false] at hi
  obtain rfl | rfl | rfl | rfl | rfl | rfl := hi <;> exact at_of (by decide)
theorem witness_Records : (leBytes 64 0).length = 64 ∧ (Layout.ofBytes (leBytes 64 (16 * 2 ^ (8 * 16) + 16 * 2 ^ (8 * 48) + 2 ^ (8 * 32) + 16 * 2 ^ (8 * 58)))).fmt < 16 ∧
    (Layout.ofBytes (leBytes 64 (16 * 2 ^ (8 * 16) + 16 * 2 ^ (8 * 48) + 2 ^ (8 * 32) + 16 * 2 ^ (8 * 58)))).malformed = false ∧
    (Layout.ofBytes (leBytes 64 0)).malformed = true := by decide +kernel
/-- A complete barrier word and one that is not, in the group's own scratchpad and through a remote address. -/
theorem witness_ArrivalBarriers :
    (∀ i ∈ ([.arvInit hp false 0 (.d 2), .arvAdd hp true 0 (.imm 64), .arvWait hp true 20 0, .arvTest hp false 7 0] : List Instr),
      At probe i fun c s => decide ((c.t.dreg 0).toNat % 8 = 0 ∧ 8 ≤ c.g.scratchLen ∧ 0 < c.g.cluster.length) &&
        (s.groups[c.g.rank 0]?).any fun g => arvComplete (BitVec.ofNat 64 (leNat (cRead g.scratch 0 8)))) ∧
    (∀ i ∈ ([.arvWait hp false 20 0, .arvTest hp true 7 0] : List Instr),
      At (tweakG fun g => { g with scratch := cWrite [] 0 (leBytes 8 1) }) i
        fun c _ => !arvComplete (BitVec.ofNat 64 (leNat (cRead c.g.scratch 0 8)))) := by
  constructor <;> intro i hi <;> simp only [List.mem_cons, List.mem_nil_iff, or_false] at hi
  · obtain rfl | rfl | rfl | rfl := hi <;> exact at_of (by decide)
  · obtain rfl | rfl := hi <;> exact at_of (by decide)
/-- Operands that pass the checks of each tile instruction and reduction, and MMA's two ACC_OWNER cases. -/
theorem witness_TileSignatures :
    At (withD [(25, 64)]) (.mma hp .b16 24 0 0) (fun c _ => decide ((c.t.dreg 25).toNat % 2 ^ 20 % 64 = 0 ∧ 64 ≤ (c.t.dreg 25).toNat ∧
      63 * 64 + 64 ≤ c.g.scratchLen ∧ 64 ≤ c.g.accRows ∧ 0 < c.g.accRows / 16)) ∧
    At (withD [(25, 64), (27, 1)]) (.mma hp .b16 24 0 0) (fun c _ => decide (c.g.accRows < 64 * ((c.t.dreg 27).toNat % 8) + 64)) ∧
    At (withD [(25, 64), (27, 0x400)]) (.mma hp .b16 24 0 0) (fun c _ => decide (c.g.accRows / 16 ≤ (c.t.dreg 27).toNat / 2 ^ 8 % 32)) ∧
    (∀ i ∈ ([.mmz hp 0 0 0, .wbld h96 0 4 24 0 0, .wbldSparse h96 0 4 24 0 0, .wbrel hp 0 0] : List Instr),
      At probe i fun c s => decide (8 ≤ c.g.scratchLen ∧ 1 ≤ c.g.accRows ∧ s.check c.g.asid 0 .read isNormal = .ok 0x20000 .normal 0x2001F)) ∧
    (∀ i ∈ ([.accld hp .f32 24 0 0, .accst hp .e4m3 24 0 0] : List Instr), At (withD [(25, 512)]) i
      fun c _ => decide (128 * 4 ≤ (c.t.dreg 25).toNat ∧ 128 * 4 ≤ c.g.scratchLen ∧ 1 ≤ c.g.accRows)) ∧
    (∀ i ∈ ([.credSmx h96 0 0 0 24 0, .credSum h96 0 0 0 24 0, .credMax h96 0 0 0 24 0] : List Instr), At (withD [(24, 0x110000)]) i
      fun c _ => decide (c.g.cid = 0 ∧ (c.t.dreg 24).toNat / 2 ^ 16 % 16 = 1 ∧ (c.t.dreg 24).toNat / 2 ^ 20 % 16 = 1 ∧ c.g.cluster.length = 1)) := by
  refine ⟨at_of (by decide +kernel), at_of (by decide +kernel), at_of (by decide +kernel), ?_, ?_, ?_⟩ <;> intro i hi <;>
    simp only [List.mem_cons, List.mem_nil_iff, or_false] at hi
  · obtain rfl | rfl | rfl | rfl := hi <;> exact at_of (by decide +kernel)
  · obtain rfl | rfl := hi <;> exact at_of (by decide +kernel)
  · obtain rfl | rfl | rfl := hi <;> exact at_of (by decide +kernel)
/-- Rows or a slot that are not the group's. -/
theorem witness_AccOwner :
    At (withD [(16, 0x1FF)]) (.mmz hp 16 0 0) (fun c _ => decide (c.g.accRows < (c.t.dreg 16).toNat % 2 ^ 9 + 1)) ∧
    (∀ i ∈ ([.wbld h96 18 4 24 0 0, .wbldSparse h96 18 4 24 0 0] : List Instr), At (withD [(18, 9)]) i fun c s =>
      decide (c.g.accRows / 16 ≤ (c.t.dreg 18).toNat % 32 ∧ s.check c.g.asid 0 .read isNormal = .ok 0x20000 .normal 0x2001F)) ∧
    (∀ i ∈ ([.accld hp .f32 24 0 0, .accst hp .e4m3 24 0 0] : List Instr), At (withD [(25, 512), (26, 64)]) i
      fun c _ => decide (128 * 4 ≤ (c.t.dreg 25).toNat ∧ c.g.accRows < (c.t.dreg 26).toNat % 2 ^ 9 + ((c.t.dreg 26).toNat / 2 ^ 16 % 2 ^ 9 + 1))) := by
  refine ⟨at_of (by decide +kernel), ?_, ?_⟩ <;> intro i hi <;> simp only [List.mem_cons, List.mem_nil_iff, or_false] at hi <;>
    obtain rfl | rfl := hi <;> exact at_of (by decide +kernel)
/-- The last thread to sign each tile instruction and reduction, with operands that pass its checks. -/
theorem witness_TileFinishes :
    At (withD [(25, 64)]) (.mma hp .b16 24 0 0) (fun c _ => lastB c (.mma hp .b16 24 0 0) 0 && decide (63 * 64 + 64 ≤ c.g.scratchLen ∧
      64 ≤ c.g.accRows ∧ 0 < c.g.accRows / 16)) ∧
    (∀ i ∈ ([.mmz hp 0 0 0, .wbld h96 0 4 24 0 0, .wbldSparse h96 0 4 24 0 0, .wbrel hp 0 0] : List Instr), At probe i fun c s =>
      lastB c i 0 && decide (8 ≤ c.g.scratchLen ∧ 16 ≤ c.g.accRows ∧ s.check c.g.asid 0 .read isNormal = .ok 0x20000 .normal 0x2001F)) ∧
    (∀ i ∈ ([.accld hp .f32 24 0 0, .accst hp .e4m3 24 0 0] : List Instr), At (withD [(25, 512)]) i fun c _ =>
      lastB c i 0 && decide (128 * 4 ≤ (c.t.dreg 25).toNat ∧ 128 * 4 ≤ c.g.scratchLen ∧ 1 ≤ c.g.accRows)) ∧
    (∀ i ∈ ([.credSmx h96 0 0 0 24 0, .credSum h96 0 0 0 24 0, .credMax h96 0 0 0 24 0] : List Instr), At (withD [(24, 0x110000)]) i fun c _ =>
      lastB c i 0 && decide (c.g.cid = 0 ∧ (c.t.dreg 24).toNat / 2 ^ 16 % 16 = 1 ∧ (c.t.dreg 24).toNat / 2 ^ 20 % 16 = 1 ∧
        c.g.cluster.length = 1 ∧ 12 ≤ c.g.scratchLen)) := by
  refine ⟨at_of (by decide +kernel), ?_, ?_, ?_⟩ <;> intro i hi <;> simp only [List.mem_cons, List.mem_nil_iff, or_false] at hi
  · obtain rfl | rfl | rfl | rfl := hi <;> exact at_of (by decide +kernel)
  · obtain rfl | rfl := hi <;> exact at_of (by decide +kernel)
  · obtain rfl | rfl | rfl := hi <;> exact at_of (by decide +kernel)
def withGram (l : List GramOp) : State := tweakG fun g => { g with gram := l }
theorem witness_GrammarSignatures :
    (∀ i ∈ ([.gseg hp 20 0 0, .gvec hp 20 24 0, .grun hp 20 0, .gout hp 20 0] : List Instr),
      At probe i fun c _ => decide ((c.t.dpair 0).toNat = 0x100000000 ∨ (c.t.dreg 24).toNat % 4 = 0)) ∧
    At probe (.gwait hp 20) (fun c _ => c.g.gram.isEmpty) ∧
    At (withGram [⟨1, 0, some .ok⟩, ⟨2, 1, some (.err 3)⟩, ⟨3, 0, none⟩]) (.gwait hp 20)
      (fun c _ => decide (c.g.gram = [⟨1, 0, some .ok⟩] ++ ⟨2, 1, some (.err 3)⟩ :: [⟨3, 0, none⟩])) ∧
    At (withGram [⟨1, 1, some .ok⟩]) (.gwait hp 20) (fun c _ => decide (c.g.gram = [] ++ ⟨1, 1, some .ok⟩ :: [])) ∧
    At (withGram [⟨1, 1, some (.stream .ruleDepth 4 2)⟩]) (.gwait hp 20) (fun c _ => c.g.gram.all fun o => o.res.isSome) ∧
    At (withGram [⟨1, 1, none⟩]) (.gwait hp 20) (fun c _ => c.g.gram.any fun o => o.res.isNone) := by
  refine ⟨?_, at_of (by decide +kernel), at_of (by decide +kernel), at_of (by decide +kernel), at_of (by decide +kernel), at_of (by decide +kernel)⟩
  intro i hi
  simp only [List.mem_cons, List.mem_nil_iff, or_false] at hi
  obtain rfl | rfl | rfl | rfl := hi <;> exact at_of (by decide +kernel)
def dictState (bs : List Byte) : State :=
  { withD [(20, 0x6000)] with
    tlb := [page 0x6000 0x30000 0x1F, page 0x7000 0x31000 0x1F], mem := cWrite [] 0x30020 bs }
/-- An image whose entry 1 is the NOP with hole 0 at its guard; entry 2 is not defined. -/
def selected : State :=
  let s := tweakG fun g => { g with sel := some 1 }
  let image := cWrite [] 32 (leBytes 32 (0x66701 + 2 ^ 159))
  { s with cores := s.cores.modify 0 fun c => { c with dicts := c.dicts.set 1 (some ⟨1, 0x6000, image, 0⟩) } }
/-- Two NORMAL pages for an image; images without entries and with an entry that has no template; with and without a selection. -/
theorem witness_DictionaryInstructions :
    At (dictState []) (.dictLoad hp 22 20) (fun c s => decide (s.check c.g.asid 0x6000 .read isNormal = .ok 0x30000 .normal 0x3001F ∧
      s.check c.g.asid 0x7000 .read isNormal = .ok 0x31000 .normal 0x3101F) &&
      (s.dictSlot c.g.core c.g.asid 0x6000 (some 0) c.g.sel false).isSome) ∧
    (let s : State := { probe with groups := probe.groups ++ (List.range 8).flatMap fun k => probe.groups.map fun g => { g with sel := some k } }
     s.dictSlot 0 1 0x6000 (some 0) none false = none) ∧ (List.replicate 8192 (0 : Byte)).length = 8192 ∧
    (imageFault []).isNone = true ∧ (imageFault (cWrite [] 32 (leBytes 32 (2 ^ 159)))).isSome = true ∧
    At probe (.dictRead hp 20 (.d 2)) (fun c _ => c.g.sel.isNone) ∧
    At selected (.dictRead hp 20 (.d 2))
      (fun c s => decide (c.g.sel = some 1) && (((s.core c.g.core).dicts[1]?).getD none).any fun x => decide (x.undef = 0)) :=
  ⟨at_of (by decide), by decide +kernel, List.length_replicate, by decide +kernel, by decide +kernel, at_of (by decide), at_of (by decide)⟩
/-- Pages of an image: the second absent, without permission to read, of another type; the first of another type. -/
def twoPages (l : List Tlb) : State := { withD [(20, 0x6000)] with tlb := l }
theorem witness_ImagePages :
    At (twoPages [page 0x6000 0x30000 0x1F]) (.dictLoad hp 22 20) (fun c s => decide ((s.check c.g.asid 0x6000 .read fun _ => true) = .ok 0x30000 .normal 0x3001F ∧
      (s.check c.g.asid 0x7000 .read fun _ => true) = .absent)) ∧
    At (twoPages [page 0x6000 0x30000 0x1F, page 0x7000 0x31000 0x03]) (.dictLoad hp 22 20)
      (fun c s => decide ((s.check c.g.asid 0x7000 .read fun _ => true) = .perm)) ∧
    At (twoPages [page 0x6000 0x30000 (0x1F + 64), page 0x7000 0x31000 0x1F]) (.dictLoad hp 22 20)
      (fun c s => decide ((s.check c.g.asid 0x6000 .read fun _ => true) = .ok 0x30000 .row 0x3005F ∧
        (s.check c.g.asid 0x7000 .read fun _ => true) = .ok 0x31000 .normal 0x3101F)) :=
  ⟨at_of (by decide), at_of (by decide), at_of (by decide)⟩
theorem witness_Shorts :
    (selected.groups[0]?.any fun g => decide (selected.expand g true 1 [0, 0, 0] = some 0x66705)) = true ∧
    reads 0x66705 (.nop hEnd) = true ∧ isEvent (.nop hEnd) = false ∧
    (selected.groups[0]?.any fun g => decide (selected.expand g true 2 [0, 0, 0] = none)) = true ∧
    (selected.groups[0]?.any fun g => decide (g.sel = some 1)) = true ∧ (imageEntry (cWrite [] 32 (leBytes 32 (0x66701 + 2 ^ 159))) 1).valid = true ∧
    (probe.thr ⟨0, 0⟩).any (fun t => t.live && t.windows.isEmpty) = true ∧ probe.cur.shortw = none := by decide +kernel
/-- A selected image whose entry 1 is an IADD: its short expands to it and the thread runs it. -/
def selectedAdd : State :=
  let s := tweakG fun g => { g with sel := some 1 }
  { s with
    cur := ⟨⟨0, 0⟩, some (shortBits true 1 0 0 0)⟩
    cores := s.cores.modify 0 fun c => { c with dicts := c.dicts.set 1 (some ⟨1, 0x6000, cWrite [] 32 (leBytes 32 (0x20103000701 + 2 ^ 159)), 0⟩) } }
theorem witness_ShortRuns :
    (selectedAdd.groups[0]?.any fun g => decide (selectedAdd.expand g true 1 [0, 0, 0] = some 0x20103000705)) = true ∧
    reads 0x20103000705 (.iadd hEnd 3 (.d 1) (.d 2)) = true ∧ (regDests (.iadd hEnd 3 (.d 1) (.d 2))).isSome = true ∧
    (∃ g t, Runs selectedAdd (.iadd hEnd 3 (.d 1) (.d 2)) g t) := ⟨by decide +kernel, by decide, by decide, runs_of (by decide)⟩
def launchBytes : List Byte := leBytes 128 (2 ^ (8 * 40) + 2 ^ (8 * 68))
theorem witness_LaunchInstructions :
    At (withMem launchBytes) (.launch hp 20 4) (fun c s =>
      let r := s.readFor c.g.core c.g.asid 0x20000 128
      decide (s.check c.g.asid 0 .read isNormal = .ok 0x20000 .normal 0x2001F) && (r.1.recordReason c.g.asid (LaunchRec.ofBytes r.2) false).isNone &&
        ((r.1.job c.g.asid).any fun j => decide (j.nextId ≤ 2 ^ 32)) && !r.1.tapePhase c.g) ∧
    At probe (.launch hp 20 4) (fun c s =>
      let r := s.readFor c.g.core c.g.asid 0x20000 128
      (r.1.recordReason c.g.asid (LaunchRec.ofBytes r.2) false).isSome) ∧
    At { withMem launchBytes with
        jobs := [{ fetchJob with desc := { fetchJob.desc with tapecap := 4 } }]
        insts := [⟨1, 1, true, 3, false, false, true, false, none, false, none⟩]
        launches := probe.launches.map fun l => { l with phase := some 1 } } (.tapePush hp 20 4)
      (fun c s => s.tapePhase c.g && ((s.job c.g.asid).any fun j => j.tapeN < j.desc.tapecap)) ∧
    At (withMem launchBytes) (.tapePush hp 20 4) (fun c s => !s.tapePhase c.g) ∧
    At (withD [(2, 9)]) (.cancel hp .launch 20 (.d 2)) (fun c s => (s.named c.g.asid .launch (c.w (.d 2)).toNat).isNone) ∧
    At { probe with launches := probe.launches.map fun l => { l with status := some .done } } (.cancel hp .launch 20 (.d 2))
      (fun c s => (s.named c.g.asid .launch 1).any fun x => (s.statusOf c.g.asid x).isSome) ∧
    At probe (.cancel hp .job 20 (.d 2)) (fun c s => decide (s.named c.g.asid .job 1 = some .job)) :=
  ⟨at_of (by decide +kernel), at_of (by decide +kernel), at_of (by decide +kernel), at_of (by decide +kernel), at_of (by decide +kernel), at_of (by decide +kernel),
    at_of (by decide +kernel)⟩
theorem witness_Refused : launchBytes.length = 128 := by decide +kernel
/-- Identifiers used up, for LAUNCH. -/
theorem witness_LaunchBusy :
    At { withMem launchBytes with jobs := [{ fetchJob with nextId := 2 ^ 32 + 1 }] } (.launch hp 20 4) (fun c s =>
      let r := s.readFor c.g.core c.g.asid 0x20000 128
      (r.1.recordReason c.g.asid (LaunchRec.ofBytes r.2) false).isNone &&
        decide (2 ^ 32 < ((r.1.job c.g.asid).map Job.nextId).getD 1)) ∧
    At (withMem launchBytes) (.launch hp 20 4) (fun c s =>
      let r := s.readFor c.g.core c.g.asid 0x20000 128
      decide (((r.1.job c.g.asid).map Job.nextId).getD 1 ≤ 2 ^ 32)) ∧
    At { withMem launchBytes with
        jobs := [{ fetchJob with tapeN := 4, desc := { fetchJob.desc with tapecap := 4 } }]
        insts := [⟨1, 1, true, 3, false, false, true, false, none, false, none⟩]
        launches := probe.launches.map fun l => { l with phase := some 1 } } (.tapePush hp 20 4)
      (fun c s => s.tapePhase c.g && ((s.job c.g.asid).any fun j => decide (j.desc.tapecap ≤ j.tapeN))) :=
  ⟨at_of (by decide +kernel), at_of (by decide +kernel), at_of (by decide +kernel)⟩
def twoLaunches (st : Option CStat) : State :=
  { withD [(18, 2)] with launches := probe.launches ++ [⟨1, 2, probeRec, .instr, none, none, none, 1, 1, false, false, [], false, st⟩] }
theorem witness_CounterWaits :
    At (withD [(2, 9)]) (.cntWait hp .launch false 20 (.d 2)) (fun c s => c.t.held.isNone && (s.named c.g.asid .launch (c.w (.d 2)).toNat).isNone) ∧
    At probe (.cntWait hp .launch false 20 (.d 2)) (fun c s => (s.named c.g.asid .launch 1).any fun x => s.contains c.g x) ∧
    At (twoLaunches (some .faulted)) (.cntWait hp .launch false 20 (.d 18)) (fun c s =>
      (s.named c.g.asid .launch 2).any fun x => !s.contains c.g x && decide (s.statusOf c.g.asid x = some .faulted)) ∧
    At (twoLaunches none) (.cntWait hp .launch true 20 (.d 18)) (fun c s =>
      (s.named c.g.asid .launch 2).any fun x => !s.contains c.g x && (s.statusOf c.g.asid x).isNone) ∧
    At (twoLaunches none) (.cntWait hp .launch false 20 (.d 18)) (fun c s =>
      (s.named c.g.asid .launch 2).any fun x => !s.contains c.g x && (s.statusOf c.g.asid x).isNone) :=
  ⟨at_of (by decide), at_of (by decide), at_of (by decide), at_of (by decide), at_of (by decide)⟩
/-- Two instances of one graph: the second is named; none of a phase. -/
theorem witness_Named :
    let k (n : Nat) : Inst := ⟨n, 1, false, 3, true, false, false, false, none, false, none⟩
    let s : State := { probe with insts := [k 1] ++ k 2 :: [] }
    s.named 1 .graph 3 = some (.inst 2) ∧ (∀ x ∈ s.insts, ¬ (x.asid = 1 ∧ x.isPhase = true ∧ x.ident = 3)) := by decide
/-- TRAP and ASSERT run; a trap can be taken in a job without a handler, with one, and in a handler group. -/
theorem witness_TrapEntry :
    (∀ i ∈ ([.trap hp 0xBEEF, .assert hp 6 7] : List Instr), ∃ g t, Runs probe i g t) ∧
    ((probe.thr ⟨0, 0⟩).any (fun t => !t.pending && !t.guardOpen hp && t.guardHolds hp) && !probe.unitAbsent 0x1C) = true ∧
    (probe.job 1).any (fun j => j.handler.isNone) = true ∧
    (({ probe with jobs := [{ fetchJob with handler := some fetchRec }] } : State).job 1).any (fun j => j.handler.isSome) = true ∧
    (handling.groups[0]?).any (fun g => g.handler.isSome) = true :=
  ⟨runs_all (by decide), by decide, by decide, by decide, by decide⟩
theorem witness_HandlerInstructions :
    (∀ i ∈ ([.resumeRetry hp, .resumeSkip hp, .kill hp] : List Instr), At handling i fun c s =>
      decide (c.g.handler = some 1) && (s.traps.find? fun t => t.id == 1).any fun x => !x.ended) ∧
    (∀ i ∈ ([.resumeRetry hp, .resumeSkip hp, .kill hp] : List Instr), At probe i fun c _ => c.g.handler.isNone) ∧
    (handling.traps.all fun x => x.tr.insnValid && !x.tr.short && decide (x.thread = some ⟨1, 0⟩)) = true ∧
    (handling.groups[1]?.any fun g => g.status == .running) = true := by
  refine ⟨?_, ?_, by decide, by decide⟩ <;> intro i hi <;> simp only [List.mem_cons, List.mem_nil_iff, or_false] at hi <;>
    obtain rfl | rfl | rfl := hi <;> exact at_of (by decide)
def heldB (c : Ctx) (s : State) : Bool :=
  decide (c.g.handler = some 1) && (s.traps.find? fun t => t.id == 1).any fun x => decide (x.thread = some ⟨1, 0⟩) && !x.ended &&
    (s.thr ⟨1, 0⟩).any fun t => t.d.length == 32
theorem witness_SystemRegisters :
    At (withD [(20, 0x200)]) (.srd hp 22 (.d 20)) (fun c _ => decide ((c.t.dreg 20).toNat = 0x200)) ∧
    At (withD [(20, 0x215)]) (.srd hp 22 (.d 20)) (fun c _ => decide ((c.t.dreg 20).toNat = 0x215)) ∧
    At (withD [(20, 0x204)]) (.srd hp 22 (.d 20)) (fun c _ => c.g.handler.isNone && decide ((c.t.dreg 20).toNat = 0x204)) ∧
    At handling (.srd hp 22 (.imm 31)) (fun c s => heldB c s) ∧ At handling (.srd hp 22 (.imm 32)) (fun c s => heldB c s) ∧
    At handling (.srd h96 22 (.imm 0x105)) (fun c s => heldB c s) ∧ At handling (.swr hp (.imm 31) 20) (fun c s => heldB c s) ∧
    At handling (.swr h96 (.imm 0x102) 20) (fun c s => heldB c s) ∧ At handling (.swr h96 (.imm 0x103) 20) (fun c s => heldB c s) ∧
    At probe (.swr hp (.imm 31) 20) (fun c _ => c.g.handler.isNone) :=
  ⟨at_of (by decide), at_of (by decide), at_of (by decide), at_of (by decide), at_of (by decide), at_of (by decide),
    at_of (by decide), at_of (by decide), at_of (by decide), at_of (by decide)⟩
theorem witness_TranslationDrops : ∀ i ∈ ([.tlbinvAll hp, .tlbinvPage hp 4] : List Instr), ∃ g t, Runs probe i g t :=
  runs_all (by decide)
/-- The small machine with its group waiting to be picked; a group with its quantum used up; a pre-empted job past both of its
deadlines; a group that is to leave its core, and one that is to come back. -/
def swapJob (f : Job → Job) : State := { probe with jobs := [f { fetchJob with desc := { fetchJob.desc with swaplen := 2 ^ 20 } }] }
def swappedState : State :=
  { swapJob (fun j => j) with groups := probe.groups.map fun g => { g with status := .swapped } }
/-- The small machine with its group waiting to be picked; a group with its quantum used up on the partition of its one thread; a
pre-empted job at each of its deadlines. -/
theorem witness_CoreSteps :
    probe.frozen = false ∧ probe.coreOn 0 = true ∧ ((probe.core 0).partCtxs 0).findIdx? (· == none) = some 0 ∧
    probe.swapsFirst 0 = false ∧ (probe.chooseKernel 0 0).isSome = true ∧ 0 < probe.cores.length ∧ (⟨0, 0⟩ : ThreadRef) ∈ probe.readyThreads 0 0 1 1 ∧
    ((tweakG fun g => { g with quant := 3, quanta := [3, 0, 0, 0, 0, 0, 0, 0] }).groups[0]?.any fun g =>
      g.status == .running && g.handler.isNone && (List.range 8).all fun p =>
        ((List.range g.threads.length).all fun t => t / 32 % 8 != p || !g.live t) || decide (g.quant ≤ g.quanta.getD p 0)) = true ∧
    ((swapJob fun j => { j with pre := some 0 }).job 1).any (fun j => decide (0 + max j.desc.dl1 j.desc.dl2 ≤ probe.hubClock)) = true := by
  refine ⟨?_, ?_, ?_, ?_, ?_, ?_, ?_, ?_, ?_⟩ <;> decide +kernel
/-- A cluster of two groups that is to leave its core, and one that is to come back, with and without a dictionary to read again. -/
def pair : State :=
  let s := swapJob fun j => { j with stage2 := true }
  { s with groups := (s.groups.map fun g => { g with cluster := [0, 1] }) ++ s.groups.map fun g => { g with cluster := [0, 1], cid := 1, core := 1 } }
def swappedPair (dict : Option Dword) : State :=
  let s := swapJob fun j => j
  let out (g : Group) : Group := { g with cluster := [0, 1], status := .swapped, selAddr := dict }
  { s with
    tlb := s.tlb ++ [page 0x6000 0x30000 0x1F, page 0x7000 0x31000 0x1F]
    groups := (s.groups.map out) ++ s.groups.map fun g => { out g with cid := 1 } }
theorem witness_Swap :
    (pair.groups[0]?.any fun g => g.resident && pair.due g && decide (g.cluster.Nodup) &&
      g.cluster.all fun k => (pair.groups[k]?).any fun x => x.status != .done && pair.quiet k x) = true ∧
    pair.quietMem ∧ (pair.job 1).isSome = true ∧
    (let s := swappedPair none
     (s.groups[0]?).any fun g => (s.job g.asid).any Job.active && s.swapTurn g && !s.swapParked [0, 1] &&
       !s.quotaHeld g.asid g.launch ([0, 1].filterMap fun k => (s.groups[k]?).map Group.gid) &&
       clusterPlaces 2 [⟨4, 64⟩, ⟨5, 64⟩] && s.placeOk g.asid g.take none false ⟨4, 64⟩ && s.placeOk g.asid g.take none false ⟨5, 64⟩ &&
       g.gswap.isEmpty && decide (g.seg = none) && s.parked.isEmpty) = true ∧
    (let s := swappedPair (some 0x6000)
     (s.groups[0]?).any fun g => decide (g.selAddr = some (0x6000 : Dword)) && g.startAt.isNone &&
       s.placeOk g.asid g.take g.selAddr false ⟨5, 64⟩ && (s.dictSlot 5 g.asid 0x6000 none none false).isSome) = true ∧
    (match State.rereadImages [0] { swappedPair (some 0x9000) with parked := [] } with | (_, none) => true | _ => false) = true := by
  refine ⟨by decide +kernel, ⟨rfl, rfl, rfl, rfl, rfl⟩, by decide +kernel, by decide +kernel, by decide +kernel, by decide +kernel⟩
/-- Addresses that all pass give a read. -/
theorem mapM_reads {f : Nat → Except EngFail Loc} : ∀ vas : List Nat, (∀ va ∈ vas, ∃ l, f va = .ok l) → ∃ ls, vas.mapM f = .ok ls
  | [], _ => ⟨[], rfl⟩
  | va :: vas, h => by
    obtain ⟨l, hl⟩ := h va (by simp)
    obtain ⟨ls, hls⟩ := mapM_reads vas fun v hv => h v (by simp [hv])
    exact ⟨l :: ls, by simp [hl, hls, bind, Except.bind, pure, Except.pure]⟩
theorem engRead_reads {s : State} (q : s.quietMem) {die : Option Nat} {asid : Nat} {acc : MType → Bool} {vas : List Nat}
    (h : ∀ va ∈ vas, ∃ l, s.engLoc asid .read acc va = .ok l) : ∃ u bs, s.engRead die asid acc vas = (u, .ok bs) := by
  obtain ⟨ls, h⟩ := mapM_reads vas h
  obtain ⟨cs, hr⟩ := quiet_engReach q die asid false ls
  have hp : State.engPoison { s with counters := cs } ls = false :=
    List.any_eq_false.mpr fun l _ => by cases l <;> simp [q.2.2.1]
  exact ⟨{ s with counters := cs }, ls.map (State.locByte { s with counters := cs }),
    by simp only [State.engRead, h, hr, hp, Bool.false_eq_true, if_false]⟩
theorem test_imagePages : ∀ i, i < 64 → ∀ j, j < 128 →
    (match (swappedPair (some 0x6000)).engLoc 1 .read isNormal ((0x6000 + (128 * i + j)) % 2 ^ 64) with | .ok _ => true | _ => false) = true := by
  decide +kernel
theorem witness_reread : ∃ u bs, (swappedPair (some 0x6000)).engRead (some 0) 1 isNormal
    ((List.range 8160).map fun k => ((0x6000 : Dword).toNat + 32 + k) % 2 ^ 64) = (u, .ok bs) := by
  refine engRead_reads ⟨rfl, rfl, rfl, rfl, rfl⟩ fun va hva => ?_
  simp only [List.mem_map, List.mem_range] at hva
  obtain ⟨k, hk, rfl⟩ := hva
  have t := test_imagePages ((32 + k) / 128) (by omega) ((32 + k) % 128) (Nat.mod_lt _ (by decide))
  rw [Nat.div_add_mod] at t
  simp only [BitVec.reduceToNat, Nat.add_assoc]
  split at t
  · exact ⟨_, ‹_›⟩
  · cases t
/-- Threads that have waited for 64 runs and more, and one that has not. -/
theorem witness_gangs : (let s := tweak fun t => { t with age := 70 }
    (s.thr ⟨0, 0⟩).any fun t => decide (64 ≤ t.age)) = true ∧ (probe.thr ⟨0, 0⟩).any (fun t => decide (t.age < 64)) = true := by decide
def queued (q : HubQueue) (bs : List Byte) : State :=
  { withMem bs with queues := probe.queues.set 0 q, jobs := [{ fetchJob with desc := { fetchJob.desc with tape := 0x20000 } }] }
def readyLaunch : Launch := ⟨1, 2, probeRec, .instr, none, none, none, 0, 0, false, false, [], false, none⟩
def replaying : State :=
  { queued HubQueue.fresh launchBytes with
    jobs := [{ fetchJob with tapeN := 1, desc := { fetchJob.desc with tape := 0x20000 } }]
    insts := [⟨1, 1, true, 3, true, false, true, true, none, false, none⟩] }
theorem witness_LaunchSteps :
    (let s := queued ⟨0x20000, true, 1, 2, 1, 0, 0, []⟩ launchBytes
     (s.queues[0]?).any fun q => s.queueOpen q && decide (q.base.toNat + 128 * (q.rd.toNat % 2 ^ q.log2n) + 128 ≤ s.memSize) &&
       (s.recordReason 1 (LaunchRec.ofBytes (s.homeRead (some 1) 0x20000 128).2) false).isNone) = true ∧
    (let s := queued ⟨0x20000, true, 1, 2, 1, 0, 0, []⟩ []
     (s.recordReason 1 (LaunchRec.ofBytes (s.homeRead (some 1) 0x20000 128).2) false).isSome) = true ∧
    (let s : State := { probe with launches := [readyLaunch] }
     s.booted && s.startable readyLaunch && clusterPlaces 1 [⟨5, 64⟩] && s.placeOk 1 probeRec.take probeRec.dict? false ⟨5, 64⟩ &&
       !s.quotaHeld 1 2 [readyLaunch.nextGid] && !s.outranked readyLaunch) = true ∧
    (let l : Launch := { readyLaunch with nextGid := 1, doneGroups := 1 }
     let s : State := { probe with launches := [l] }
     s.launchOver l && l.lr.cap == 0 && !s.depFailed l && decide ({ l with origin := .queue 0 0 0x20000 }.origin ≠ l.origin)) = true ∧
    (replaying.insts.all fun i => i.isPhase && i.tapeMode && i.closed && i.status.isNone && !i.cancelled && i.lastPop.isNone && i.replay) = true ∧
    (replaying.recordReason 1 (LaunchRec.ofBytes (replaying.homeRead (some 1) 0x20000 128).2).popped false).isNone = true ∧
    (replaying.job 1).any (fun j => j.tapeN == 1 && j.stopping.isNone) = true := by
  refine ⟨?_, ?_, ?_, ?_, ?_, ?_, ?_⟩ <;> decide +kernel
/-- A job whose identifiers are used up, at an open queue and at a tape; a pop with room, of a record that is refused and of one
that is not. -/
def spent (s : State) : State := { s with jobs := s.jobs.map fun j => { j with nextId := 2 ^ 32 + 1 } }
theorem witness_Spent :
    (let s := spent (queued ⟨0x20000, true, 1, 2, 1, 0, 0, []⟩ launchBytes)
     (s.queues[0]?).any fun q => (s.job q.asid.toNat).any fun j => decide (2 ^ 32 < j.nextId)) = true ∧
    ((replaying.insts.find? fun (i : Inst) => i.serial == 1).any fun i => i.replay && i.status.isNone && !i.cancelled && i.lastPop.isNone &&
      (replaying.job i.asid).any fun j => j.stopping.isNone && decide (j.tapeN ≠ 0) && decide (j.nextId ≤ 2 ^ 32)) = true ∧
    ((spent replaying).job 1).any (fun j => decide (2 ^ 32 < j.nextId)) = true ∧
    (let s := { replaying with mem := [] }
     let r := s.homeRead (some 1) 0x20000 128
     ((r.1.setJob 1 fun j => { j with tapeN := 0 }).recordReason 1 (LaunchRec.ofBytes r.2).popped false).isSome) = true ∧
    (let s := { replaying with insts := [⟨1, 1, true, 3, true, false, true, false, none, false, none⟩], launches := [] }
     s.insts.all fun i => i.isPhase && i.tapeMode && i.closed && !i.replay && i.status.isNone && !i.cancelled) = true := by
  refine ⟨?_, ?_, ?_, ?_, ?_⟩ <;> decide +kernel
def oneOp (k : EngKind) (l : Option Layout) : State := { probe with ops := [⟨1, k, 0, 1, 1, l, 0, false⟩] }
/-- A record of 16 words of I32 at address 0. -/
def wordsLayout : Layout := Layout.ofBytes (leBytes 64 (16 * 2 ^ (8 * 16) + 2 * 2 ^ (8 * 62)))
/-- A record of 16 words of F32 at address 0, and one of 32 elements of sparse B16 with its bitmap there. -/
def record (plane n0 s0 fmt : Nat) : Layout :=
  Layout.ofBytes (leBytes 64 (plane * 2 ^ 64 + n0 * 2 ^ (8 * 16) + s0 * 2 ^ (8 * 32) + n0 * 2 ^ (8 * 48) + (16 + fmt) * 2 ^ (8 * 58)))
/-- The page at 0 as HOST. -/
def hostPage (s : State) : State := { s with tlb := [page 0 0x20000 (0x1F + 3 * 64)] }
def symbols : Segment := ⟨0, 0, 0, 1, [0x3C00], record 0 16 4 5, none, [], 0, none⟩
def gramOp (k : EngKind) (x : Option Segment) (y : Nat) : State :=
  { withMem (leBytes 4 y) with ops := [⟨1, k, 0, 1, 1, none, 0, false⟩], groups := probe.groups.map fun g => { g with seg := x } }
theorem witness_EngineSteps :
    (∀ k ∈ ([.cpy none false 0 0 [0, 0, 0, 0] 64, .cpyx 0 0 [0, 0, 0, 0] 64 72, .cpyo none false 0 [0, 0, 0, 0] 0,
        .cpyhTo none false 0 [0, 0, 0, 0] 0, .cpyhFrom none false 0 [0, 0, 0, 0] 0] : List EngKind),
      (let s := oneOp k none
       (s.ops.find? fun (o : EngOp) => o.id == 1).any fun o => !o.waiting && o.layout.isNone && s.groups[o.grp]?.isSome &&
         decide (s.check o.asid 0 .write isNormal ≠ .absent)) = true) ∧
    (let l := record 0 16 4 5
     let s := oneOp (.cpy none false 0 0 [0, 0, 0, 0] 64) (some l)
     s.ops.all fun o => decide (l.format = some .f32) && !l.malformed &&
       (match s.boxIn o copyType none false [0, 0, 0, 0] l .f32, s.boxOut o copyType none false 0 [0, 0, 0, 0] l .f32 with
         | (_, .ok _), (_, .ok _) => true | _, _ => false)) = true ∧
    (let l := record 0 16 4 5
     let s := hostPage (oneOp (.cpyhFrom none false 0 [0, 0, 0, 0] 0x1000) (some l))
     s.ops.all fun o =>
       (match s.boxIn o (· == .host) none false [0, 0, 0, 0] l .f32, s.boxOut o (· == .host) none false 0 [0, 0, 0, 0] l .f32 with
         | (_, .ok _), (_, .ok _) => true | _, _ => false)) = true ∧
    (let l := record 0 32 0 11
     let s := oneOp (.cpyx 0 0 [0, 0, 0, 0] 64 72) (some l)
     s.ops.all fun o => decide (l.format = some .sb16) && !l.malformed &&
       (match s.sparseIn o copyType [0, 0, 0, 0] l .sb16 with | (_, .ok _) => true | _ => false)) = true ∧
    (let s := { oneOp (.cpyx 0 0 [0, 0, 0, 0] 64 72) none with mem := cWrite [] 0x20000 (leBytes 4 0x1FFFF) }
     s.ops.all fun o => ((record 0 32 0 11).sparseBlocks .sb16 [0, 0, 0, 0]).length == 1 &&
       (match s.engRead (some 0) 1 copyType (byteAddrs 0 4) with
         | (_, .ok bs) => decide (16 < (List.range 32).countP fun k => (leNat bs).testBit k) && o.asid == 1 | _ => false)) = true := by
  refine ⟨?_, ?_, ?_, ?_, ?_⟩ <;> decide +kernel
/-- Addresses whose read fails, behind one that passes: absent, without permission, of a type that is not accepted; and a write
that fails. -/
theorem witness_EngineFails :
    (let s := { probe with tlb := page 0x6000 0x30000 0x03 :: probe.tlb }
     decide (s.check 1 0 .read isNormal = .ok 0x20000 .normal 0x2001F ∧ s.check 1 0x5000 .read isNormal = .absent ∧
       s.check 1 0x6000 .read isNormal = .perm ∧ s.check 1 0x1000 .read isNormal = .memtype)) = true ∧
    (match probe.engWrite (some 0) 1 copyType [(0x4000, 1)] with | (_, .error _) => true | _ => false) = true ∧
    (match probe.engWrite (some 0) 1 copyType [(0, 1)] with | (_, .ok _) => true | _ => false) = true := by
  refine ⟨?_, ?_, ?_⟩ <;> decide +kernel
theorem witness_Grammar :
    (let s := gramOp (.grun ⟨0, 0, 1, false, 1⟩) none 0
     s.ops.all fun o => s.gramTurn o && s.groups.all fun g => g.seg.isNone) = true ∧
    (let s := gramOp .gout (some { symbols with fault := some (.err 3) }) 0
     s.ops.all fun o => s.gramTurn o && s.groups.all fun g => g.seg.any fun x => x.fault.isSome) = true ∧
    (let s := gramOp (.grun ⟨0, 0, 1, false, 1⟩) (some symbols) 0x80000000
     s.ops.all fun o => s.gramTurn o && (List.range 4).all fun a =>
       decide (s.check o.asid ((0 + a) % 2 ^ 64) .read streamType = .ok (0x20000 + a) .normal 0x2001F)) = true ∧
    (match gramStep symbols ⟨0, 0, 1, false, 1⟩ (fetchGroup 0) ⟨[], 0, 0, [0]⟩ 0x80000000 with | .ok r => r.len == 0 | _ => false) = true ∧
    (match gramStep symbols ⟨0, 0, 1, false, 1⟩ (fetchGroup 0) ⟨[], 0, 0, [0]⟩ 0xC0000000 with | .error _ => true | _ => false) = true := by
  refine ⟨?_, ?_, ?_, ?_, ?_⟩ <;> decide +kernel
/-- A slot with the operation's depth in its tag, one without a tag, and one with another depth; rows stored at their own stride; a
good box of weights, dense and sparse, and a format without a depth. -/
def weights (fmt : Nat) : Layout :=
  Layout.ofBytes (leBytes 64 (32 * 2 ^ (8 * 16) + 2 ^ (8 * 20) + (if fmt = 4 then 2 else 0) * 2 ^ (8 * 32) + 64 * 2 ^ (8 * 36) +
    32 * 2 ^ (8 * 48) + 128 * 2 ^ (8 * 50) + (32 + fmt) * 2 ^ (8 * 58)))
def weightState (k : EngKind) (fmt : Nat) : State := oneOp k (some (weights fmt))
/-- The read of a box of weights succeeds: one column of it is in bounds. -/
theorem test_weightReads :
    ((weightState (.wbld false 0 0 [0, 0, 0, 0] 8) 4).ops.all fun o => o.layout.all fun l =>
      match State.engRead (weightState (.wbld false 0 0 [0, 0, 0, 0] 8) 4) (some 0) o.asid (fun t => t == .normal || t == .row)
        (unitAddrs 2 (l.units .b16 [0, 0, 0, 0] false) ++ unitAddrs 2 (l.exps .b16 [0, 0, 0, 0])) with
      | (_, .ok bs) => bs.length == 64 | _ => false) = true ∧
    ((weightState (.wbld true 0 0 [0, 0, 0, 0] 8) 11).ops.all fun o => o.layout.all fun l =>
      match State.sparseIn (weightState (.wbld true 0 0 [0, 0, 0, 0] 8) 11) o (fun t => t == .normal || t == .row) [0, 0, 0, 0] l .sb16 with
      | (_, .ok vs) => vs.length == 128 | _ => false) = true := by
  refine ⟨?_, ?_⟩ <;> decide +kernel
theorem witness_TileEffects :
    (probe.groups[0]?).any (fun g => g.core == 0 && g.accRows == 64) = true ∧ 0 < probe.cores.length ∧
    LFmt.kOf .e4m3 = LFmt.kOf .e5m2 ∧ LFmt.kOf .b16 ≠ LFmt.kOf .e4m3 ∧
    (((probe.core 0).slots.getD 0 WSlot.empty).tag = none) ∧ 128 * LFmt.eb .f32 ≤ 512 ∧
    (∀ k ∈ ([.mmz 0 1 0, .wbrel 0, .accld .f32 0 512 1 0 0 8, .accst .f32 0 512 1 0 0 8, .mma .b16 0 64 0 0 0 0 8] : List EngKind),
      (let s := oneOp k none; s.ops.all fun o => !o.waiting && o.kind.isTile && s.tileTurn o) = true) ∧
    (let f := LFmt.b16
     let s := weightState (.wbld false 0 0 [0, 0, 0, 0] 8) 4
     s.ops.all fun o => o.layout.all fun l => !l.malformed && decide (l.format = some f) && !l.badBox [0, 0, 0, 0] false &&
       decide (l.tl 0 = f.kOf ∧ l.tl 1 = 128 ∧ l.tl 2 = 1 ∧ l.tl 3 = 1)) = true ∧
    (let f := LFmt.sb16
     let s := weightState (.wbld true 0 0 [0, 0, 0, 0] 8) 11
     s.ops.all fun o => o.layout.all fun l => !l.malformed && decide (l.format = some f) && !l.badBox [0, 0, 0, 0] false &&
       decide (l.tl 0 = f.kOf ∧ l.tl 1 = 128 ∧ l.tl 2 = 1 ∧ l.tl 3 = 1)) = true ∧
    LFmt.kOf .f32 = 0 := by
  refine ⟨?_, ?_, ?_, ?_, ?_, ?_, ?_, ?_, ?_, ?_⟩ <;> decide +kernel
/-- A contribution of rank 0 to an instance that is complete with it, and to one whose contributions do not agree. -/
def instance1 (mismatch : Bool) : State :=
  { probe with creds := [⟨1, 0, 0, 0, [⟨0, 0, .sum, 1, 1, 2, 0x100, 0x40, [0x3F800000, 0x40000000], false, false⟩], mismatch⟩] }
theorem witness_Reduction :
    (((instance1 true).creds.find? fun (x : CredOne) => x.id == 1).any fun x => x.mismatch) = true ∧
    (((instance1 false).creds.find? fun (x : CredOne) => x.id == 1).any fun x => !x.mismatch &&
      (x.contribs.all fun c => !c.late && !c.answered && (List.range 4).all fun r => !c.part.getLsbD r || x.contribs.any fun d => d.rank == r) &&
      match (List.range 4).flatMap (fun r => x.contribs.filter fun c => c.rank == r) with
      | low :: _ => probe.groups[low.grp]?.isSome
      | [] => false) = true := by
  refine ⟨?_, ?_⟩ <;> decide
def crowded : State := { probe with cells := [⟨0x21000, 5, 1, [⟨1, 1, 0⟩]⟩] }
theorem witness_RowSteps :
    probe.frozen = false ∧ 0 < 2 ^ (11 + probe.stackBits) ∧
    (let f : RowFn := { rowFn none with banks := [probe.bankOf 0x90], rows := [0x90] }
     ({ probe with rowFns := [f] } : State).rowFns.find? fun (g : RowFn) => g.handle == 7 && g.banks.contains (probe.bankOf 0x90)).isSome = true ∧
    (let f : RowFn := { rowFn none with banks := [probe.bankOf 0x90, 3], rows := [0x90] }
     f.banks.any fun b => b != 3) = true ∧
    (crowded.cells.find? fun (x : SibCell) => x.pa == 0x21000).any (fun x => decide (x.floor ≤ 4 ∧ (4 : Word) ≤ x.stamp)) = true := by
  refine ⟨?_, ?_, ?_, ?_, ?_⟩ <;> decide +kernel
/-- A word of each kind that the row programs accept; a row with a function pending on it, and a completion word whose row awaits
nothing. -/
theorem witness_RowPrograms :
    (∀ w ∈ [0, 0x08000000, 0x10000000, 0x18000040, 0x58000040, 0x60000000, 0x68000000, 0x70000001, 0x7B000000, 0x93000000, 0x98000001, 0xA0000000],
      w < 2 ^ 32 ∧ rowWordReason w = none ∧ w / 2 ^ 27 ≠ 0x15) ∧
    (List.replicate 4 (0 : BitVec 8192)).length = 4 ∧
    (let f : RowFn := { rowFn none with rows := [0x90], cword := some 0x20000 }
     let s : State := { probe with rowFns := [f], rowApps := [(0x90, 7)], softErrs := [0x90], hardErrs := [0x90] }
     s.wordsQuiet ∧ s.bankOf 0x90 < 2 ^ (11 + if s.build.small then 2 else 3)) := by
  refine ⟨by decide, by decide, ?_, by decide⟩
  intro f hf pa hpa
  simp only [List.mem_singleton] at hf
  subst hf
  cases hpa
  decide
/-- Enough sibling state in a cell itself to leave fewer than 1024 entries: 7170 siblings. -/
theorem witness_floorRaise :
    let x : SibCell := ⟨0x21000, 5, 1, List.replicate 7170 ⟨1, 1, 0⟩⟩
    let s : State := { probe with cells := [x] }
    s.cells.find? (fun (y : SibCell) => y.pa == 0x21000) = some x ∧ 7168 < s.sliceUsed 0x21000 + (x.sibs.length - 1) ∧
      x.floor ≤ 4 ∧ (4 : Word) ≤ x.stamp := by
  refine ⟨by rfl, ?_, by decide, by decide⟩
  simp only [List.length_replicate]
  omega
def waitingTrap : State :=
  { probe with
    jobs := [{ fetchJob with handler := some probeRec }]
    traps := [⟨1, 1, ⟨1, 0, ⟨.trap, 0, 0, 0⟩, 1, 0, 0, false, true, false, 0, 0x66701, 0⟩, 0, some 0, some ⟨0, 0⟩, 0, none, false⟩] }
def stuckState (h : Option LaunchRec) : State :=
  { probe with
    groups := [], jobs := [{ fetchJob with handler := h, desc := { fetchJob.desc with qscr := 0 } }]
    launches := [{ readyLaunch with lr := { probeRec with quant := 5 } }] }
theorem witness_FaultSteps :
    waitingTrap.frozen = false ∧
    (waitingTrap.reserveFree 1 0 && ((waitingTrap.job 1).any fun j => j.active && j.handler.isSome) &&
      (waitingTrap.traps.any fun t => t.slot.isSome && t.handler.isNone) &&
      ((List.range 9).find? fun n => waitingTrap.placeOk 1 probeRec.take probeRec.dict? true ⟨0, 64 * n⟩).isSome) = true ∧
    ((stuckState none).launches.all fun l => decide ((stuckState none).stuckGroup l = some 0) && l.status.isNone && !l.cancelled) = true ∧
    ((stuckState (some probeRec)).coreOn 0 && ((stuckState (some probeRec)).freeSlot 1 0).isSome &&
      (stuckState (some probeRec)).reserveFree 1 0) = true ∧
    (let s : State := { probe with groups := [], launches := [], jobs := [{ fetchJob with stopping := some (.cancel, []) }] }
     (s.job 1).any fun j => j.stopping.isSome && !j.stopped) = true ∧
    (let s : State := { probe with parked := [⟨1, 0, 0, 0, 1, .thread ⟨0, 0⟩, none, none, 0, false⟩], jobs := [{ fetchJob with desc := { fetchJob.desc with fbcap := 1 } }] }
     (s.parked.find? fun p => p.asid == 1 && p.entry.isNone && p.resp.isNone).isSome && (s.job 1).any fun j => !bit (s.fbCtl j 0) 7) = true := by
  refine ⟨?_, ?_, ?_, ?_, ?_, ?_⟩ <;> decide +kernel
theorem witness_WindowWrites : probe.frozen = false ∧ (63 : Nat) < 64 ∧ (0xFFFFFF00 : Word).toNat % 256 = 0 ∧ probe.mgmt.astat ≠ 1 ∧
    ({ probe with mgmt := { probe.mgmt with astat := 1 } } : State).mgmt.astat = 1 := by decide
/-- A vector masked and unmasked, with its bit pending; a word of the table; CMD's upper half with and without an ASID; a queue, a
log entry and a refresh period to read. -/
theorem witness_WindowReads :
    (287 : Nat) < 288 ∧ (cGet probe.mgmt.msixTable (16 * 71 + 12)).getLsbD 0 = true ∧
    (let m := { probe.mgmt with msixTable := cWrite probe.mgmt.msixTable (16 * 71 + 12) (leBytes 4 0), msixPend := BitVec.ofNat 72 (2 ^ 71) }
     (cGet m.msixTable (16 * 71 + 12)).getLsbD 0 = false ∧ m.msixPend.getLsbD 71 = true) ∧
    (0x01000000 : Word).toNat / 2 ^ 24 = 1 ∧ (0x01000000 : Word).extractLsb' 0 12 = (0 : BitVec 12) ∧ probe.mgmt.boot = 1 ∧
    probe.mgmt.periods ≠ [] ∧ probe.queues[63]?.isSome = true ∧ probe.elog[63]?.isSome = true ∧
    (0x10490 : Nat) % 4 = 0 := by
  refine ⟨?_, ?_, ?_, ?_, ?_, ?_, ?_, ?_, ?_, ?_⟩ <;> decide +kernel
/-- State RUN; an ASID without a job and one with; a stopped, a suspended and an active job; links within and beyond; a good
descriptor at CARG and a bad one. -/
theorem witness_Commands :
    probe.frozen = false ∧ probe.mgmt.boot = 1 ∧ probe.job 2 = none ∧ (probe.job 1).any (fun j => !j.stopped && !j.suspended && j.pre.isNone) = true ∧
    (({ probe with jobs := [{ fetchJob with stopped := true, suspended := true }] } : State).job 1).any (fun j => j.stopped && j.suspended) = true ∧
    (0 : Nat) < probe.numLinks ∧ ¬ (200 : Nat) < probe.numLinks ∧ probe.mgmt.carg.toNat % 128 = 0 ∧
    ({ probe.mgmt with carg := 1 } : Mgmt).carg.toNat % 128 ≠ 0 ∧ (0x0B : Nat) < (0x0C : BitVec 8).toNat ∧
    (JobDesc.ofBytes (leBytes 128 (2 ^ (8 * 64) + 2 ^ (8 * 89) + 2 ^ (8 * 92)))).2 = true ∧
    (JobDesc.ofBytes (leBytes 128 (2 ^ (8 * 64) + 2 ^ (8 * 89) + 2 ^ (8 * 92)))).1.ok probe.memSize = true ∧
    (JobDesc.ofBytes []).1.ok probe.memSize = false := by
  refine ⟨?_, ?_, ?_, ?_, ?_, ?_, ?_, ?_, ?_, ?_, ?_, ?_, ?_⟩ <;> decide +kernel
theorem witness_Descriptor : (leBytes 128 0).length = 128 := by decide +kernel
/-- Tables whose first entry points to themselves and whose next maps a page: with permission to read and NORMAL, without it, of
another type; a handler record there and none. -/
def tables (leaf : Nat) (rec_ : List Byte) : State :=
  { probe with mem := cWrite (cWrite [] 0x10000 (leBytes 16 (0x10001 + leaf * 2 ^ 64))) 0x20000 rec_ }
def handled : JobDesc := { fetchJob.desc with ptroot := 0x10000, hrec := 0x1000 }
def leafOf_ (s : State) (p : Tlb → Bool) : Bool :=
  match s.walkFrom handled.asid (handled.hrec.toNat % 2 ^ 57) 4 handled.ptroot with | .leaf t => p t | _ => false
theorem witness_HandlerRecord :
    canonical handled.hrec.toNat = true ∧ handled.hrec ≠ 0 ∧ canonical (2 ^ 63) = false ∧
    leafOf_ (tables 0x20003 []) (fun t => !t.pte.toNat.testBit 2) = true ∧
    leafOf_ (tables (0x20007 + 64) []) (fun t => t.pte.toNat.testBit 2 && decide (pteType t.pte.toNat ≠ some .normal)) = true ∧
    leafOf_ (tables 0x20007 []) (fun t => t.pte.toNat.testBit 2 && decide (pteType t.pte.toNat = some .normal) &&
      (let r := (tables 0x20007 []).homeRead (some handled.asid) (t.pa + (handled.hrec.toNat % 2 ^ 57 - t.va)) 128
       (r.1.recordReason handled.asid (LaunchRec.ofBytes r.2) true).isSome)) = true ∧
    leafOf_ (tables 0x20007 launchBytes) (fun t => t.pte.toNat.testBit 2 && decide (pteType t.pte.toNat = some .normal) &&
      (let r := (tables 0x20007 launchBytes).homeRead (some handled.asid) (t.pa + (handled.hrec.toNat % 2 ^ 57 - t.va)) 128
       (r.1.recordReason handled.asid (LaunchRec.ofBytes r.2) true).isNone)) = true ∧
    (match (tables 0x20000 []).walkFrom 1 0x1000 4 0x10000 with | .leaf _ => false | _ => true) = true ∧
    probe.memSize < (0xFFFFFFFFFFFFFF80 : Dword).toNat + 128 := by
  refine ⟨?_, ?_, ?_, ?_, ?_, ?_, ?_, ?_, ?_⟩ <;> decide +kernel
/-- A descriptor at CARG: refused, of a bound ASID, of a new one. -/
def described (n : Nat) : State := { probe with mem := cWrite [] 0 (leBytes 128 n) }
theorem witness_Bind :
    (described 0).mgmt.carg.toNat % 128 = 0 ∧ (described 0).mgmt.carg.toNat + 128 ≤ (described 0).memSize ∧
    (let r := (described 0).homeRead none 0 128
     (JobDesc.ofBytes r.2).2 = true ∧ (JobDesc.ofBytes r.2).1.ok (described 0).memSize = false ∧ (JobDesc.ofBytes r.2).1.quotaOk = false) ∧
    (let s := described (2 ^ (8 * 64) + 2 ^ (8 * 89) + 2 ^ (8 * 92))
     let r := s.homeRead none 0 128
     (JobDesc.ofBytes r.2).1.ok s.memSize = true ∧ (r.1.job (JobDesc.ofBytes r.2).1.asid).isSome = true ∧ (JobDesc.ofBytes r.2).1.quotaOk = true) ∧
    (let s := described (2 ^ (8 * 64) + 2 ^ (8 * 89) + 2 * 2 ^ (8 * 92))
     let r := s.homeRead none 0 128
     (JobDesc.ofBytes r.2).2 = true ∧ (JobDesc.ofBytes r.2).1.ok s.memSize = true ∧ r.1.job (JobDesc.ofBytes r.2).1.asid = none) := by
  refine ⟨?_, ?_, ?_, ?_, ?_⟩ <;> decide +kernel
theorem witness_PortAccesses :
    probe.frozen = false ∧ probe.mgmt.boot = 1 ∧ probe.quietMem ∧ 0x1000 + 8 ≤ probe.memSize ∧
    ({ probe with mgmt := { probe.mgmt with boot := 0 } } : State).mgmt.boot ≠ 1 ∧
    (probe.links[0]?).any (fun l => !l.down) = true ∧ (({ probe with links := [⟨false, true, []⟩] } : State).links[0]?).any (fun l => l.down) = true :=
  ⟨rfl, rfl, ⟨rfl, rfl, rfl, rfl, rfl⟩, by decide, by decide, by decide, by decide⟩
/-- A device with CXL.mem and one without; links up, down and with an access that waits; a location that holds a cell; addresses at
the end of memory and beyond it. -/
theorem witness_Ports :
    ({ probe with build := { probe.build with cxlm := true } } : State).build.cxlm = true ∧
    ({ probe with build := { probe.build with cxlm := false } } : State).build.cxlm = false ∧
    (probe.links[0]?).any (fun l => !l.down && l.inq.isEmpty) = true ∧
    (({ probe with links := [⟨false, false, [.access (.read 0 8)]⟩] } : State).links[0]?).any (fun l => !l.down && !l.inq.isEmpty) = true ∧
    (let s : State := { probe with cells := [⟨0x21000, 5, 0, [⟨5, 3, 0⟩]⟩] }
     (∃ x ∈ s.cells, x.pa = 8 * 0x4200) ∧ 8 * 0x4200 + 8 ≤ s.memSize) ∧ probe.memSize - 8 + 8 ≤ probe.memSize ∧ 8 * 1 + 8 ≤ probe.memSize := by
  refine ⟨?_, ?_, ?_, ?_, ⟨⟨_, List.mem_singleton.mpr rfl, ?_⟩, ?_⟩, ?_, ?_⟩ <;> decide +kernel
def coll (desc : Option Dword) (err : Option Nat) : Coll := ⟨1, 0, 1, 1, 0, 0, 0, 1, 5, 0, 1, 0, 5, false, false, [(0, ⟨5, 0, 1, 5, [0]⟩)], desc, false, err⟩
theorem witness_Collectives :
    probe.frozen = false ∧ (({ probe with colls := [coll (some 64) none] } : State).colls.find? fun c => c.grp == 0 && c.desc == some 64 && !c.waiting).isSome = true ∧
    (({ probe with colls := [coll none (some 3)] } : State).colls.find? fun c => c.id == 1).any (fun c => c.desc.isNone && c.err.isSome) = true ∧
    (∀ l, l < 24 → (coll none none).inmask.getLsbD l = true → ∃ t ∈ (coll none none).taken, t.1 = l) ∧
    (coll none none).cword.toNat % 8 = 0 ∧ probe.check 1 0 .write isNormal = .ok 0x20000 .normal 0x2001F ∧ (coll none none).fmt = 5 := by
  refine ⟨?_, ?_, ?_, ?_, ?_, ?_, ?_⟩ <;> decide
/-- Descriptors of a collective: at a page, absent, of a type that is not accepted; operations that want what a queue holds, or whose
descriptor is still to be read; an element of each kind. -/
theorem witness_CollectiveSteps :
    (64 : Dword).toNat % 64 = 0 ∧ (1 : Dword).toNat % 64 ≠ 0 ∧
    (match State.engRead probe none 1 isNormal ((List.range 64).map fun k => ((64 : Dword).toNat + k) % 2 ^ 64) with | (_, .ok _) => true | _ => false) = true ∧
    (match State.engRead probe none 1 isNormal ((List.range 64).map fun k => ((0x5000 : Dword).toNat + k) % 2 ^ 64) with
      | (_, .error (.absent ..)) => true | _ => false) = true ∧
    (match State.engRead probe none 1 isNormal ((List.range 64).map fun k => ((0x1000 : Dword).toNat + k) % 2 ^ 64) with
      | (_, .error (.fail _)) => true | _ => false) = true ∧
    (let c := { coll none none with taken := [] }
     c.err = none ∧ c.tag = (5 : Word) ∧ c.inmask.getLsbD 0 = true ∧ ∀ t ∈ c.taken, t.1 ≠ 0) ∧
    (coll none none).desc = none ∧ (coll (some 64) none).desc.isSome = true ∧
    (match State.engRead probe none 1 collType ((List.range (4 * 1)).map fun k => ((0x10 : Dword).toNat + k) % 2 ^ 64) with | (_, .ok _) => true | _ => false) = true ∧
    (match State.engWrite probe none 1 collType [(0, 1), (1, 2)] with | (_, .ok _) => true | _ => false) = true ∧
    (match State.engWrite probe none 1 collType [(0x4000, 1)] with | (_, .error _) => true | _ => false) = true ∧
    ({ coll none none with isMax := false, rs := false } : Coll).fmt = 5 ∧ ({ coll none none with fmt := 6 } : Coll).fmt ≠ 5 := by
  refine ⟨?_, ?_, ?_, ?_, ?_, ⟨?_, ?_, ?_, ?_⟩, ?_, ?_, ?_, ?_, ?_, ?_, ?_⟩ <;> decide +kernel
theorem witness_DeviceServices :
    probe.frozen = false ∧ probe.cells = [] ∧ 0 < probe.numStacks ∧
    ({ probe with mgmt := { probe.mgmt with boot := 0 } } : State).mgmt.boot = 0 ∧
    ({ probe with mgmt := { probe.mgmt with astat := 1 } } : State).mgmt.astat = 1 ∧ ({ probe with frozen := true } : State).frozen = true ∧
    isEvent (.sweepVisit 3) = true := by decide
def started : State := State.withFetchWord (State.resetOf ⟨true, false, [], 0x7F⟩ 0) 64 0x66701
/-- A NOP where the next step fetches it, and a device step. -/
theorem witness_StepRunsInstruction :
    started.turns = .issue 0 0 false :: [] ∧ started.frozen = false ∧
    (((started.core 0).ctxs.getD 0 none).any fun x => decide ((x.gang false).todo = [⟨0, 0⟩])) = true ∧
    (let v : State := { started with turns := [] }
     (started.groups[0]?).any fun g => (started.thr ⟨0, 0⟩).any fun t => started.ready g t && t.status == .ready && t.held.isNone &&
       t.badPc.isNone && (let f := v.fetchBlock g.core g.asid t
         decide (t.pc = 0 ∧ f.check g.asid 0 .fetch isNormal = .ok 0x20000 .normal 0x2001F) && lengthOf (f.insnAt 0x20000 4) == 8 &&
           reads (f.insnAt 0x20000 8) (.nop hp))) = true ∧
    isEvent (.sweepVisit 3) = true ∧ (match exec (.sweepVisit 3) probe with | .next _ => true | _ => false) = true := by
  refine ⟨?_, ?_, ?_, ?_, ?_, ?_⟩ <;> decide +kernel
theorem witness_EveryStepAnswers : isEvent (.sweepVisit 3) = true ∧ probe.curOk :=
  ⟨by decide, _, _, rfl, rfl⟩
theorem witness_StepKeepsMemoryCanonical : started.canon = true ∧ (match step started with | .next _ => true | _ => false) = true := by
  refine ⟨?_, ?_⟩ <;> decide +kernel
theorem witness_EncodeRoundTrip : (Instr.iadd hp 3 (.d 1) (.d 2)).wf = true ∧ encode (.iadd hp 3 (.d 1) (.d 2)) = some 0x0000020103000701 := by
  decide
theorem witness_DecodeUnique : decode 0x0000020103000701 = .ok (.iadd hp 3 (.d 1) (.d 2)) := by rfl
/-- A guard that fails, by NEG on q7 and by a predicate that is false; no window open. -/
theorem witness_GuardsAndWindows :
    (probe.thr ⟨0, 0⟩).any (fun t => !t.guardOpen hNever && !t.guardOpen hQ1 && !t.deliverAll.q.getLsbD 1 && t.windows.isEmpty) = true ∧
    isEvent (.ret hQ1) = false ∧ probe.cur.ref = ⟨0, 0⟩ ∧ probe.groups[0]?.isSome = true := by decide
/-- A part without its copy engine; an odd pair; a register of an open window. -/
theorem witness_CheckOrder :
    ({ probe with build := ⟨true, false, [], 0⟩ } : State).unitAbsent 0xB0 = true ∧ probe.unitAbsent 0xB0 = false ∧
    legal (.ladd hp .full 5 (.d 2) (.d 6)) = false ∧ regsExist 32 (.iadd hp 40 (.d 1) (.d 2)) = false ∧
    RegName.d 3 ∈ namesOf (.iadd hp 3 (.d 1) (.d 2)) ∧ (RegName.d 3).code < 1023 ∧ hintOnly (.iadd hp 3 (.d 1) (.d 2)) = false ∧
    ((tweak fun t => { t with windows := [⟨2, [.d 3], .vals []⟩] }).thr ⟨0, 0⟩).any (fun t =>
      t.windows.any fun w => w.left != 0 && w.dset.contains (.d 3)) = true := by decide
theorem witness_RegisterFrame : regDests (.fadd hp .rn 3 (.d 1) (.d 2)) = some [.d 3, .fstat] ∧
    (∃ g t, Runs probe (.fadd hp .rn 3 (.d 1) (.d 2)) g t) ∧ unwritten (.d 9) [.reg (.d 3) 0] ∧ keepsFlags [.reg (.d 3) 0] :=
  ⟨rfl, runs_of (by decide), by intro v h; simp at h, by intro w hw v f; simp at hw; subst hw; simp⟩

/-! ## Small cases worked in the spec -/

/-- R160: C = 0x00010203 reverses the bytes of A; C = 0x34343404 sign-extends the low byte of B. -/
theorem test_bmix : bmix 0x11223344 0x80 0x00010203 = 0x44332211 ∧ bmix 0x11223344 0x80 0x34343404 = 0xFFFFFF80 := by decide
/-- R143: the corners of division. -/
theorem test_division : (match exec (.idiv hp false 3 (.d 0) (.d 1)) (withD [(0, 0x80000000), (1, 0xFFFFFFFF)]) with
    | .next s => (s.thr ⟨0, 0⟩).any fun t => decide (t.dreg 3 = 0x80000000) | _ => false) = true ∧
    (match exec (.irem hp true 3 (.d 0) (.d 1)) (withD [(0, 77), (1, 0)]) with
    | .next s => (s.thr ⟨0, 0⟩).any fun t => decide (t.dreg 3 = 77) | _ => false) = true := by decide
/-- R182: BRX to an address whose bits [63:57] differ from bit 56 leaves the fault to the fetch. -/
theorem test_brx_bad_target : (match exec (.brx hp 20) (withD [(20, 0), (21, 0x01000000)]) with
    | .next s => (s.thr ⟨0, 0⟩).any fun t => t.badPc.isSome | _ => false) = true := by decide
/-- R90: an inexact F32 sum raises IX alone; 1/0 gives infinity with DZ. -/
theorem test_float_flags : (fltAdd .f32 .rn false 0x3F800000 0x33000000).fl = fIX ∧
    ((fltDiv .f32 .rn false 0x3F800000 0).bits, (fltDiv .f32 .rn false 0x3F800000 0).fl) = (0x7F800000, fDZ) := by decide
/-- R243: an arrival that takes a count of 5 below 0 sets the underflow mark. -/
theorem test_arrival : arvArrive 5 8 0 = 0x40000000FFFFFFFD := by decide
theorem witness_NewHandles : (({ probe with rowFns := [rowFn none] } : State).rowFns.filter fun f => f.asid == 1).length < 2 ^ 32 - 1 := by
  decide

end Sys2Proof.Tests
end

section
/-! SUPPORT. IDIV and IREM (R143): the words `divW` and `remW` by the library's division of bit vectors and of integers, and
the equation that ties them together. -/

namespace Sys2Proof.Machine

/-! ## Instructions that only read and write registers -/

/-- An instruction whose meaning is `regOp` completes with the results that its meaning computes. -/
theorem yields_of_exec_eq_regOp {i : Instr} {ws : Ctx → List Write} (e : ∀ s, exec i s = regOp i s ws)
    (hn : ∀ r, i ≠ .illegalOpcode r := by intro r; simp) : Yields i ws :=
  fun s _ _ h => (e s).trans (regOp_runs h ws hn)

theorem yields_idiv (h : Hdr) (u : Bool) (d : DReg) (a b : Src) :
    Yields (.idiv h u d a b) fun c => toD d (divW u (c.w a) (c.w b)) :=
  yields_of_exec_eq_regOp fun s => exec_idiv h u d a b s

theorem yields_irem (h : Hdr) (u : Bool) (d : DReg) (a b : Src) :
    Yields (.irem h u d a b) fun c => toD d (remW u (c.w a) (c.w b)) :=
  yields_of_exec_eq_regOp fun s => exec_irem h u d a b s

/-! ## Quotient and remainder, case by case -/

theorem divW_zero (u : Bool) (x : Word) : divW u x 0 = 0xFFFFFFFF := rfl

theorem remW_zero (u : Bool) (x : Word) : remW u x 0 = x := rfl

theorem divW_unsigned {y : Word} (hy : y ≠ 0) (x : Word) : divW true x y = BitVec.ofNat 32 (x.toNat / y.toNat) := by
  rw [divW, if_neg hy, if_pos rfl]

theorem divW_signed {y : Word} (hy : y ≠ 0) (x : Word) : divW false x y = BitVec.ofInt 32 (x.toInt.tdiv y.toInt) := by
  rw [divW, if_neg hy, if_neg Bool.false_ne_true]

/-- The unsigned remainder is the library's, by 0 too. -/
theorem remW_unsigned (x y : Word) : remW true x y = x % y := by
  by_cases hy : y = 0
  · subst hy; exact BitVec.umod_zero.symm
  · apply BitVec.eq_of_toNat_eq
    have hlt : x.toNat % y.toNat < 2 ^ 32 := (Nat.mod_le ..).trans_lt x.isLt
    rw [remW, if_neg hy, if_pos rfl, BitVec.toNat_ofNat, Nat.mod_eq_of_lt hlt, BitVec.toNat_umod]

/-- The signed remainder is the library's, by 0 too. -/
theorem remW_signed (x y : Word) : remW false x y = x.srem y := by
  by_cases hy : y = 0
  · subst hy; exact BitVec.srem_zero.symm
  · calc remW false x y = BitVec.ofInt 32 (x.toInt.tmod y.toInt) := by
          rw [remW, if_neg hy, if_neg Bool.false_ne_true]
      _ = x.srem y := by rw [← BitVec.toInt_srem, BitVec.ofInt_toInt]

/-! ## What R143 says of them -/

/-- A = quotient × B + remainder modulo 2^32. -/
theorem divW_mul_add_remW (u : Bool) (x y : Word) : divW u x y * y + remW u x y = x := by
  by_cases hy : y = 0
  · rw [hy, remW_zero, mul_zero, zero_add]
  cases u with
  | true =>
    apply BitVec.eq_of_toNat_eq
    rw [divW_unsigned hy, remW_unsigned]
    simp [Nat.div_add_mod', Nat.mod_eq_of_lt x.isLt]
  | false =>
    calc divW false x y * y + remW false x y
        = BitVec.ofInt 32 (x.toInt.tdiv y.toInt) * BitVec.ofInt 32 y.toInt + BitVec.ofInt 32 (x.toInt.tmod y.toInt) := by
          rw [divW_signed hy, remW_signed, ← BitVec.toInt_srem, BitVec.ofInt_toInt, BitVec.ofInt_toInt]
      _ = BitVec.ofInt 32 (x.toInt.tdiv y.toInt * y.toInt + x.toInt.tmod y.toInt) := by
          rw [BitVec.ofInt_add, BitVec.ofInt_mul]
      _ = x := by rw [Int.tdiv_mul_add_tmod, BitVec.ofInt_toInt]

theorem remW_unsigned_lt {y : Word} (hy : y ≠ 0) (x : Word) : (remW true x y).toNat < y.toNat := by
  have hy' : y.toNat ≠ 0 := fun e => hy (BitVec.eq_of_toNat_eq e)
  rw [remW_unsigned, BitVec.toNat_umod]
  exact Nat.mod_lt _ (Nat.pos_of_ne_zero hy')

theorem remW_signed_natAbs_lt {y : Word} (hy : y ≠ 0) (x : Word) :
    (remW false x y).toInt.natAbs < y.toInt.natAbs := by
  have hy' : y.toInt ≠ 0 := fun e => hy (BitVec.eq_of_toInt_eq e)
  rw [remW_signed, BitVec.toInt_srem, Int.natAbs_tmod]
  exact Nat.mod_lt _ (Int.natAbs_pos.mpr hy')

/-- A nonzero signed remainder has the sign of A. -/
theorem remW_signed_neg_iff {x y : Word} (hr : remW false x y ≠ 0) : (remW false x y).toInt < 0 ↔ x.toInt < 0 := by
  have hr' : x.toInt.tmod y.toInt ≠ 0 := by
    rw [remW_signed] at hr
    exact fun e => hr (BitVec.eq_of_toInt_eq ((BitVec.toInt_srem x y).trans e))
  have hsign : (x.toInt.tmod y.toInt).sign = x.toInt.sign := by
    rw [Int.sign_tmod, if_neg fun hd => hr' (Int.tmod_eq_zero_of_dvd hd)]
  rw [remW_signed, BitVec.toInt_srem, ← Int.sign_eq_neg_one_iff_neg, hsign, Int.sign_eq_neg_one_iff_neg]

/-- Settles O3: IDIV yields `divW` and IREM `remW` of its operands, and these meet the table of R143 row by row. -/
theorem divisionResults : Obligations.DivisionResults := by
  intro h u d a b
  refine ⟨divW u, remW u, yields_idiv h u d a b, yields_irem h u d a b, fun x y =>
    ⟨(divW_mul_add_remW u x y).symm, ?byZero, ?unsigned, ?signed⟩⟩
  case byZero =>
    rintro rfl
    exact ⟨divW_zero u x, remW_zero u x⟩
  case unsigned =>
    rintro hy rfl
    exact ⟨divW_unsigned hy x, remW_unsigned_lt hy x⟩
  case signed =>
    rintro hy rfl
    exact ⟨divW_signed hy x, remW_signed_natAbs_lt hy x, remW_signed_neg_iff⟩

end Sys2Proof.Machine
end

section
/-! SUPPORT. TLBINV (R312): which retained translations each form drops. -/

namespace Sys2Proof.Machine

/-! ## Instructions that always complete in a state of their own -/

/-- An instruction whose meaning completes in every context completes whenever it runs. -/
theorem completes_of_exec_eq_issue {i : Instr} {u : Ctx → State → State} {ws : Ctx → State → List Write}
    (e : ∀ s, exec i s = issue i s fun c s => .done (u c s) (ws c s)) (hn : ∀ r, i ≠ .illegalOpcode r := by intro r; simp) :
    Completes i (fun _ _ => True) u ws :=
  fun s _ _ h _ => (e s).trans (issue_done h rfl hn)

/-! ## The translations that are dropped -/

/-- Without an address, every translation of the ASID. -/
theorem State.dropTlb_none (s : State) (asid : Nat) :
    s.dropTlb asid none = { s with tlb := s.tlb.filter fun t => !(t.asid == asid && true) } := rfl

/-- With an address, those of the ASID whose page holds it, of any size; at an address that is not canonical, none. -/
theorem State.dropTlb_some (s : State) (asid a : Nat) :
    s.dropTlb asid (some a) =
      { s with tlb := s.tlb.filter fun t => !(t.asid == asid &&
          (canonical a && decide (t.va ≤ a % 2 ^ 57) && decide (a % 2 ^ 57 < t.va + t.size))) } := rfl

/-! ## What the two forms do -/

theorem completes_tlbinvAll (h : Hdr) : Completes (.tlbinvAll h) (fun _ _ => True)
    (fun c s => (s.dropTlb c.g.asid none).clearL1 c.g.core) fun _ _ => [] :=
  completes_of_exec_eq_issue fun s => exec_tlbinvAll h s

theorem completes_tlbinvPage (h : Hdr) (n : DReg) : Completes (.tlbinvPage h n) (fun _ _ => True)
    (fun c s => (s.dropTlb c.g.asid (some (c.t.dpair n.toNat).toNat)).clearL1 c.g.core) fun _ _ => [] :=
  completes_of_exec_eq_issue fun s => exec_tlbinvPage h n s

/-- Settles O39: each form completes whenever it runs, and `dropTlb` drops exactly the translations that R312 names. -/
theorem translationDrops : Obligations.TranslationDrops := by
  refine ⟨fun h => ?all, fun h n => ?page⟩
  case all => simpa only [State.dropTlb_none] using completes_tlbinvAll h
  case page => simpa only [State.dropTlb_some] using completes_tlbinvPage h n

end Sys2Proof.Machine
end
